-- ==== Sys2Proof/Word.lean ====
section
/-! DEFINITION. The word types of the VX-250 and their plainest arithmetic (R5: bits are numbered from 0 at the
least significant end). -/

namespace Sys2Proof

/-- One byte. -/
abbrev Byte := BitVec 8

/-- A 64-bit word: token payload, register, controller w register. -/
abbrev W64 := BitVec 64

/-- A 32-bit word: one configuration command (R8). -/
abbrev W32 := BitVec 32

/-- Field [lo + len - 1 : lo] of a bit vector, as a natural number. -/
def fieldNat {n : Nat} (x : BitVec n) (lo len : Nat) : Nat := (x.toNat >>> lo) % 2 ^ len

/-- Bit i of a natural number. -/
def natBit (x i : Nat) : Bool := x.testBit i

/-- 1 for true, 0 for false. -/
def boolNat (b : Bool) : Nat := if b then 1 else 0

/-- Ceiling of a / b (0 for b = 0). -/
def ceilDiv (a b : Nat) : Nat := (a + b - 1) / b

end Sys2Proof
end

