-- ==== Sys2Proof/Syntax.lean ====
section
/-! DEFINITION. The steps of the VX-250 as syntax: one constructor per row of the table of operations and events. The
eight configuration commands carry the fields of Tables 1.1 and 8.1, the controller instructions the fields of the seven
formats of Table 8.11, the cell operations the fields of the operation word (Table 8.4), the island commands their two
words (R102). A row that is an event carries what the event brings with it from outside; who performs a step (die,
region, cell, island, port) is the focus of the state. -/

namespace Sys2Proof

/-- Format K (Table 8.11): a command stream. -/
structure FmtK where
  off : BitVec 28
  cnt : BitVec 20
  deriving DecidableEq, Repr

/-- Format R (Table 8.11): the mask of i0 to i3. -/
structure FmtR where
  mask : BitVec 4
  deriving DecidableEq, Repr

/-- Format G (Table 8.11) without SUB, which the constructor gives. -/
structure FmtG where
  wd : BitVec 4
  wa : BitVec 4
  wb : BitVec 4
  imm : BitVec 1
  slot : BitVec 8
  imm32 : BitVec 32
  deriving DecidableEq, Repr

/-- Format B (Table 8.11): CC or WC, and the signed offset in 8-byte words. -/
structure FmtB where
  cc : BitVec 4
  ofs : BitVec 32
  deriving DecidableEq, Repr

/-- Format J (Table 8.11) without REORDER, which the constructor gives. -/
structure FmtJ where
  pord : BitVec 8
  cord : BitVec 8
  width : BitVec 2
  far : BitVec 1
  desc : BitVec 28
  deriving DecidableEq, Repr

/-- The operation word below the opcode (Table 8.4): TYPE, RDST, RM and MOD. -/
structure Mods where
  ty : BitVec 5
  rdst : BitVec 6
  rm : BitVec 3
  mod : BitVec 17
  deriving DecidableEq, Repr

/-- The two words of an engine command (R102). -/
structure EngWords where
  w0 : BitVec 64
  w1 : BitVec 64
  deriving DecidableEq, Repr

/-- A Nareb or die-to-die flit: the header fields of Table 24.1 and 56 payload bytes (R314). -/
structure Flit where
  dst : BitVec 12
  src : BitVec 12
  kind : BitVec 4
  tag : BitVec 16
  slot : BitVec 12
  esc : BitVec 1
  fidx : BitVec 3
  payload : List Byte
  deriving DecidableEq, Repr

/-- The steps of the part, one per row of the table. -/
inductive Instr where
  /-- WRITE (R93). Configuration command that replaces one field of a cell, or of every target cell under a preceding REPEAT or BMASK, with a value extended by any preceding EXTENDs. -/
  | write (c : BitVec 14) (f : BitVec 6) (v : BitVec 10)
  /-- EXTEND (R9). Configuration command that supplies 30 more upper value bits for the WRITE or TOKEN that follows it. -/
  | extend (v : BitVec 30)
  /-- SELECT_BASE (R91). Configuration command that sets the base added to the cell index of every later WRITE, TOKEN and START of the CFG. -/
  | selectBase (b : BitVec 14)
  /-- SELECT_REPEAT (R92). Configuration command that makes the next WRITE apply to count cells spaced by a stride. -/
  | selectRepeat (st n : BitVec 14)
  /-- SELECT_BMASK (R91). Configuration command that makes the next WRITE apply to the same cell number in every block of a rectangle of rows and columns. -/
  | selectBmask (a b c d : BitVec 4)
  /-- TOKEN (R32). Configuration command that adds an initial token of a given kind and payload to an input port's list. -/
  | token (k : BitVec 3) (c : BitVec 14) (p : BitVec 2) (v : BitVec 9)
  /-- START (R32). Configuration command that sets the start mark of a cell's input port. -/
  | start (c : BitVec 14) (p : BitVec 2)
  /-- END (R94). Configuration command that closes a CFG, makes its order table take effect, runs the END checks and rebuilds the pitch's start state. -/
  | cfgEnd
  /-- CFG (R203). Controller instruction that clears the sticky flags and applies COUNT configuration commands from the route image, one per cycle. -/
  | cfg (k : FmtK)
  /-- PCFG (R204). Controller instruction that requests a command stream's lines into the configuration cache without applying them. -/
  | pcfg (k : FmtK)
  /-- RUN (R205). Controller instruction that invalidates the region's L1s and starts the resident configuration for N passes. -/
  | run (r : FmtR)
  /-- RUN_PASS (R205). Delivery of the start tokens of pass n to every start-marked port once each has a free slot and pass n-1 has gone. -/
  | runPass
  /-- BELAY (R206). Controller instruction that waits for the running pitch to become quiescent with its engine commands drained. -/
  | belay
  /-- BELAY_PASS (R206). Completion of a waiting BELAY once the pitch is quiescent: reports recorded engine faults, applies the free list, commits stage queues, invalidates L1s and stops the pitch. -/
  | belayPass
  /-- WAITC (R207). Controller instruction that waits until the pitch is quiescent or b cycles pass. -/
  | waitc (g : FmtG)
  /-- WAITC_END (R207). End of a WAITC wait, setting wd to 1 if the pitch was quiescent and 0 on timeout. -/
  | waitcEnd
  /-- JOIN_REORDER (R209). Controller instruction that reads a join descriptor, checks maps, period and size, and allocates a near or far reorder store. -/
  | joinReorder (j : FmtJ)
  /-- JOIN_CHECK (R209). Controller JOIN with REORDER 0, which checks the descriptor and that the two orders are equal and attaches nothing. -/
  | joinCheck (j : FmtJ)
  /-- JOIN_COMPLETE (R53). Completion of a JOIN ceil(P/64) cycles after its descriptor is read, attaching the store. -/
  | joinComplete
  /-- UNJOIN (R210). Controller instruction that releases the reorder stores at the descriptor's consumer ports and clears the producer destination fields. -/
  | unjoin (j : FmtJ)
  /-- SPAWN (R211). Controller instruction that reads a launch packet and enqueues a task on a named hardware queue, waiting for a sequence number and queue room. -/
  | spawn (g : FmtG)
  /-- GRPL (R212). Controller instruction that enqueues one task per 64-row tile of each group of a grouped launch. -/
  | grpl (g : FmtG)
  /-- SETSTAGE_DECL (R213). Controller instruction that declares a stage and its entry offset. -/
  | setstageDecl (g : FmtG)
  /-- SETSTAGE_ENTER (R285). Controller instruction that hands the region to the stage scheduler, which chooses a stage and makes its queue offer. -/
  | setstageEnter (g : FmtG)
  /-- STAGE_RESUME (R285). Restart of a region waiting at ENTER when another region's commit makes a stage eligible, or when staging ends. -/
  | stageResume
  /-- SETQ_IN (R282). Controller instruction that checks a queue header and binds it as a stage's input queue. -/
  | setqIn (g : FmtG)
  /-- SETQ_OUT (R282). Controller instruction that checks a queue header and binds it as a stage's output queue. -/
  | setqOut (g : FmtG)
  /-- BR (R214). Controller instruction that always branches to pc + 8 x OFS. -/
  | br (b : FmtB)
  /-- BRC (R214). Controller instruction that branches when its condition holds in the compare bits of st. -/
  | brc (b : FmtB)
  /-- LOOP (R214). Controller instruction that decrements a count register and branches while it is nonzero. -/
  | loop (b : FmtB)
  /-- CALL (R215). Controller instruction that pushes a return frame, spilling the eighth-deepest frame, and branches. -/
  | call (b : FmtB)
  /-- RET (R215). Controller instruction that pops a return frame, refilling from the spill area, and branches to it. -/
  | ret
  /-- YIELD (R217). Controller instruction that saves and requeues the task if a task of equal or higher priority is queued. -/
  | yieldOp
  /-- SAVE_W (R216). Controller instruction that stores w0-w15 as 128 bytes. -/
  | saveW (g : FmtG)
  /-- SAVE_IS (R216). Controller instruction that stores i0-i3 and st as 40 bytes. -/
  | saveIs (g : FmtG)
  /-- RSTR_W (R216). Controller instruction that loads w0-w15 from 128 bytes. -/
  | rstrW (g : FmtG)
  /-- RSTR_IS (R216). Controller instruction that loads i0-i3 and the RW fields of st. -/
  | rstrIs (g : FmtG)
  /-- MOVW (R216). Controller instruction that sets a w register to an operand. -/
  | movw (g : FmtG)
  /-- MOVW_I (R216). Controller instruction that sets an i register to the low 32 bits of an operand. -/
  | movwI (g : FmtG)
  /-- MOVW_R (R216). Controller instruction that copies an i register into a w register. -/
  | movwR (g : FmtG)
  /-- ADDW (R216). Controller instruction that adds modulo 2^64. -/
  | addw (g : FmtG)
  /-- CMPW (R216). Controller instruction that sets EQ, LT and LTU in st from a comparison. -/
  | cmpw (g : FmtG)
  /-- LDW (R216). Controller instruction that loads 8 bytes at home from an argument object. -/
  | ldw (g : FmtG)
  /-- STW (R216). Controller instruction that stores 8 bytes at home to an argument object. -/
  | stw (g : FmtG)
  /-- RDST (R216). Controller instruction that reads the status word st. -/
  | rdst (g : FmtG)
  /-- WRST (R200). Controller instruction that writes the RW fields of st. -/
  | wrst (g : FmtG)
  /-- RDCYC (R216). Controller instruction that reads the die's cycle counter. -/
  | rdcyc (g : FmtG)
  /-- TRAP (R219). Controller instruction with a code below 0x8000 that enters the trap vector with the next instruction as restart point. -/
  | trapCode (code : BitVec 16)
  /-- TRAP_SERVICE (R219). Controller TRAP with a code of 0x8000 or above that posts a service record and waits for system software to release the region. -/
  | trapService (code : BitVec 16)
  /-- ERET (R221). Controller instruction that returns from a trap handler to TPC and lets cells fire again. -/
  | eret
  /-- SETKS (R222). System-region controller instruction that copies a capability into the ks of a waiting or frozen region. -/
  | setks (g : FmtG)
  /-- RDFQ (R222). System-region controller instruction that moves the oldest system fault record to memory. -/
  | rdfq (g : FmtG)
  /-- HALT (R218). Controller instruction that waits for SYSTEM-scope acknowledgement, releases stores, writes the completion record and returns the region. -/
  | halt
  /-- TRAP_ENTRY (R220). Entry to the trap vector at the next instruction boundary for a trap recorded by a cell, setting TPC, TCODE and TRAPD. -/
  | trapEntry
  /-- ADD (R109). Cell firing that adds two integers, wrapping or saturating. -/
  | add (m : Mods)
  /-- SUB (R109). Cell firing that subtracts two integers. -/
  | sub (m : Mods)
  /-- MUL (R109). Cell firing that multiplies two integers. -/
  | mul (m : Mods)
  /-- MULH (R109). Cell firing that sends the high half of an exact integer product. -/
  | mulh (m : Mods)
  /-- DIV (R109). Cell firing that divides integers, truncating toward zero. -/
  | div (m : Mods)
  /-- REM (R109). Cell firing that sends the integer remainder. -/
  | rem (m : Mods)
  /-- AND (R109). Cell firing that sends the bitwise AND. -/
  | and (m : Mods)
  /-- OR (R109). Cell firing that sends the bitwise OR. -/
  | or (m : Mods)
  /-- XOR (R109). Cell firing that sends the bitwise XOR. -/
  | xor (m : Mods)
  /-- NOT (R109). Cell firing that sends the bitwise complement. -/
  | not (m : Mods)
  /-- SHL (R109). Cell firing that shifts left, zero-filled. -/
  | shl (m : Mods)
  /-- SHR (R109). Cell firing that shifts right, zero-filled. -/
  | shr (m : Mods)
  /-- SAR (R109). Cell firing that shifts right, sign-filled. -/
  | sar (m : Mods)
  /-- ROT (R109). Cell firing that rotates left. -/
  | rot (m : Mods)
  /-- MIN (R109). Cell firing that sends the lesser integer. -/
  | min (m : Mods)
  /-- MAX (R109). Cell firing that sends the greater integer. -/
  | max (m : Mods)
  /-- CMP (R109). Cell firing that compares two integers under COND. -/
  | cmp (m : Mods)
  /-- SEL (R109). Cell firing that selects b or c by a. -/
  | sel (m : Mods)
  /-- CLZ (R109). Cell firing that counts leading zero bits. -/
  | clz (m : Mods)
  /-- POPC (R109). Cell firing that counts one bits. -/
  | popc (m : Mods)
  /-- ADDC (R110). Cell firing that adds with carry in and sends sum and carry out. -/
  | addc (m : Mods)
  /-- SUBB (R110). Cell firing that subtracts with borrow in and sends difference and borrow out. -/
  | subb (m : Mods)
  /-- CAPOFS (R111). Cell firing that moves a capability's cursor by a scaled offset. -/
  | capofs (m : Mods)
  /-- CAPSET (R111). Cell firing that sets a capability's cursor from its base. -/
  | capset (m : Mods)
  /-- CAPNAR (R111). Cell firing that narrows a capability's bounds. -/
  | capnar (m : Mods)
  /-- CAPRGT (R111). Cell firing that removes rights from a capability. -/
  | caprgt (m : Mods)
  /-- CAPTAG (R113). Cell firing that sends one field of a capability register. -/
  | captag (m : Mods)
  /-- AFFINE (R115). Cell firing that computes an affine combination of operands and constants. -/
  | affine (m : Mods)
  /-- CTR (R116). Cell generator that on each CTL sends every element value of its lane of an order, with markers. -/
  | ctr (m : Mods)
  /-- FADD (R117). Cell firing that adds floating-point values with one rounding. -/
  | fadd (m : Mods)
  /-- FSUB (R117). Cell firing that subtracts floating-point values. -/
  | fsub (m : Mods)
  /-- FMUL (R117). Cell firing that multiplies floating-point values. -/
  | fmul (m : Mods)
  /-- FMA (R117). Cell firing that computes a fused multiply-add with one rounding. -/
  | fma (m : Mods)
  /-- FMIN (R117). Cell firing that sends the lesser floating-point value. -/
  | fmin (m : Mods)
  /-- FMAX (R117). Cell firing that sends the greater floating-point value. -/
  | fmax (m : Mods)
  /-- FCMP (R118). Cell firing that compares floating-point values under COND. -/
  | fcmp (m : Mods)
  /-- FABS (R119). Cell firing that clears the sign. -/
  | fabs (m : Mods)
  /-- FNEG (R119). Cell firing that inverts the sign. -/
  | fneg (m : Mods)
  /-- RCPA (R87). Cell firing that computes the table-interpolated reciprocal. -/
  | rcpa (m : Mods)
  /-- RSQA (R88). Cell firing that computes the table-interpolated reciprocal square root. -/
  | rsqa (m : Mods)
  /-- EXP2A (R89). Cell firing that computes the table-interpolated power of two. -/
  | exp2a (m : Mods)
  /-- LOG2A (R90). Cell firing that computes the table-interpolated base-2 logarithm. -/
  | log2a (m : Mods)
  /-- FCLASS (R119). Cell firing that sends a one-hot class mask. -/
  | fclass (m : Mods)
  /-- CVT (R121). Cell firing that converts a value from SRC to TYPE. -/
  | cvt (m : Mods)
  /-- QNT (R122). Cell firing of the quantiser, rounding by RNE, DITH, NSH with residues, or block scaling. -/
  | qnt (m : Mods)
  /-- DQNT (R127). Cell firing that decodes a scaled or codebook element. -/
  | dqnt (m : Mods)
  /-- CBLOAD (R128). Cell firing that writes a codebook entry of the block and sends a CTL after each 16 entries. -/
  | cbload (m : Mods)
  /-- HDRSET (R129). Cell firing that forwards a stream and inserts a configured header at tile starts. -/
  | hdrset (m : Mods)
  /-- STEER (R134). Cell firing that sends a value to the destination its selector names. -/
  | steer (m : Mods)
  /-- MERGE (R135). Cell firing that takes a value from the data input its selector names, or merges markers. -/
  | merge (m : Mods)
  /-- AMERGE (R136). Cell firing that takes a value from the lowest data input holding one, in arrival order. -/
  | amerge (m : Mods)
  /-- GATE (R134). Cell firing that passes, drops or voids a token under a control token. -/
  | gate (m : Mods)
  /-- REPEAT (R138). Cell firing that sends E copies of each value. -/
  | repeatOp (m : Mods)
  /-- DROP (R138). Cell firing that drops the first n positions of each run. -/
  | drop (m : Mods)
  /-- TAKE (R138). Cell firing that keeps only the first n positions of each run. -/
  | take (m : Mods)
  /-- ZIP (R139). Cell firing that interleaves its inputs in port order. -/
  | zip (m : Mods)
  /-- SPLIT (R139). Cell firing that distributes elements over destinations by their innermost counter. -/
  | split (m : Mods)
  /-- MARK (R140). Cell firing that forwards values and rebuilds the markers of a new order. -/
  | mark (m : Mods)
  /-- STRIP (R140). Cell firing that removes void values from runs. -/
  | strip (m : Mods)
  /-- VOID (R140). Cell firing that pads ragged runs with void values to their bound. -/
  | voidOp (m : Mods)
  /-- DUP (R141). Cell firing that sends each token unchanged on every destination. -/
  | dup (m : Mods)
  /-- RED (R143). Cell firing of a reduction that sends a run's result on its EOR, or one lane-tree stage. -/
  | red (m : Mods)
  /-- SCAN (R143). Cell firing of a running reduction over runs. -/
  | scan (m : Mods)
  /-- TLD (R144). Cell firing that issues a 16-element tile load into a target's tl and sends a SWP. -/
  | tld (m : Mods)
  /-- TSWAP (R145). Cell firing that forwards a stream and inserts a SWP before each trigger. -/
  | tswap (m : Mods)
  /-- TDOT (R146). Cell firing that accumulates a run's dot product with the active tile register exactly. -/
  | tdot (m : Mods)
  /-- TBCAST (R147). Cell firing that broadcasts the first N tile-register elements on a CTL. -/
  | tbcast (m : Mods)
  /-- TSTO (R148). Cell firing that stores the 16 tile-register elements. -/
  | tsto (m : Mods)
  /-- RND (R150). Cell firing that draws a counter-based random value and advances the counter. -/
  | rnd (m : Mods)
  /-- RNDKEY (R152). Cell firing that delivers a key, fresh, logged or replayed. -/
  | rndkey (m : Mods)
  /-- ADD128 (R151). Cell firing that adds a 128-bit value into two tokens of a group. -/
  | add128 (m : Mods)
  /-- ALLOC (R154). Cell firing that grants space from an arena in logical request order. -/
  | alloc (m : Mods)
  /-- FREE (R155). Cell firing that records an extent in the pitch's free list. -/
  | free (m : Mods)
  /-- LDS (R184). Cell firing that starts an affine stream load pass on a start token. -/
  | lds (m : Mods)
  /-- STS (R184). Cell firing that stores a value at its affine pattern address. -/
  | sts (m : Mods)
  /-- LDG (R185). Cell firing that issues a gather load at an index. -/
  | ldg (m : Mods)
  /-- STG (R185). Cell firing that scatters a value or a capability to an index. -/
  | stg (m : Mods)
  /-- LDL (R187). Cell firing that loads from local or block-scratch memory. -/
  | ldl (m : Mods)
  /-- STL (R187). Cell firing that stores to local or block-scratch memory. -/
  | stl (m : Mods)
  /-- LDFE (R188). Cell firing that reads a full word and marks it empty. -/
  | ldfe (m : Mods)
  /-- STFE (R188). Cell firing that writes an empty word and marks it full. -/
  | stfe (m : Mods)
  /-- PREF (R186). Cell firing that prefetches a line into L1 or a stream port's line buffer. -/
  | pref (m : Mods)
  /-- ATOM_ADD (R189). Cell firing of an atomic add at home. -/
  | atomAdd (m : Mods)
  /-- ATOM_MIN (R189). Cell firing of an atomic minimum at home. -/
  | atomMin (m : Mods)
  /-- ATOM_MAX (R189). Cell firing of an atomic maximum at home. -/
  | atomMax (m : Mods)
  /-- ATOM_AND (R189). Cell firing of an atomic AND at home. -/
  | atomAnd (m : Mods)
  /-- ATOM_OR (R189). Cell firing of an atomic OR at home. -/
  | atomOr (m : Mods)
  /-- ATOM_XOR (R189). Cell firing of an atomic XOR at home. -/
  | atomXor (m : Mods)
  /-- ATOM_XCHG (R189). Cell firing of an atomic exchange at home. -/
  | atomXchg (m : Mods)
  /-- ATOM_CAS (R189). Cell firing of an atomic compare-and-swap at home. -/
  | atomCas (m : Mods)
  /-- LDACQ (R190). Cell firing of an acquire load at home. -/
  | ldacq (m : Mods)
  /-- STREL (R190). Cell firing of a release store after masked stores are acknowledged. -/
  | strel (m : Mods)
  /-- FENCE (R191). Cell firing that passes a token once masked stores of the region are acknowledged. -/
  | fence (m : Mods)
  /-- MONW (R192). Cell firing that reads a word at home and arms a monitor on its granule. -/
  | monw (m : Mods)
  /-- WAITW (R193). Cell firing that consumes a MONW value and begins waiting on its monitor. -/
  | waitw (m : Mods)
  /-- MONITOR_WAKE (R193). Wake of a waiting WAITW when its monitored granule is written or the monitor is lost, sending a CTL. -/
  | monitorWake
  /-- FUTNEW (R196). Cell firing that renews a future word unless it is waiting. -/
  | futnew (m : Mods)
  /-- FUTRES (R196). Cell firing that resolves a future and counts down its continuations. -/
  | futres (m : Mods)
  /-- FUTREG (R196). Cell firing that registers a continuation record on a future. -/
  | futreg (m : Mods)
  /-- FUTGET (R197). Cell firing that acquires and reads a future word. -/
  | futget (m : Mods)
  /-- CELL_TRAP (R224). Cell firing that records a trap with its CODE for the controller. -/
  | cellTrap (m : Mods)
  /-- BRK (R225). Cell firing that forwards tokens and, when armed, posts a breakpoint and makes the region wait. -/
  | brk (m : Mods)
  /-- CTLW (R226). Cell firing that writes a payload into a controller w register. -/
  | ctlw (m : Mods)
  /-- SYSRD (R227). System-region cell firing that reads a system register. -/
  | sysrd (m : Mods)
  /-- SYSWR (R227). System-region cell firing that writes a system register and sends a CTL on completion. -/
  | syswr (m : Mods)
  /-- PERF (R229). Cell firing that samples a performance counter. -/
  | perf (m : Mods)
  /-- MMA_EMIT (R233). Emitter cell firing that forwards chained commands and sends an MMA command. -/
  | mmaEmit (m : Mods)
  /-- MMAS_EMIT (R233). Emitter cell firing that sends an MMAS command. -/
  | mmasEmit (m : Mods)
  /-- MLOAD_EMIT (R233). Emitter cell firing that sends an MLOAD command. -/
  | mloadEmit (m : Mods)
  /-- MCLAIM_EMIT (R233). Emitter cell firing that sends an MCLAIM command. -/
  | mclaimEmit (m : Mods)
  /-- MRELEASE_EMIT (R233). Emitter cell firing that sends an MRELEASE command. -/
  | mreleaseEmit (m : Mods)
  /-- MDRAIN_EMIT (R233). Emitter cell firing that sends an MDRAIN command. -/
  | mdrainEmit (m : Mods)
  /-- NORM_EMIT (R233). Emitter cell firing that sends a NORM command. -/
  | normEmit (m : Mods)
  /-- COPY_EMIT (R250). Emitter cell firing that sends a COPY command. -/
  | copyEmit (m : Mods)
  /-- CHAIN_EMIT (R250). Emitter cell firing that sends a CHAIN command. -/
  | chainEmit (m : Mods)
  /-- STASH_EMIT (R250). Emitter cell firing that sends a STASH command. -/
  | stashEmit (m : Mods)
  /-- RESTORE_EMIT (R250). Emitter cell firing that sends a RESTORE command. -/
  | restoreEmit (m : Mods)
  /-- CONV_EMIT (R250). Emitter cell firing that sends a CONV command. -/
  | convEmit (m : Mods)
  /-- FPRINT_EMIT (R250). Emitter cell firing that sends an FPRINT command. -/
  | fprintEmit (m : Mods)
  /-- DEDUP_EMIT (R250). Emitter cell firing that sends a DEDUP command. -/
  | dedupEmit (m : Mods)
  /-- XFER_EMIT (R250). Emitter cell firing that sends an XFER command. -/
  | xferEmit (m : Mods)
  /-- STREAM_PORT_ISSUE (R27). Issue of one stream-port request when the push or pull condition holds. -/
  | streamPortIssue
  /-- LANDING_BUFFER_WRITE (R29). Landing of a long-latency return, written whole into its pending register or prefetch buffer. -/
  | landingBufferWrite
  /-- REORDER_STORE_ADMIT (R56). Admission of a producer cycle vector into a reorder store in reference order. -/
  | reorderStoreAdmit
  /-- REORDER_STORE_ISSUE (R56). Issue of a consumer cycle vector from a reorder store once its predecessors are done and destinations have room. -/
  | reorderStoreIssue
  /-- MEMORY_TILE_REQUEST (R164). Arrival of a request at a memory tile, which translates it, checks and updates the access tag and performs it at home. -/
  | memoryTileRequest
  /-- STORE_ACK (R181). Acknowledgement of a write at its scope, ending its outstanding state. -/
  | storeAck
  /-- DONE_TOKEN (R182). Sending of a memory cell's done token once every access of a tensor is complete at its scope. -/
  | doneToken
  /-- TAG_SWEEP (R172). Background pass that sets to SYNC every access tag whose SEQ lies far below the watermark. -/
  | tagSweep
  /-- MCLAIM (R237). Matrix command that claims slots and accumulator tiles for the task. -/
  | mclaim (w : EngWords)
  /-- MRELEASE (R237). Matrix command that releases and zeroes claimed slots and tiles. -/
  | mrelease (w : EngWords)
  /-- MLOAD (R238). Matrix command that loads an A, B or metadata operand slot from a data port tensor. -/
  | mload (w : EngWords)
  /-- MLOAD_ACCUMULATE (R239). Matrix MLOAD with ROLE 3 that adds indexed F32 values exactly into a tile. -/
  | mloadAccumulate (w : EngWords)
  /-- MLOAD_COMMIT (R238). Commit of an MLOAD's load buffer to its slot and descriptor after its EOT. -/
  | mloadCommit
  /-- MMA (R240). Matrix command that multiplies K slot pairs exactly into an accumulator tile. -/
  | mma (w : EngWords)
  /-- MMAS (R241). Matrix command that multiplies 2:4-sparse A operands using metadata slots. -/
  | mmas (w : EngWords)
  /-- MDRAIN (R242). Matrix command that merges a tile into a tile of another island over the ring. -/
  | mdrain (w : EngWords)
  /-- NORM (R243). Matrix command that sends a tile through the normaliser to cells as F32 or hand-over. -/
  | norm (w : EngWords)
  /-- ENGINE_COMMAND_START (R235). Start of a decoded island command once earlier conflicting commands of its port have completed. -/
  | engineCommandStart
  /-- ENGINE_COMMAND_COMPLETE (R234). Completion of an island command, followed by its done token. -/
  | engineCommandComplete
  /-- COPY (R254). Streamer command that copies bytes and may resolve a future. -/
  | copy (w : EngWords)
  /-- CHAIN (R256). Streamer command that applies up to eight operations to each element. -/
  | chain (w : EngWords)
  /-- STASH (R259). Streamer command that encodes a tensor into stash blocks and writes its record. -/
  | stash (w : EngWords)
  /-- RESTORE (R260). Streamer command that checks a stash record and decodes its blocks. -/
  | restore (w : EngWords)
  /-- CONV_TO_CSR (R261). Streamer CONV KIND 0 that converts a dense matrix to CSR. -/
  | convToCsr (w : EngWords)
  /-- CONV_FROM_CSR (R261). Streamer CONV KIND 1 that converts CSR to a dense matrix. -/
  | convFromCsr (w : EngWords)
  /-- CONV_TO_C4 (R261). Streamer CONV KIND 2 that encodes B16 elements as C4 codes. -/
  | convToC4 (w : EngWords)
  /-- FPRINT (R262). Streamer command that writes SHA3-256 fingerprints of 4 KiB units. -/
  | fprint (w : EngWords)
  /-- DEDUP (R263). Streamer command that merges identical candidate pages into shared copy-on-write pages. -/
  | dedup (w : EngWords)
  /-- XFER_PUT (R264). Streamer XFER with DIR 0 that moves bytes to another module. -/
  | xferPut (w : EngWords)
  /-- XFER_GET (R264). Streamer XFER with DIR 1 that moves bytes from another module. -/
  | xferGet (w : EngWords)
  /-- KICK (R269). Write of the KICK register, taken from the FIFO, that reads the packet at HEAD and matches its stamp. -/
  | kick
  /-- LAUNCH_REREAD (R269). Timed re-read of a packet whose stamp did not match, posting LAUNCH_STALE after 64 reads. -/
  | launchReread
  /-- PACKET_ACCEPT (R272). Acceptance of a launch packet: sequence number, header read, checks and enqueue, or a failed-launch record. -/
  | packetAccept
  /-- CONTINUATION_ENQUEUE (R287). Acceptance of a continuation packet when its JOIN reaches 0 or its held entry finds queue room. -/
  | continuationEnqueue
  /-- LQ_CONFIG_WRITE (R268). Write of LQBASE or LQCTL that resets HEAD to 0. -/
  | lqConfigWrite (num : BitVec 16) (v : BitVec 64)
  /-- TPRIO (R278). Write of TPRIO that sets a task's base priority. -/
  | tprio (v : BitVec 64)
  /-- AGE_PROMOTE (R275). Rise of a queued task's priority by one level after each 2^20 cycles of waiting. -/
  | agePromote
  /-- TASK_SELECT (R277). Distributor selection of the highest-priority queue head, round robin among equals. -/
  | taskSelect
  /-- TASK_BIND (R279). Binding of a selected task to regions once they can be formed, restoring a frozen snapshot if held. -/
  | taskBind
  /-- TASK_DROP_UNBINDABLE (R280). Removal of a task that a block retirement has made unbindable, ending it as a failed launch. -/
  | taskDropUnbindable
  /-- FQPOP (R295). Write of FQPOP that moves the oldest system fault record to memory. -/
  | fqpop (v : BitVec 64)
  /-- MCTL_RELEASE (R296). MCTL release that resumes a frozen master at its faulting action. -/
  | mctlRelease (v : BitVec 64)
  /-- MCTL_KILL (R296). MCTL kill that ends a task as failed, or discards the host port's held requests. -/
  | mctlKill (v : BitVec 64)
  /-- MCTL_RESUME (R296). MCTL resume that requeues a task from the residency wait list. -/
  | mctlResume (v : BitVec 64)
  /-- PRE_ABORT (R303). PRE write in ABORT mode that stops every region, discards state and requeues the task. -/
  | preAbort (v : BitVec 64)
  /-- PRE_DRAIN (R304). PRE write in DRAIN mode that runs each controller to a BELAY and then saves or ends the task. -/
  | preDrain (v : BitVec 64)
  /-- PRE_FREEZE (R305). PRE write in FREEZE mode that snapshots the task to its save area and requeues it. -/
  | preFreeze (v : BitVec 64)
  /-- DRAIN_DEADLINE (R304). Expiry of a DRAIN deadline, which escalates the request to ABORT. -/
  | drainDeadline
  /-- PAGE_FAULT_WINDOW_CLOSE (R298). Close of a page-fault window, aborting the task and placing it on the residency wait list. -/
  | pageFaultWindowClose
  /-- XINV (R165). Write of XINV that drops cached translations of an object or of all objects in every memory tile. -/
  | xinv (v : BitVec 64)
  /-- APERTURE_REG_WRITE (R323). Write of an aperture register that completes after pieces already translated are performed. -/
  | apertureRegWrite (num : BitVec 16) (v : BitVec 64)
  /-- REGISTER_WRITE (R228). Write of a system register with no row of its own, ignored whole if a reserved bit is set. -/
  | registerWrite (num : BitVec 16) (v : BitVec 64)
  /-- HOST_BAR0_ACCESS (R311). Host MMIO access to a system register through BAR0. -/
  | hostBar0Access (wr : Bool) (ofs len : Nat) (v : BitVec 64)
  /-- HOST_HDM_ACCESS (R311). Host CXL.mem access to bonded memory performed at the home tile. -/
  | hostHdmAccess (wr : Bool) (adr len : Nat) (data : List Byte)
  /-- FLIT_RECEIVE (R312). Receipt of a Nareb or die-to-die flit, with CRC check, single replay and port failure. -/
  | flitReceive (flit : Flit) (crcOk : Bool)
  /-- NAREB_REQUEST (R315). Arrival of a remote read, write or atomic request at its home module. -/
  | narebRequest (flit : Flit)
  /-- XFER_HOLD_RETRANSLATE (R316). Periodic re-translation of a held XFER beat every 4,096 cycles, resuming writes when it succeeds. -/
  | xferHoldRetranslate
  /-- RDMA_INBOUND_WRITE (R319). Inbound RDMA WRITE on an Ethernet port, acting as a host write with its completion entry as release. -/
  | rdmaInboundWrite (adr : Nat) (data : List Byte)
  /-- POWER_ON (R324). Power-on event that begins a cold start. -/
  | powerOn
  /-- MODULE_START (R324). Write of STCTL.GO that resets the module and runs the cold or warm start steps. -/
  | moduleStart (v : BitVec 64)
  /-- FWDATA (R328). Write of FWDATA that stores 8 bytes into the inactive firmware bank. -/
  | fwdata (v : BitVec 64)
  /-- FW_ERASE (R328). FWCTL erase that zeroes the inactive bank. -/
  | fwErase (v : BitVec 64)
  /-- FW_VERIFY (R328). FWCTL verify that checks the inactive bank's image. -/
  | fwVerify (v : BitVec 64)
  /-- FW_ACTIVATE (R328). FWCTL activate that makes a verified inactive bank active for the next start. -/
  | fwActivate (v : BitVec 64)
  /-- ATTEST (R329). Write of ATTCTL.GO that builds and writes a signed attestation report. -/
  | attest (v : BitVec 64)
  /-- CLOCK_STEP_DOWN (R331). Step of a die's clock down after 1 ms above its power share or on over-temperature. -/
  | clockStepDown
  /-- CLOCK_STEP_UP (R331). Step of a die's clock up after 10 ms with no stepping-down condition. -/
  | clockStepUp
  /-- THERMAL_SHUTDOWN (R331). Shutdown of the module when any die reaches 115 degrees C. -/
  | thermalShutdown
  /-- FABRIC_CYCLE (R4). Each fabric cycle of a die advances that die's 64-bit cycle counter by one. -/
  | fabricCycle
  /-- START_STEP_DONE (R324). Completion of one start step, which begins the next step or, at failure, repeats the start cold or enters recovery, and after step 7 sets STATE to running. -/
  | startStepDone
  /-- FW_ERASE_DONE (R328). End of an inactive-bank erase, when BUSY returns from 1 to 0. -/
  | fwEraseDone
  /-- FW_VERIFY_DONE (R328). End of an inactive-bank verify, which sets VOK from the checks of R326 and returns BUSY to 0. -/
  | fwVerifyDone
  deriving DecidableEq, Repr

end Sys2Proof
end

