-- ==== Sys2Proof/WellFormed.lean ====
section
/-! DEFINITION. The checks that one command, instruction, operation word or engine command decides alone: reserved
fields, reserved codes and values outside a form's row (R94, R97, R99-R101, R104-R106, R121, R122, R142, R150, R151, R179,
R223, R233, R237, R251). What depends on more than one field is checked at END, by the machine. -/

namespace Sys2Proof

namespace Mods

/-- TYPE as a number. -/
def tyNat (m : Mods) : Nat := m.ty.toNat
/-- RDST as a number. -/
def rdstNat (m : Mods) : Nat := m.rdst.toNat
/-- RM as a number. -/
def rmNat (m : Mods) : Nat := m.rm.toNat
/-- MOD as a number. -/
def modNat (m : Mods) : Nat := m.mod.toNat
/-- Field of MOD. -/
def modF (m : Mods) (lo len : Nat) : Nat := fieldNat m.mod lo len
/-- RDST is 0 or names a p or g register (Table 8.3). -/
def rdstPG (m : Mods) : Bool := m.rdstNat == 0 || 1 ≤ m.rdstNat && m.rdstNat ≤ 8 || 0x20 ≤ m.rdstNat
/-- RDST names a k register. -/
def rdstK (m : Mods) : Bool := 0x10 ≤ m.rdstNat && m.rdstNat ≤ 0x13
/-- RDST is 0 or names a k register. -/
def rdst0K (m : Mods) : Bool := m.rdstNat == 0 || m.rdstK
/-- TYPE is I8 to N64 (Table 6.1). -/
def intTy (m : Mods) : Bool := 1 ≤ m.tyNat && m.tyNat ≤ 8
/-- TYPE is F32, H16 or B16. -/
def floatTy (m : Mods) : Bool := 9 ≤ m.tyNat && m.tyNat ≤ 11
/-- TYPE is F32, H16, B16, E4M3 or E5M2. -/
def anyFloatTy (m : Mods) : Bool := 9 ≤ m.tyNat && m.tyNat ≤ 13
/-- TYPE is 0x01 to 0x0D. -/
def eltTy (m : Mods) : Bool := 1 ≤ m.tyNat && m.tyNat ≤ 13
/-- TYPE is an element type, and RDST and RM are not defined. -/
def eltBare (m : Mods) : Bool := m.eltTy && m.rmNat == 0 && m.rdstNat == 0
/-- TYPE is t, and RDST and RM are not defined. -/
def bare (m : Mods) (t : Nat) : Bool := m.tyNat == t && m.rmNat == 0 && m.rdstNat == 0
/-- A reading system form (Table 13.6): TYPE N64, RDST 0, p or g, RM not defined. -/
def sysForm (m : Mods) : Bool := m.tyNat == 8 && m.rmNat == 0 && m.rdstPG
/-- An integer form (R109) whose MOD is at most top. -/
def intForm (m : Mods) (top : Nat) : Bool :=
  m.intTy && m.rmNat == 0 && m.rdstPG && m.modNat ≤ top
/-- A capability form (Table 9.2) of TYPE t. -/
def capForm (m : Mods) (t : Nat) : Bool := m.tyNat == t && m.rmNat == 0 && m.rdst0K
/-- CVT (R121): AXIS, SBASE, RSDIN and RSDOUT only under NSH, SAT only from integer to integer. -/
def cvtForm (m : Mods) : Bool :=
  let src := m.modF 0 5
  m.eltTy && 1 ≤ src && src ≤ 13 && m.rdstPG &&
  (m.rmNat ≤ 3 || m.rmNat ≤ 5 && 10 ≤ m.tyNat) &&
  (!(m.tyNat ≤ 8 && src ≤ 8) || m.rmNat == 0) &&
  (m.modF 5 1 == 0 || m.tyNat ≤ 8 && src ≤ 8) &&
  (m.modF 6 10 == 0 || m.rmNat == 5) && m.modF 16 1 == 0
/-- QNT (R122). -/
def qntForm (m : Mods) : Bool :=
  let src := m.modF 0 5
  10 ≤ m.tyNat && m.tyNat ≤ 13 && m.rdstNat == 0 && m.rmNat ≤ 5 && 9 ≤ src && src ≤ 11 &&
  (m.modF 5 1 == 0 || 12 ≤ m.tyNat) && (m.modF 6 10 == 0 || m.rmNat == 5) && m.modF 16 1 == 0
/-- RED and SCAN (R142, Table 10.2): OP and TYPE agree. -/
def redForm (m : Mods) : Bool :=
  let op := m.modF 0 4
  (m.intTy && op ≤ 5 && m.rmNat == 0 || m.floatTy && 8 ≤ op && op ≤ 10 && m.rmNat ≤ 3) && m.modNat < 32
/-- TDOT (R146). -/
def tdotForm (m : Mods) : Bool :=
  ([3, 4, 7, 8].contains m.tyNat && m.rmNat == 0 || m.floatTy && m.rmNat ≤ 3) && m.rdstPG && m.modNat == 0
/-- RND (R150): the pairs KB and CB do not overlap. -/
def rndForm (m : Mods) : Bool :=
  let kb := m.modF 0 5
  let cb := m.modF 5 5
  [7, 8, 9].contains m.tyNat && m.rmNat == 0 && m.rdstNat == 0 && m.modNat < 4096 && kb ≤ 30 && cb ≤ 30 &&
  (kb + 2 ≤ cb || cb + 2 ≤ kb)
/-- ATOM with FORM f (R98, R179). -/
def atomForm (m : Mods) (f : Nat) : Bool :=
  [3, 4, 7, 8].contains m.tyNat && m.rmNat == 0 && m.rdstPG && m.modNat < 2048 && m.modF 8 3 ≤ 6 && m.modF 0 4 == f

end Mods

/-- Format G: operand b is a register, or IMM32 with WB zero (R99, R216). -/
def FmtG.operandOk (g : FmtG) : Bool := if g.imm == 1 then g.wb == 0 else g.imm32 == 0

namespace EngWords

/-- Field of word 0. -/
def f0 (w : EngWords) (lo len : Nat) : Nat := fieldNat w.w0 lo len
/-- Field of word 1. -/
def f1 (w : EngWords) (lo len : Nat) : Nat := fieldNat w.w1 lo len
/-- EOP is e (R103). -/
def eop (w : EngWords) (e : Nat) : Bool := w.f0 56 8 == e
/-- Word 1 has zero reserved bits around DONE, DCELL and DPORT (Table 15.3). -/
def doneFields (w : EngWords) : Bool := w.f1 30 1 == 0 && w.f1 0 14 == 0
/-- Word 1 holds only DONE, DCELL and DPORT. -/
def doneOnly (w : EngWords) : Bool := w.f1 32 32 == 0 && w.doneFields
/-- MCLAIM and MRELEASE: SLOT, NSLOT and AMASK (Table 15.3). -/
def claimFields (w : EngWords) : Bool :=
  w.f0 16 22 == 0 && w.f0 38 10 ≤ 256 && w.f0 48 8 + w.f0 38 10 ≤ 256
/-- MLOAD: DPORT is 2 or 3, and the low 40 bits are zero. -/
def loadFields (w : EngWords) : Bool := 2 ≤ w.f0 46 2 && w.f0 0 40 == 0
/-- MMA and MMAS word 0 (Table 1.6): the reserved bits are zero, K is not 0, ACCUM
excludes AUTO and ANCHOR, and AUTO excludes ANCHOR (R240). -/
def mmaFields (w : EngWords) : Bool := w.f0 32 2 == 0 && w.f0 16 16 != 0 &&
  (w.f0 35 1 == 0 || w.f0 34 1 == 0 && w.f0 0 16 == 0) && (w.f0 34 1 == 0 || w.f0 0 16 == 0)
/-- MODE of a streamer command (Table 16.2). -/
def mode (w : EngWords) : Nat := w.f0 32 8
/-- The reserved bit of word 1 is zero and PARM is not 0 (R251, Table 16.2). -/
def streamFields (w : EngWords) : Bool := w.f1 30 1 == 0 && w.f1 0 14 != 0
/-- MODE of STASH and RESTORE: W is 3, 7 or 15 (Table 16.3). -/
def stashMode (w : EngWords) : Bool := [3, 7, 15].contains (w.mode % 16) && w.mode < 32

end EngWords

/-- A step whose own fields hold no reserved code and no excluded value. -/
def Instr.wf (i : Instr) : Bool :=
  match i with
  | .write _ _ _ => true
  | .extend _ => true
  | .selectBase _ => true
  | .selectRepeat s _ => s.toNat != 0
  | .selectBmask a b c d => a.toNat ≤ b.toNat && c.toNat ≤ d.toNat
  | .token k _ _ _ => k.toNat != 7
  | .start _ _ => true
  | .cfgEnd => true
  | .cfg k => k.cnt != 0
  | .pcfg k => k.cnt != 0
  | .run _ => true
  | .runPass => true
  | .belay => true
  | .belayPass => true
  | .waitc g => g.wa == 0 && g.slot == 0 && g.operandOk
  | .waitcEnd => true
  | .joinReorder _ => true
  | .joinCheck j => j.far == 0
  | .joinComplete => true
  | .unjoin j => j.pord == 0 && j.cord == 0 && j.width == 0 && j.far == 0
  | .spawn g => g.operandOk
  | .grpl g => g.operandOk
  | .setstageDecl g => g.wd == 0 && g.slot == 0 && g.operandOk
  | .setstageEnter g => g.wd == 0 && g.wa == 0 && g.slot == 0 && g.imm == 0 && g.wb == 0 && g.imm32 == 0
  | .stageResume => true
  | .setqIn g => g.wd == 0 && g.operandOk
  | .setqOut g => g.wd == 0 && g.operandOk
  | .br b => b.cc == 0
  | .brc b => b.cc.toNat ≤ 5
  | .loop _ => true
  | .call b => b.cc == 0
  | .ret => true
  | .yieldOp => true
  | .saveW g => g.wd == 0 && g.operandOk
  | .saveIs g => g.wd == 0 && g.operandOk
  | .rstrW g => g.wd == 0 && g.operandOk
  | .rstrIs g => g.wd == 0 && g.operandOk
  | .movw g => g.wa == 0 && g.slot == 0 && g.operandOk
  | .movwI g => g.wd.toNat ≤ 3 && g.wa == 0 && g.slot == 0 && g.operandOk
  | .movwR g => g.wa.toNat ≤ 3 && g.slot == 0 && g.imm == 0 && g.wb == 0 && g.imm32 == 0
  | .addw g => g.slot == 0 && g.operandOk
  | .cmpw g => g.wd == 0 && g.slot == 0 && g.operandOk
  | .ldw g => g.operandOk
  | .stw g => g.operandOk
  | .rdst g => g.wa == 0 && g.slot == 0 && g.imm == 0 && g.wb == 0 && g.imm32 == 0
  | .wrst g => g.wd == 0 && g.wa == 0 && g.slot == 0 && g.operandOk
  | .rdcyc g => g.wa == 0 && g.slot == 0 && g.imm == 0 && g.wb == 0 && g.imm32 == 0
  | .trapCode code => code.toNat < 0x8000
  | .trapService code => 0x8000 ≤ code.toNat
  | .eret => true
  | .setks g => g.imm == 0 && g.wb == 0 && g.imm32 == 0
  | .rdfq g => g.operandOk
  | .halt => true
  | .trapEntry => true
  | .add m => m.intForm 1
  | .sub m => m.intForm 1
  | .mul m => m.intForm 1
  | .mulh m => m.intForm 0
  | .div m => m.intForm 0
  | .rem m => m.intForm 0
  | .and m => m.intForm 0
  | .or m => m.intForm 0
  | .xor m => m.intForm 0
  | .not m => m.intForm 0
  | .shl m => m.intForm 0
  | .shr m => m.intForm 0
  | .sar m => m.intForm 0
  | .rot m => m.intForm 0
  | .min m => m.intForm 0
  | .max m => m.intForm 0
  | .cmp m => m.intForm 5
  | .sel m => m.intForm 0
  | .clz m => m.intForm 0
  | .popc m => m.intForm 0
  | .addc m => m.intForm 0
  | .subb m => m.intForm 0
  | .capofs m => m.capForm 4 && m.modNat < 32
  | .capset m => m.capForm 4 && m.modNat < 4
  | .capnar m => m.capForm 8 && m.modNat < 8
  | .caprgt m => m.capForm 8 && m.modNat < 1024
  | .captag m => m.tyNat == 8 && m.rmNat == 0 && m.rdstPG && m.modNat < 32 && m.modF 2 3 ≤ 5
  | .affine m => [3, 4, 7, 8].contains m.tyNat && m.rmNat == 0 && m.rdstPG && m.modNat == 0
  | .ctr m => [3, 4].contains m.tyNat && m.rmNat == 0 && m.rdstNat == 0 && m.modNat == 0
  | .fadd m => m.floatTy && m.rmNat ≤ 3 && m.rdstPG && m.modNat == 0
  | .fsub m => m.floatTy && m.rmNat ≤ 3 && m.rdstPG && m.modNat == 0
  | .fmul m => m.floatTy && m.rmNat ≤ 3 && m.rdstPG && m.modNat == 0
  | .fma m => m.floatTy && m.rmNat ≤ 3 && m.rdstPG && m.modNat < 4
  | .fmin m => m.floatTy && m.rmNat ≤ 3 && m.rdstPG && m.modNat == 0
  | .fmax m => m.floatTy && m.rmNat ≤ 3 && m.rdstPG && m.modNat == 0
  | .fcmp m => m.floatTy && m.rmNat == 0 && m.rdstPG && m.modNat ≤ 6
  | .fabs m => m.floatTy && m.rmNat == 0 && m.rdstPG && m.modNat == 0
  | .fneg m => m.floatTy && m.rmNat == 0 && m.rdstPG && m.modNat == 0
  | .rcpa m => m.floatTy && m.rmNat ≤ 3 && m.rdstPG && m.modNat == 0
  | .rsqa m => m.floatTy && m.rmNat ≤ 3 && m.rdstPG && m.modNat == 0
  | .exp2a m => m.floatTy && m.rmNat ≤ 3 && m.rdstPG && m.modNat == 0
  | .log2a m => m.floatTy && m.rmNat ≤ 3 && m.rdstPG && m.modNat == 0
  | .fclass m => m.anyFloatTy && m.rmNat == 0 && m.rdstPG && m.modNat == 0
  | .cvt m => m.cvtForm
  | .qnt m => m.qntForm
  | .dqnt m => m.floatTy && m.rmNat ≤ 3 && m.rdstPG && m.modNat == 0
  | .cbload m => m.bare 11 && m.modNat < 16
  | .hdrset m => m.bare 0 && m.modNat < 4096
  | .steer m => m.bare 0 && m.modNat == 0
  | .merge m => m.bare 0 && m.modNat == 0
  | .amerge m => m.bare 0 && m.modNat == 0
  | .gate m => m.bare 0 && m.modNat < 4 && m.modNat != 2
  | .repeatOp m => m.bare 0 && m.modNat == 0
  | .drop m => m.bare 0 && m.modNat < 65536
  | .take m => m.bare 0 && m.modNat < 65536
  | .zip m => m.bare 0 && m.modNat == 0
  | .split m => m.bare 0 && m.modNat == 0
  | .mark m => m.bare 0 && m.modNat == 0
  | .strip m => m.bare 0 && m.modNat == 0
  | .voidOp m => m.bare 0 && m.modNat == 0
  | .dup m => m.bare 0 && m.modNat == 0
  | .red m => m.redForm && m.rdstPG
  | .scan m => m.redForm && m.rdstNat == 0 && m.modF 4 1 == 0
  | .tld m => m.eltBare && m.modNat < 2048 && 1 ≤ m.modF 2 8
  | .tswap m => m.bare 0 && m.modNat < 2
  | .tdot m => m.tdotForm
  | .tbcast m => m.eltBare && m.modNat < 16
  | .tsto m => m.eltBare && m.modNat < 1024 && 1 ≤ m.modF 2 8
  | .rnd m => m.rndForm
  | .rndkey m => m.bare 0 && m.modNat < 32 && m.modF 2 2 != 3
  | .add128 m => m.bare 0 && m.modNat < 128 && 2 ≤ m.modF 0 4 && m.modF 0 4 ≤ 8 && m.modF 4 3 + 2 ≤ m.modF 0 4
  | .alloc m => m.tyNat == 8 && m.rmNat == 0 && m.rdst0K && m.modNat < 8
  | .free m => m.bare 8 && m.modNat < 16 && m.modF 0 2 != m.modF 2 2
  | .lds m => m.eltBare && m.modNat < 16
  | .sts m => m.eltBare && m.modNat < 16 && m.modF 2 1 == 0
  | .ldg m => m.eltTy && m.rmNat == 0 && (m.rdstPG || m.rdstK && m.tyNat == 8) && m.modNat < 4
  | .stg m => m.eltBare && m.modNat < 32 && (m.modF 2 1 == 0 || m.tyNat == 8)
  | .ldl m => m.eltTy && m.rmNat == 0 && m.rdstPG && m.modNat < 2
  | .stl m => m.eltBare && m.modNat < 2
  | .ldfe m => [4, 8].contains m.tyNat && m.rmNat == 0 && m.rdstPG && m.modNat < 2
  | .stfe m => [4, 8].contains m.tyNat && m.rmNat == 0 && m.rdstNat == 0 && m.modNat < 2
  | .pref m => m.eltBare && m.modNat < 8
  | .atomAdd m => m.atomForm 0
  | .atomMin m => m.atomForm 1
  | .atomMax m => m.atomForm 2
  | .atomAnd m => m.atomForm 3
  | .atomOr m => m.atomForm 4
  | .atomXor m => m.atomForm 5
  | .atomXchg m => m.atomForm 6
  | .atomCas m => m.atomForm 7
  | .ldacq m => m.intTy && m.rmNat == 0 && m.rdstPG && m.modNat < 32 && m.modF 2 3 ≤ 6
  | .strel m => m.intTy && m.rmNat == 0 && m.rdstNat == 0 && m.modNat < 8192 && m.modF 2 3 ≤ 6
  | .fence m => m.bare 0 && m.modNat < 8192 && m.modF 0 2 == 0 && m.modF 2 3 ≤ 6
  | .monw m => m.intTy && m.rmNat == 0 && m.rdstPG && m.modNat < 32 && m.modF 2 3 ≤ 6
  | .waitw m => m.bare 0 && m.modNat == 0
  | .monitorWake => true
  | .futnew m => m.tyNat == 8 && m.rmNat == 0 && m.rdstPG && m.modNat < 4
  | .futres m => m.tyNat == 8 && m.rmNat == 0 && m.rdstPG && m.modNat < 64 && m.modF 2 3 ≤ 6
  | .futreg m => m.tyNat == 8 && m.rmNat == 0 && m.rdstPG && m.modNat < 4
  | .futget m => m.tyNat == 8 && m.rmNat == 0 && m.rdstPG && m.modNat < 32 && m.modF 2 3 ≤ 6
  | .cellTrap m => m.bare 0 && m.modNat < 32768
  | .brk m => m.bare 0 && m.modNat < 256
  | .ctlw m => m.bare 8 && m.modNat < 16
  | .sysrd m => m.sysForm && m.modNat < 4
  | .syswr m => m.bare 8 && m.modNat < 4
  | .perf m => m.sysForm && m.modNat ≤ 7
  | .mmaEmit m => m.bare 0 && m.modNat == 0
  | .mmasEmit m => m.bare 0 && m.modNat == 0
  | .mloadEmit m => m.bare 0 && m.modNat == 0
  | .mclaimEmit m => m.bare 0 && m.modNat == 0
  | .mreleaseEmit m => m.bare 0 && m.modNat == 0
  | .mdrainEmit m => m.bare 0 && m.modNat == 0
  | .normEmit m => m.bare 0 && m.modNat == 0
  | .copyEmit m => m.bare 0 && m.modNat == 0
  | .chainEmit m => m.bare 0 && m.modNat == 0
  | .stashEmit m => m.bare 0 && m.modNat == 0
  | .restoreEmit m => m.bare 0 && m.modNat == 0
  | .convEmit m => m.bare 0 && m.modNat == 0
  | .fprintEmit m => m.bare 0 && m.modNat == 0
  | .dedupEmit m => m.bare 0 && m.modNat == 0
  | .xferEmit m => m.bare 0 && m.modNat == 0
  | .streamPortIssue => true
  | .landingBufferWrite => true
  | .reorderStoreAdmit => true
  | .reorderStoreIssue => true
  | .memoryTileRequest => true
  | .storeAck => true
  | .doneToken => true
  | .tagSweep => true
  | .mclaim w => w.eop 0x13 && w.claimFields && w.doneOnly
  | .mrelease w => w.eop 0x14 && w.claimFields && w.doneOnly
  | .mload w => w.eop 0x12 && w.loadFields && w.f0 44 2 != 3 && w.f0 40 4 == 0 && w.doneOnly
  | .mloadAccumulate w => w.eop 0x12 && w.loadFields && w.f0 44 2 == 3 && w.doneOnly
  | .mloadCommit => true
  | .mma w => w.eop 0x10 && w.mmaFields && w.w1 == 0
  | .mmas w => w.eop 0x11 && w.mmaFields && w.f1 32 24 == 0 && w.doneFields
  | .mdrain w => w.eop 0x15 && w.f0 40 16 == 0 && w.f0 0 35 == 0 && w.f1 58 6 ≤ 47 && w.f1 32 22 == 0 && w.doneFields
  | .norm w => w.eop 0x16 && w.f0 40 16 == 0 && w.f0 0 15 == 0 && w.f0 31 3 ≤ 6 && w.doneOnly
  | .engineCommandStart => true
  | .engineCommandComplete => true
  | .copy w => w.eop 0x20 && w.mode ≤ 1 && w.streamFields
  | .chain w => w.eop 0x21 && w.mode ≤ 3 && w.streamFields
  | .stash w => w.eop 0x22 && w.stashMode && w.streamFields
  | .restore w => w.eop 0x23 && w.stashMode && w.streamFields
  | .convToCsr w => w.eop 0x24 && w.mode == 0 && w.streamFields
  | .convFromCsr w => w.eop 0x24 && w.mode == 1 && w.streamFields
  | .convToC4 w => w.eop 0x24 && w.mode % 4 == 2 && w.mode < 64 && w.streamFields
  | .fprint w => w.eop 0x25 && w.mode == 0 && w.streamFields
  | .dedup w => w.eop 0x26 && w.mode == 0 && w.streamFields
  | .xferPut w => w.eop 0x27 && w.mode == 0 && w.streamFields
  | .xferGet w => w.eop 0x27 && w.mode == 1 && w.streamFields
  | .kick => true
  | .launchReread => true
  | .packetAccept => true
  | .continuationEnqueue => true
  | .lqConfigWrite _ _ => true
  | .tprio _ => true
  | .agePromote => true
  | .taskSelect => true
  | .taskBind => true
  | .taskDropUnbindable => true
  | .fqpop _ => true
  | .mctlRelease _ => true
  | .mctlKill _ => true
  | .mctlResume _ => true
  | .preAbort _ => true
  | .preDrain _ => true
  | .preFreeze _ => true
  | .drainDeadline => true
  | .pageFaultWindowClose => true
  | .xinv _ => true
  | .apertureRegWrite _ _ => true
  | .registerWrite _ _ => true
  | .hostBar0Access _ _ _ _ => true
  | .hostHdmAccess _ _ _ _ => true
  | .flitReceive _ _ => true
  | .narebRequest _ => true
  | .xferHoldRetranslate => true
  | .rdmaInboundWrite _ _ => true
  | .powerOn => true
  | .moduleStart _ => true
  | .fwdata _ => true
  | .fwErase _ => true
  | .fwVerify _ => true
  | .fwActivate _ => true
  | .attest _ => true
  | .clockStepDown => true
  | .clockStepUp => true
  | .thermalShutdown => true
  | .fabricCycle => true
  | .startStepDone => true
  | .fwEraseDone => true
  | .fwVerifyDone => true

end Sys2Proof
end

