-- ==== Sys2Proof/Decode.lean ====
section
/-! DEFINITION. The decoders and the encoder of the four encoded kinds: 32-bit configuration commands (Tables 1.1 and
8.1), 64-bit controller instructions (Tables 8.11 and 8.12), 40-bit operation words (Tables 8.4 and 8.10) and two-word
island commands (Table 8.13). A decoder answers none for every word that is no valid step of its kind; who reads the word
gives it the fate of Table 8.14. -/

namespace Sys2Proof

/-- The encoded kinds. -/
inductive Encoded where
  /-- A configuration command. -/
  | cfg (w : W32)
  /-- A controller instruction. -/
  | ctl (w : W64)
  /-- An operation word. -/
  | op (w : BitVec 40)
  /-- The two words of an island command. -/
  | eng (w0 w1 : W64)
  deriving DecidableEq, Repr

/-- The configuration command in a word, before its own fields are judged. -/
def rawCfg (w : W32) : Option Instr :=
  match (w.extractLsb' 28 4).toNat with
  | 0 | 1 | 2 | 3 => some (.write (w.extractLsb' 16 14) (w.extractLsb' 10 6) (w.extractLsb' 0 10))
  | 4 | 5 | 6 | 7 => some (.extend (w.extractLsb' 0 30))
  | 8 => if w.extractLsb' 14 14 = 0 then some (.selectBase (w.extractLsb' 0 14)) else none
  | 9 => some (.selectRepeat (w.extractLsb' 14 14) (w.extractLsb' 0 14))
  | 10 =>
    if w.extractLsb' 0 12 = 0 then
      some (.selectBmask (w.extractLsb' 24 4) (w.extractLsb' 20 4) (w.extractLsb' 16 4) (w.extractLsb' 12 4))
    else none
  | 12 => some (.token (w.extractLsb' 25 3) (w.extractLsb' 11 14) (w.extractLsb' 9 2) (w.extractLsb' 0 9))
  | 13 =>
    if w.extractLsb' 25 3 = 0 ∧ w.extractLsb' 0 9 = 0 then
      some (.start (w.extractLsb' 11 14) (w.extractLsb' 9 2))
    else none
  | 14 => if w.extractLsb' 0 28 = 0 then some .cfgEnd else none
  | _ => none

/-- Keeps a step whose own fields are valid. -/
def checked : Option Instr → Option Instr
  | some i => if i.wf then some i else none
  | none => none

/-- The configuration command in a word (R8, R91). -/
def decode32 (w : W32) : Option Instr := checked (rawCfg w)

/-- Format K. -/
def fmtK (w : W64) : Option FmtK :=
  if w.extractLsb' 48 8 = 0 then some ⟨w.extractLsb' 20 28, w.extractLsb' 0 20⟩ else none

/-- Format R. -/
def fmtR (w : W64) : Option FmtR :=
  if w.extractLsb' 4 52 = 0 then some ⟨w.extractLsb' 0 4⟩ else none

/-- Format G without SUB. -/
def fmtG (w : W64) : FmtG :=
  ⟨w.extractLsb' 52 4, w.extractLsb' 48 4, w.extractLsb' 44 4, w.extractLsb' 43 1, w.extractLsb' 32 8,
   w.extractLsb' 0 32⟩

/-- Format B. -/
def fmtB (w : W64) : Option FmtB :=
  if w.extractLsb' 32 20 = 0 then some ⟨w.extractLsb' 52 4, w.extractLsb' 0 32⟩ else none

/-- Format J without REORDER. -/
def fmtJ (w : W64) : Option FmtJ :=
  if w.extractLsb' 28 8 = 0 then
    some ⟨w.extractLsb' 48 8, w.extractLsb' 40 8, w.extractLsb' 38 2, w.extractLsb' 36 1, w.extractLsb' 0 28⟩
  else none

/-- Format N: no field. -/
def fmtN (w : W64) (i : Instr) : Option Instr := if w.extractLsb' 0 56 = 0 then some i else none

/-- A format G instruction by its SUB. -/
def bySub (w : W64) (s0 s1 s2 : Option (FmtG → Instr)) : Option Instr :=
  match (w.extractLsb' 40 3).toNat with
  | 0 => s0.map (· (fmtG w))
  | 1 => s1.map (· (fmtG w))
  | 2 => s2.map (· (fmtG w))
  | _ => none

/-- The controller instruction in a word, before its own fields are judged (Table 8.12). -/
def rawCtl (w : W64) : Option Instr :=
  match (w.extractLsb' 56 8).toNat with
  | 0x01 => (fmtK w).map .cfg
  | 0x02 => (fmtR w).map .run
  | 0x03 => (fmtK w).map .pcfg
  | 0x04 => fmtN w .belay
  | 0x05 => bySub w (some .waitc) none none
  | 0x06 => (fmtJ w).map fun j => if w.extractLsb' 37 1 = 1 then .joinReorder j else .joinCheck j
  | 0x07 => if w.extractLsb' 37 1 = 0 then (fmtJ w).map .unjoin else none
  | 0x08 => bySub w (some .spawn) none none
  | 0x09 => bySub w (some .grpl) none none
  | 0x0A => bySub w (some .setstageDecl) (some .setstageEnter) none
  | 0x0B => bySub w (some .setqIn) (some .setqOut) none
  | 0x10 => (fmtB w).map .br
  | 0x11 => (fmtB w).map .brc
  | 0x12 => (fmtB w).map .loop
  | 0x13 => (fmtB w).map .call
  | 0x14 => fmtN w .ret
  | 0x18 => fmtN w .yieldOp
  | 0x19 => bySub w (some .saveW) (some .saveIs) none
  | 0x1A => bySub w (some .rstrW) (some .rstrIs) none
  | 0x20 => bySub w (some .movw) (some .movwI) (some .movwR)
  | 0x21 => bySub w (some .addw) none none
  | 0x22 => bySub w (some .cmpw) none none
  | 0x23 => bySub w (some .ldw) none none
  | 0x24 => bySub w (some .stw) none none
  | 0x25 => bySub w (some .rdst) none none
  | 0x26 => bySub w (some .wrst) none none
  | 0x27 => bySub w (some .rdcyc) none none
  | 0x30 =>
    if w.extractLsb' 16 40 = 0 then
      some (if (w.extractLsb' 0 16).toNat < 0x8000 then .trapCode (w.extractLsb' 0 16)
        else .trapService (w.extractLsb' 0 16))
    else none
  | 0x31 => fmtN w .eret
  | 0x38 => bySub w (some .setks) none none
  | 0x39 => bySub w (some .rdfq) none none
  | 0x3F => fmtN w .halt
  | _ => none

/-- The controller instruction in a word (R99-R101). -/
def decode64 (w : W64) : Option Instr := checked (rawCtl w)

/-- TYPE, RDST, RM and MOD of an operation word (Table 8.4). -/
def modsOf (w : BitVec 40) : Mods :=
  ⟨w.extractLsb' 26 5, w.extractLsb' 20 6, w.extractLsb' 17 3, w.extractLsb' 0 17⟩

/-- The cell operation of an opcode (Table 8.10); ATOM selects its form in MOD[3:0] (R98). -/
def cellStep (opc : Nat) (m : Mods) : Option Instr :=
  match opc with
  | 0x001 => some (.add m)
  | 0x002 => some (.sub m)
  | 0x003 => some (.mul m)
  | 0x004 => some (.mulh m)
  | 0x005 => some (.div m)
  | 0x006 => some (.rem m)
  | 0x007 => some (.and m)
  | 0x008 => some (.or m)
  | 0x009 => some (.xor m)
  | 0x00A => some (.not m)
  | 0x00B => some (.shl m)
  | 0x00C => some (.shr m)
  | 0x00D => some (.sar m)
  | 0x00E => some (.rot m)
  | 0x00F => some (.min m)
  | 0x010 => some (.max m)
  | 0x011 => some (.cmp m)
  | 0x012 => some (.sel m)
  | 0x013 => some (.clz m)
  | 0x014 => some (.popc m)
  | 0x015 => some (.addc m)
  | 0x016 => some (.subb m)
  | 0x020 => some (.capofs m)
  | 0x021 => some (.capset m)
  | 0x022 => some (.capnar m)
  | 0x023 => some (.caprgt m)
  | 0x024 => some (.captag m)
  | 0x025 => some (.affine m)
  | 0x026 => some (.ctr m)
  | 0x040 => some (.fadd m)
  | 0x041 => some (.fsub m)
  | 0x042 => some (.fmul m)
  | 0x043 => some (.fma m)
  | 0x044 => some (.fmin m)
  | 0x045 => some (.fmax m)
  | 0x046 => some (.fcmp m)
  | 0x047 => some (.fabs m)
  | 0x048 => some (.fneg m)
  | 0x049 => some (.rcpa m)
  | 0x04A => some (.rsqa m)
  | 0x04B => some (.exp2a m)
  | 0x04C => some (.log2a m)
  | 0x04D => some (.fclass m)
  | 0x060 => some (.cvt m)
  | 0x061 => some (.qnt m)
  | 0x062 => some (.dqnt m)
  | 0x063 => some (.cbload m)
  | 0x064 => some (.hdrset m)
  | 0x100 => some (.steer m)
  | 0x101 => some (.merge m)
  | 0x102 => some (.amerge m)
  | 0x103 => some (.gate m)
  | 0x104 => some (.repeatOp m)
  | 0x105 => some (.drop m)
  | 0x106 => some (.take m)
  | 0x107 => some (.zip m)
  | 0x108 => some (.split m)
  | 0x109 => some (.mark m)
  | 0x10A => some (.strip m)
  | 0x10B => some (.dup m)
  | 0x10C => some (.red m)
  | 0x10D => some (.scan m)
  | 0x10E => some (.voidOp m)
  | 0x120 => some (.tld m)
  | 0x121 => some (.tswap m)
  | 0x122 => some (.tdot m)
  | 0x123 => some (.tbcast m)
  | 0x124 => some (.tsto m)
  | 0x140 => some (.rnd m)
  | 0x141 => some (.rndkey m)
  | 0x142 => some (.add128 m)
  | 0x148 => some (.alloc m)
  | 0x149 => some (.free m)
  | 0x180 => some (.lds m)
  | 0x181 => some (.sts m)
  | 0x182 => some (.ldg m)
  | 0x183 => some (.stg m)
  | 0x184 => some (.ldl m)
  | 0x185 => some (.stl m)
  | 0x186 => some (.ldfe m)
  | 0x187 => some (.stfe m)
  | 0x188 => some (.pref m)
  | 0x189 =>
    match m.modF 0 4 with
    | 0 => some (.atomAdd m)
    | 1 => some (.atomMin m)
    | 2 => some (.atomMax m)
    | 3 => some (.atomAnd m)
    | 4 => some (.atomOr m)
    | 5 => some (.atomXor m)
    | 6 => some (.atomXchg m)
    | 7 => some (.atomCas m)
    | _ => none
  | 0x18A => some (.ldacq m)
  | 0x18B => some (.strel m)
  | 0x18C => some (.fence m)
  | 0x18D => some (.monw m)
  | 0x18E => some (.waitw m)
  | 0x1A0 => some (.futnew m)
  | 0x1A1 => some (.futres m)
  | 0x1A2 => some (.futreg m)
  | 0x1A3 => some (.futget m)
  | 0x1D0 => some (.mmaEmit m)
  | 0x1D1 => some (.mmasEmit m)
  | 0x1D2 => some (.mloadEmit m)
  | 0x1D3 => some (.mclaimEmit m)
  | 0x1D4 => some (.mreleaseEmit m)
  | 0x1D5 => some (.mdrainEmit m)
  | 0x1D6 => some (.normEmit m)
  | 0x1E0 => some (.copyEmit m)
  | 0x1E1 => some (.chainEmit m)
  | 0x1E2 => some (.stashEmit m)
  | 0x1E3 => some (.restoreEmit m)
  | 0x1E4 => some (.convEmit m)
  | 0x1E5 => some (.fprintEmit m)
  | 0x1E6 => some (.dedupEmit m)
  | 0x1E7 => some (.xferEmit m)
  | 0x1F0 => some (.cellTrap m)
  | 0x1F1 => some (.brk m)
  | 0x1F2 => some (.ctlw m)
  | 0x1F3 => some (.sysrd m)
  | 0x1F4 => some (.syswr m)
  | 0x1F5 => some (.perf m)
  | _ => none

/-- The cell operation in an operation word (R97, R98). The word of all zeros is the idle cell, which is no operation. -/
def decode40 (w : BitVec 40) : Option Instr := checked (cellStep (w.extractLsb' 31 9).toNat (modsOf w))

/-- The island command in its two words, before its own fields are judged (Table 8.13). -/
def rawEng (w : EngWords) : Option Instr :=
  match w.f0 56 8 with
  | 0x10 => some (.mma w)
  | 0x11 => some (.mmas w)
  | 0x12 => some (if w.f0 44 2 == 3 then .mloadAccumulate w else .mload w)
  | 0x13 => some (.mclaim w)
  | 0x14 => some (.mrelease w)
  | 0x15 => some (.mdrain w)
  | 0x16 => some (.norm w)
  | 0x20 => some (.copy w)
  | 0x21 => some (.chain w)
  | 0x22 => some (.stash w)
  | 0x23 => some (.restore w)
  | 0x24 =>
    match w.mode % 4 with
    | 0 => some (.convToCsr w)
    | 1 => some (.convFromCsr w)
    | 2 => some (.convToC4 w)
    | _ => none
  | 0x25 => some (.fprint w)
  | 0x26 => some (.dedup w)
  | 0x27 => some (if w.mode % 2 == 1 then .xferGet w else .xferPut w)
  | _ => none

/-- The island command in its two words (R102-R104, R234, R251). -/
def decode128 (w0 w1 : W64) : Option Instr := checked (rawEng ⟨w0, w1⟩)

/-- The step in an encoded word of any kind. -/
def decode : Encoded → Option Instr
  | .cfg w => decode32 w
  | .ctl w => decode64 w
  | .op w => decode40 w
  | .eng w0 w1 => decode128 w0 w1

/-- An opcode and a body of 56 bits. -/
def encCtl (op : Nat) (body : BitVec 56) : Option Encoded := some (.ctl (BitVec.ofNat 8 op ++ body))

/-- Format K. -/
def encK (op : Nat) (k : FmtK) : Option Encoded := encCtl op (0#8 ++ k.off ++ k.cnt)

/-- Format R. -/
def encR (op : Nat) (r : FmtR) : Option Encoded := encCtl op (0#52 ++ r.mask)

/-- Format G with its SUB. -/
def encG (op sub : Nat) (g : FmtG) : Option Encoded :=
  encCtl op (g.wd ++ g.wa ++ g.wb ++ g.imm ++ BitVec.ofNat 3 sub ++ g.slot ++ g.imm32)

/-- Format B. -/
def encB (op : Nat) (b : FmtB) : Option Encoded := encCtl op (b.cc ++ 0#20 ++ b.ofs)

/-- Format J with its REORDER bit. -/
def encJ (op reorder : Nat) (j : FmtJ) : Option Encoded :=
  encCtl op (j.pord ++ j.cord ++ j.width ++ BitVec.ofNat 1 reorder ++ j.far ++ 0#8 ++ j.desc)

/-- Format T. -/
def encT (code : BitVec 16) : Option Encoded := encCtl 0x30 (0#40 ++ code)

/-- An operation word (Table 8.4). -/
def encOp (opc : Nat) (m : Mods) : Option Encoded :=
  some (.op (BitVec.ofNat 9 opc ++ m.ty ++ m.rdst ++ m.rm ++ m.mod))

/-- The encoded word of a step; none for a step that is an event and has no encoding. -/
def encode (i : Instr) : Option Encoded :=
  match i with
  | .write c f v => some (.cfg (0#2 ++ c ++ f ++ v))
  | .extend v => some (.cfg (1#2 ++ v))
  | .selectBase b => some (.cfg (8#4 ++ 0#14 ++ b))
  | .selectRepeat s n => some (.cfg (9#4 ++ s ++ n))
  | .selectBmask a b c d => some (.cfg (10#4 ++ a ++ b ++ c ++ d ++ 0#12))
  | .token k c p v => some (.cfg (12#4 ++ k ++ c ++ p ++ v))
  | .start c p => some (.cfg (13#4 ++ 0#3 ++ c ++ p ++ 0#9))
  | .cfgEnd => some (.cfg (14#4 ++ 0#28))
  | .cfg k => encK 0x01 k
  | .pcfg k => encK 0x03 k
  | .run r => encR 2 r
  | .runPass => none
  | .belay => encCtl 0x04 0
  | .belayPass => none
  | .waitc g => encG 0x05 0 g
  | .waitcEnd => none
  | .joinReorder j => encJ 6 1 j
  | .joinCheck j => encJ 6 0 j
  | .joinComplete => none
  | .unjoin j => encJ 7 0 j
  | .spawn g => encG 0x08 0 g
  | .grpl g => encG 0x09 0 g
  | .setstageDecl g => encG 0x0A 0 g
  | .setstageEnter g => encG 0x0A 1 g
  | .stageResume => none
  | .setqIn g => encG 0x0B 0 g
  | .setqOut g => encG 0x0B 1 g
  | .br b => encB 0x10 b
  | .brc b => encB 0x11 b
  | .loop b => encB 0x12 b
  | .call b => encB 0x13 b
  | .ret => encCtl 0x14 0
  | .yieldOp => encCtl 0x18 0
  | .saveW g => encG 0x19 0 g
  | .saveIs g => encG 0x19 1 g
  | .rstrW g => encG 0x1A 0 g
  | .rstrIs g => encG 0x1A 1 g
  | .movw g => encG 0x20 0 g
  | .movwI g => encG 0x20 1 g
  | .movwR g => encG 0x20 2 g
  | .addw g => encG 0x21 0 g
  | .cmpw g => encG 0x22 0 g
  | .ldw g => encG 0x23 0 g
  | .stw g => encG 0x24 0 g
  | .rdst g => encG 0x25 0 g
  | .wrst g => encG 0x26 0 g
  | .rdcyc g => encG 0x27 0 g
  | .trapCode code => encT code
  | .trapService code => encT code
  | .eret => encCtl 0x31 0
  | .setks g => encG 0x38 0 g
  | .rdfq g => encG 0x39 0 g
  | .halt => encCtl 0x3F 0
  | .trapEntry => none
  | .add m => encOp 0x001 m
  | .sub m => encOp 0x002 m
  | .mul m => encOp 0x003 m
  | .mulh m => encOp 0x004 m
  | .div m => encOp 0x005 m
  | .rem m => encOp 0x006 m
  | .and m => encOp 0x007 m
  | .or m => encOp 0x008 m
  | .xor m => encOp 0x009 m
  | .not m => encOp 0x00A m
  | .shl m => encOp 0x00B m
  | .shr m => encOp 0x00C m
  | .sar m => encOp 0x00D m
  | .rot m => encOp 0x00E m
  | .min m => encOp 0x00F m
  | .max m => encOp 0x010 m
  | .cmp m => encOp 0x011 m
  | .sel m => encOp 0x012 m
  | .clz m => encOp 0x013 m
  | .popc m => encOp 0x014 m
  | .addc m => encOp 0x015 m
  | .subb m => encOp 0x016 m
  | .capofs m => encOp 0x020 m
  | .capset m => encOp 0x021 m
  | .capnar m => encOp 0x022 m
  | .caprgt m => encOp 0x023 m
  | .captag m => encOp 0x024 m
  | .affine m => encOp 0x025 m
  | .ctr m => encOp 0x026 m
  | .fadd m => encOp 0x040 m
  | .fsub m => encOp 0x041 m
  | .fmul m => encOp 0x042 m
  | .fma m => encOp 0x043 m
  | .fmin m => encOp 0x044 m
  | .fmax m => encOp 0x045 m
  | .fcmp m => encOp 0x046 m
  | .fabs m => encOp 0x047 m
  | .fneg m => encOp 0x048 m
  | .rcpa m => encOp 0x049 m
  | .rsqa m => encOp 0x04A m
  | .exp2a m => encOp 0x04B m
  | .log2a m => encOp 0x04C m
  | .fclass m => encOp 0x04D m
  | .cvt m => encOp 0x060 m
  | .qnt m => encOp 0x061 m
  | .dqnt m => encOp 0x062 m
  | .cbload m => encOp 0x063 m
  | .hdrset m => encOp 0x064 m
  | .steer m => encOp 0x100 m
  | .merge m => encOp 0x101 m
  | .amerge m => encOp 0x102 m
  | .gate m => encOp 0x103 m
  | .repeatOp m => encOp 0x104 m
  | .drop m => encOp 0x105 m
  | .take m => encOp 0x106 m
  | .zip m => encOp 0x107 m
  | .split m => encOp 0x108 m
  | .mark m => encOp 0x109 m
  | .strip m => encOp 0x10A m
  | .voidOp m => encOp 0x10E m
  | .dup m => encOp 0x10B m
  | .red m => encOp 0x10C m
  | .scan m => encOp 0x10D m
  | .tld m => encOp 0x120 m
  | .tswap m => encOp 0x121 m
  | .tdot m => encOp 0x122 m
  | .tbcast m => encOp 0x123 m
  | .tsto m => encOp 0x124 m
  | .rnd m => encOp 0x140 m
  | .rndkey m => encOp 0x141 m
  | .add128 m => encOp 0x142 m
  | .alloc m => encOp 0x148 m
  | .free m => encOp 0x149 m
  | .lds m => encOp 0x180 m
  | .sts m => encOp 0x181 m
  | .ldg m => encOp 0x182 m
  | .stg m => encOp 0x183 m
  | .ldl m => encOp 0x184 m
  | .stl m => encOp 0x185 m
  | .ldfe m => encOp 0x186 m
  | .stfe m => encOp 0x187 m
  | .pref m => encOp 0x188 m
  | .atomAdd m => encOp 0x189 m
  | .atomMin m => encOp 0x189 m
  | .atomMax m => encOp 0x189 m
  | .atomAnd m => encOp 0x189 m
  | .atomOr m => encOp 0x189 m
  | .atomXor m => encOp 0x189 m
  | .atomXchg m => encOp 0x189 m
  | .atomCas m => encOp 0x189 m
  | .ldacq m => encOp 0x18A m
  | .strel m => encOp 0x18B m
  | .fence m => encOp 0x18C m
  | .monw m => encOp 0x18D m
  | .waitw m => encOp 0x18E m
  | .monitorWake => none
  | .futnew m => encOp 0x1A0 m
  | .futres m => encOp 0x1A1 m
  | .futreg m => encOp 0x1A2 m
  | .futget m => encOp 0x1A3 m
  | .cellTrap m => encOp 0x1F0 m
  | .brk m => encOp 0x1F1 m
  | .ctlw m => encOp 0x1F2 m
  | .sysrd m => encOp 0x1F3 m
  | .syswr m => encOp 0x1F4 m
  | .perf m => encOp 0x1F5 m
  | .mmaEmit m => encOp 0x1D0 m
  | .mmasEmit m => encOp 0x1D1 m
  | .mloadEmit m => encOp 0x1D2 m
  | .mclaimEmit m => encOp 0x1D3 m
  | .mreleaseEmit m => encOp 0x1D4 m
  | .mdrainEmit m => encOp 0x1D5 m
  | .normEmit m => encOp 0x1D6 m
  | .copyEmit m => encOp 0x1E0 m
  | .chainEmit m => encOp 0x1E1 m
  | .stashEmit m => encOp 0x1E2 m
  | .restoreEmit m => encOp 0x1E3 m
  | .convEmit m => encOp 0x1E4 m
  | .fprintEmit m => encOp 0x1E5 m
  | .dedupEmit m => encOp 0x1E6 m
  | .xferEmit m => encOp 0x1E7 m
  | .streamPortIssue => none
  | .landingBufferWrite => none
  | .reorderStoreAdmit => none
  | .reorderStoreIssue => none
  | .memoryTileRequest => none
  | .storeAck => none
  | .doneToken => none
  | .tagSweep => none
  | .mclaim w => some (.eng w.w0 w.w1)
  | .mrelease w => some (.eng w.w0 w.w1)
  | .mload w => some (.eng w.w0 w.w1)
  | .mloadAccumulate w => some (.eng w.w0 w.w1)
  | .mloadCommit => none
  | .mma w => some (.eng w.w0 w.w1)
  | .mmas w => some (.eng w.w0 w.w1)
  | .mdrain w => some (.eng w.w0 w.w1)
  | .norm w => some (.eng w.w0 w.w1)
  | .engineCommandStart => none
  | .engineCommandComplete => none
  | .copy w => some (.eng w.w0 w.w1)
  | .chain w => some (.eng w.w0 w.w1)
  | .stash w => some (.eng w.w0 w.w1)
  | .restore w => some (.eng w.w0 w.w1)
  | .convToCsr w => some (.eng w.w0 w.w1)
  | .convFromCsr w => some (.eng w.w0 w.w1)
  | .convToC4 w => some (.eng w.w0 w.w1)
  | .fprint w => some (.eng w.w0 w.w1)
  | .dedup w => some (.eng w.w0 w.w1)
  | .xferPut w => some (.eng w.w0 w.w1)
  | .xferGet w => some (.eng w.w0 w.w1)
  | .kick => none
  | .launchReread => none
  | .packetAccept => none
  | .continuationEnqueue => none
  | .lqConfigWrite _ _ => none
  | .tprio _ => none
  | .agePromote => none
  | .taskSelect => none
  | .taskBind => none
  | .taskDropUnbindable => none
  | .fqpop _ => none
  | .mctlRelease _ => none
  | .mctlKill _ => none
  | .mctlResume _ => none
  | .preAbort _ => none
  | .preDrain _ => none
  | .preFreeze _ => none
  | .drainDeadline => none
  | .pageFaultWindowClose => none
  | .xinv _ => none
  | .apertureRegWrite _ _ => none
  | .registerWrite _ _ => none
  | .hostBar0Access _ _ _ _ => none
  | .hostHdmAccess _ _ _ _ => none
  | .flitReceive _ _ => none
  | .narebRequest _ => none
  | .xferHoldRetranslate => none
  | .rdmaInboundWrite _ _ => none
  | .powerOn => none
  | .moduleStart _ => none
  | .fwdata _ => none
  | .fwErase _ => none
  | .fwVerify _ => none
  | .fwActivate _ => none
  | .attest _ => none
  | .clockStepDown => none
  | .clockStepUp => none
  | .thermalShutdown => none
  | .fabricCycle => none
  | .startStepDone => none
  | .fwEraseDone => none
  | .fwVerifyDone => none

/-- The step in a word whose bits are w, in the table's numbering: 32 bits hold a configuration command, 40 an operation
word, 64 a controller instruction, 128 an island command; bits above the given ones are zero. -/
def decodeTableWord (nbits w : Nat) : Option Instr :=
  if nbits ≤ 32 then decode32 (BitVec.ofNat 32 w)
  else if nbits ≤ 40 then decode40 (BitVec.ofNat 40 w)
  else if nbits ≤ 64 then decode64 (BitVec.ofNat 64 w)
  else decode128 (BitVec.ofNat 64 w) (BitVec.ofNat 64 (w >>> 64))

end Sys2Proof
end

