-- ==== Sys2Proof/Config.lean ====
section
/-! DEFINITION. What the module fixes (Table 0.1 and the limits stated with each rule), and the free values: constants
without a body that stand for what the manual leaves open or takes from outside it. -/

namespace Sys2Proof.Config

/-- Dies of a module (R1, R19). -/
def dieCount : Nat := 16
/-- Usable cells of a block (R10, R19). -/
def cellsPerBlock : Nat := 62
/-- Bytes of a cell's local memory (R31). -/
def localBytes : Nat := 49152
/-- Bytes of a block's scratch space (R31). -/
def scratchBytes : Nat := 3047424
/-- Matrix islands of a die (R19). -/
def matrixIslands : Nat := 48
/-- Streamer islands of a die (R19). -/
def streamerIslands : Nat := 16
/-- Bytes of one die's bonded range (R160). -/
def dieBytes : Nat := 0x600000000
/-- Bytes of one vault (R160). -/
def vaultBytes : Nat := 0x6000000
/-- End of the bonded range of local addresses (R160). -/
def bondedEnd : Nat := 0x6000000000
/-- Spacing of the far-tier ranges of the CXL ports (R160). -/
def farStride : Nat := 0x1E000000000
/-- First local address that is never backed (R160). -/
def farEnd : Nat := 0xF6000000000
/-- Requests in flight at a memory tile (Table 0.1). -/
def tileRequests : Nat := 512
/-- Nareb link ports of the module (Table 0.1, R312). -/
def narebPorts : Nat := 36
/-- Lines of one L1: 32 KiB of 64-byte lines (R166). -/
def l1Lines : Nat := 512
/-- Records of a die's system fault queue (R294). -/
def faultQueueSize : Nat := 512
/-- Entries of one hardware task queue (R275). -/
def taskQueueSize : Nat := 4096
/-- Packets of the launch unit's continuation buffer (R276). -/
def continuationBuffer : Nat := 256
/-- Entries of a die's residency wait list (R298). -/
def residencyList : Nat := 256
/-- Kicks the FIFO of a die holds (R269). -/
def kickFifo : Nat := 16
/-- Cycles between two reads of a stale packet (R269). -/
def rereadCycles : Nat := 103
/-- Reads of a stale packet, at most (R269). -/
def maxReads : Nat := 64
/-- Monitors of one home tile (R192). -/
def monitorsPerTile : Nat := 64
/-- Release records of one home tile (R171). -/
def releaseRecords : Nat := 256
/-- Bytes of one firmware bank (R328). -/
def bankBytes : Nat := 0x2000000
/-- Modules of the load-store domain (R314). -/
def domainModules : Nat := 2304

/-- Free value: key number n of the die's physical noise source, less one (R152: never all zero). -/
opaque noise : Nat → Fin (340282366920938463463374607431768211454 + 1)

/-- Key number n: nonzero by construction (R152). -/
def freshKey (n : Nat) : BitVec 128 := BitVec.ofNat 128 ((noise n).val + 1)

/-- Die that carries Nareb port n (DESIGN CHOICE, log 39: the manual does not say which). -/
def portDie (n : Nat) : Nat := n % dieCount

/-- Free value: the hash of a module and a granule by which a port is chosen (R315). -/
opaque linkHash : Nat → Nat → Nat

/-- Free value: the next hop to which Nareb port n leads (R312, log 39). -/
opaque nextHop : Nat → Nat

/-- Free value: the raw blocks that a die has sent on its die-to-die ports up to a cycle (R229, R317): which transfers between dies are
bulk transfers the manual does not say (log 63). -/
opaque dieRaw : Nat → Nat → Nat

/-- Free value: the place that binding number n gives a rectangle, by its first block, in its order of choice (R279). -/
opaque placeKey : Nat → Nat → Nat

/-- Free value: byte i past the header of a save area, as snapshot number n leaves it (R306: the manual lays out the header
alone). -/
opaque savedByte : Nat → Nat → Byte

/-- Free value: the C4 code of an element to which its codebook offers no entry (R261). -/
opaque freeCode : Nat → BitVec 4

/-- Free value: byte i of flash bank b as it was before this model writes it (R328). -/
opaque flash : Nat → Nat → Byte

/-- Free value: the SHA3-256 of the vendor key fused at manufacture (R326). -/
opaque fusedVendorHash : BitVec 256

/-- Free value: the fused 32-byte device secret, which no register exposes (R327). -/
opaque deviceSecret : BitVec 256

/-- ML-DSA-44 verification of a signature over a digest under a public key (R326). The manual names the algorithm
and does not define it. -/
opaque mldsaVerify : List Byte → List Byte → BitVec 256 → Bool

/-- Byte i of the ML-DSA-44 public key generated from a seed (R327). -/
opaque mldsaPublicKey : BitVec 256 → Nat → Byte

/-- Byte i of the ML-DSA-44 signature of a digest by the pair generated from a seed (R327, Table 25.5). -/
opaque mldsaSignature : BitVec 256 → BitVec 256 → Nat → Byte

/-- Free value: the SHA3-256 of the defect map, its sites as (die, block, site) and its blocks as (die, block) (Table 25.5). The manual
does not lay the map out. -/
opaque defectMapDigest : List (Nat × Nat × Nat) → List (Nat × Nat) → BitVec 256

end Sys2Proof.Config
end

