-- ==== Sys2Proof/Machine/Num.lean ====
section
/-! DEFINITION. Number formats and exact arithmetic (R61-R77, R86-R90): decoding to exact values, one rounding, NaN rules,
the five flags, conversions and the four approximations. -/

namespace Sys2Proof.Machine

/-- The flags NV, DZ, OF, UF, NX in bits 4 to 0, as st[4:0] holds them (Table 13.2). -/
abbrev FlagBits := BitVec 5

/-- No flag. -/
def noFlag : FlagBits := 0
/-- Inexact. -/
def flagNX : FlagBits := 1
/-- Underflow. -/
def flagUF : FlagBits := 2
/-- Overflow. -/
def flagOF : FlagBits := 4
/-- Divide by zero. -/
def flagDZ : FlagBits := 8
/-- Invalid. -/
def flagNV : FlagBits := 16

/-- Width in bits of a type code (Table 6.1); 0 for none and for unassigned codes. -/
def tyWidth (t : Nat) : Nat :=
  match t with
  | 1 | 5 | 12 | 13 => 8
  | 2 | 6 | 10 | 11 => 16
  | 3 | 7 | 9 => 32
  | 4 | 8 => 64
  | 14 => 4
  | _ => 0

/-- Bytes of an element of a type (R62). -/
def tyBytes (t : Nat) : Nat := tyWidth t / 8

/-- I8 to I64. -/
def tySigned (t : Nat) : Bool := 1 ≤ t && t ≤ 4

/-- F32 to E5M2. -/
def tyFloat (t : Nat) : Bool := 9 ≤ t && t ≤ 13

/-- The payload of a value of type t from its low w bits (R62): sign extension for I8 to I64, zero for the others. -/
def extendTy (t v : Nat) : W64 :=
  let w := tyWidth t
  let x := v % 2 ^ w
  if tySigned t && 1 ≤ w && x.testBit (w - 1) then BitVec.ofNat 64 (x + (2 ^ 64 - 2 ^ w)) else BitVec.ofNat 64 x

/-- The value of the low w bits read as type t says: signed for I types, unsigned otherwise (R63). -/
def intOf (t : Nat) (p : W64) : Int :=
  let w := tyWidth t
  let x := p.toNat % 2 ^ w
  if tySigned t && 1 ≤ w && x.testBit (w - 1) then (x : Int) - (2 ^ w : Nat) else x

/-- The payload of an integer modulo 2^w (R63). -/
def ofInt (t : Nat) (v : Int) : W64 := extendTy t (v % (2 ^ tyWidth t : Nat)).toNat

/-- Least value of an integer type. -/
def intMin (t : Nat) : Int := if tySigned t then -((2 ^ (tyWidth t - 1) : Nat) : Int) else 0

/-- Greatest value of an integer type. -/
def intMax (t : Nat) : Int :=
  if tySigned t then ((2 ^ (tyWidth t - 1) : Nat) : Int) - 1 else ((2 ^ tyWidth t : Nat) : Int) - 1

/-- Clamps to the range of an integer type. -/
def clampTy (t : Nat) (v : Int) : Int := max (intMin t) (min (intMax t) v)

/-- A decoded floating-point value: exact (-1)^neg x m x 2^e, an infinity, or a NaN with its fraction aligned at the most
significant end of 23 bits (R64, R69). -/
inductive FVal where
  | fin (neg : Bool) (m : Nat) (e : Int)
  | inf (neg : Bool)
  | nan (neg sig : Bool) (frac : Nat)
  deriving DecidableEq, Repr

/-- Exponent bits (Table 6.2). -/
def expBits (t : Nat) : Nat := match t with | 9 | 11 => 8 | 10 | 13 => 5 | _ => 4
/-- Fraction bits F (Table 6.2). -/
def fracBits (t : Nat) : Nat := match t with | 9 => 23 | 10 => 10 | 11 => 7 | 13 => 2 | _ => 3
/-- Bias (Table 6.2). -/
def biasOf (t : Nat) : Nat := match t with | 9 | 11 => 127 | 10 | 13 => 15 | _ => 7

/-- Default NaN pattern with a sign (Table 6.2). -/
def defaultNaN (t : Nat) (neg : Bool) : Nat :=
  let s := boolNat neg <<< (tyWidth t - 1)
  match t with
  | 9 => s + 0x7FC00000 | 10 => s + 0x7E00 | 11 => s + 0x7FC0 | 13 => s + 0x7E | _ => s + 0x7F

/-- Infinity pattern; E4M3 has none. -/
def infBits (t : Nat) (neg : Bool) : Nat :=
  boolNat neg <<< (tyWidth t - 1) + (2 ^ expBits t - 1) <<< fracBits t

/-- Exponent of the smallest normal. -/
def eminOf (t : Nat) : Int := 1 - (biasOf t : Int)

/-- Largest finite magnitude as (m, e): m x 2^e (Table 6.2). -/
def maxFinite (t : Nat) : Nat × Int :=
  if t == 12 then (14, 5) else (2 ^ (fracBits t + 1) - 1, (biasOf t : Int) - fracBits t)

/-- Pattern of the largest finite magnitude. -/
def maxBits (t : Nat) (neg : Bool) : Nat :=
  boolNat neg <<< (tyWidth t - 1) + (if t == 12 then 0x7E else infBits t false - 1)

/-- Decodes a pattern to its exact value (R64). -/
def decodeF (t bits : Nat) : FVal :=
  let f := fracBits t
  let fr := bits % 2 ^ f
  let ex := bits / 2 ^ f % 2 ^ expBits t
  let neg := bits.testBit (tyWidth t - 1)
  if t == 12 then
    if ex == 15 && fr == 7 then .nan neg false 0x400000
    else if ex == 0 then .fin neg fr (eminOf t - f)
    else .fin neg (fr + 2 ^ f) ((ex : Int) - biasOf t - f)
  else if ex == 2 ^ expBits t - 1 then
    if fr == 0 then .inf neg else .nan neg (!fr.testBit (f - 1)) (fr <<< (23 - f))
  else if ex == 0 then .fin neg fr (eminOf t - f)
  else .fin neg (fr + 2 ^ f) ((ex : Int) - biasOf t - f)

/-- The pattern of a NaN in type t: quieted, the fraction truncated or zero-filled (R69). -/
def nanBits (t : Nat) (neg : Bool) (frac : Nat) : Nat :=
  if t == 12 then defaultNaN t neg
  else
    let f := fracBits t
    infBits t neg + ((frac >>> (23 - f)) ||| 2 ^ (f - 1)) % 2 ^ f

/-- Rounding modes (R72); DITH carries its threshold numerator over 32. -/
inductive RMode where
  | rne | rtz | rdn | rup
  | dith (tau : Nat)
  deriving DecidableEq, Repr

/-- The mode of an RM field of 0 to 3. -/
def rmodeOf (rm : Nat) : RMode := match rm with | 1 => .rtz | 2 => .rdn | 3 => .rup | _ => .rne

/-- Whether the magnitude n + r / d (0 < r < d) is rounded up to n + 1 (R73, R75). -/
def roundsUp (mode : RMode) (neg : Bool) (n r d : Nat) : Bool :=
  match mode with
  | .rne => d < 2 * r || (d == 2 * r && n % 2 == 1)
  | .rtz => false
  | .rdn => neg
  | .rup => !neg
  | .dith tau => if neg then !(tau * d < 32 * (d - r)) else tau * d < 32 * r

/-- m x 2^e in units of 2^q, rounded: the integer and whether it was inexact. -/
def roundUnits (mode : RMode) (neg : Bool) (m : Nat) (e q : Int) : Nat × Bool :=
  if q ≤ e then (m <<< (e - q).toNat, false)
  else
    let k := (q - e).toNat
    let n := m >>> k
    let r := m % 2 ^ k
    if r == 0 then (n, false) else (if roundsUp mode neg n r (2 ^ k) then n + 1 else n, true)

/-- Comparison a x 2^ea < b x 2^eb of magnitudes. -/
def magLt (a : Nat) (ea : Int) (b : Nat) (eb : Int) : Bool :=
  if ea ≤ eb then a < b <<< (eb - ea).toNat else a <<< (ea - eb).toNat < b

/-- Pattern of n x 2^q, where n < 2^(F + 1) or n x 2^q is a power of two on the grid of the type. -/
def packF (t : Nat) (neg : Bool) (n : Nat) (q : Int) : Nat :=
  let f := fracBits t
  let s := boolNat neg <<< (tyWidth t - 1)
  if n == 0 then s
  else
    let l := n.log2
    let ex := (l : Int) + q
    if ex < eminOf t then s + n <<< (q - (eminOf t - f)).toNat
    else
      let fr := if l ≤ f then n <<< (f - l) else n >>> (l - f)
      s + (ex + biasOf t).toNat <<< f + fr % 2 ^ f

/-- Result of a rounding: the pattern and the flags. -/
structure Rounded where
  bits : Nat
  flags : FlagBits
  deriving DecidableEq, Repr

/-- Rounds an exact nonzero value once to type t (R70, R73). -/
def roundFin (t : Nat) (mode : RMode) (neg : Bool) (m : Nat) (e : Int) : Rounded :=
  if m == 0 then ⟨packF t neg 0 0, noFlag⟩
  else
    let f := fracBits t
    let ex := (m.log2 : Int) + e
    let q := max (ex - f) (eminOf t - f)
    let ni := roundUnits mode neg m e q
    let mx := maxFinite t
    if magLt mx.1 mx.2 ni.1 q then
      let toMax := match mode with
        | .rne => false | .rtz => true | .rdn => !neg | .rup => neg | .dith _ => true
      ⟨if t == 12 || toMax then maxBits t neg else infBits t neg, flagOF ||| flagNX⟩
    else
      let tiny := decide (ex < eminOf t) &&
        (let u := roundUnits mode neg m e (ex - f)
         magLt u.1 (ex - f) 1 (eminOf t))
      let fl := if ni.2 then flagNX ||| (if tiny && ni.1 != 0 then flagUF else noFlag) else noFlag
      ⟨packF t neg ni.1 q, fl⟩

/-- Delivers a decoded value in type t: NaNs under R69, infinities, and one rounding of finite values. -/
def deliver (t : Nat) (mode : RMode) (v : FVal) : Rounded :=
  match v with
  | .fin neg m e => roundFin t mode neg m e
  | .inf neg => if t == 12 then ⟨defaultNaN t neg, flagNV⟩ else ⟨infBits t neg, noFlag⟩
  | .nan neg sig fr => ⟨nanBits t neg fr, if sig then flagNV else noFlag⟩

/-- The default NaN of type t with NV (R69: invalid operations). -/
def invalidF (t : Nat) : Rounded := ⟨defaultNaN t false, flagNV⟩

/-- Is a NaN. -/
def FVal.isNaN : FVal → Bool | .nan .. => true | _ => false
/-- Is a signalling NaN. -/
def FVal.isSig : FVal → Bool | .nan _ s _ => s | _ => false
/-- Is a zero. -/
def FVal.isZero : FVal → Bool | .fin _ 0 _ => true | _ => false
/-- Sign. -/
def FVal.neg : FVal → Bool | .fin n _ _ => n | .inf n => n | .nan n _ _ => n
/-- Sign changed. -/
def FVal.flip : FVal → FVal | .fin n m e => .fin (!n) m e | .inf n => .inf (!n) | .nan n s f => .nan (!n) s f
/-- Sign changed except on a NaN. -/
def FVal.flipNum (v : FVal) (b : Bool) : FVal := if b && !v.isNaN then v.flip else v
/-- Infinite. -/
def FVal.isInf : FVal → Bool | .inf _ => true | _ => false

/-- NV if some operand is a signalling NaN. -/
def sigFlag (vs : List FVal) : FlagBits := if vs.any FVal.isSig then flagNV else noFlag

/-- The first NaN operand, quieted, in type t, with NV for any signalling NaN (R69). -/
def nanResult (t : Nat) (vs : List FVal) : Option Rounded :=
  match vs.find? FVal.isNaN with
  | some (.nan n _ f) => some ⟨nanBits t n f, sigFlag vs⟩
  | _ => none

/-- Signed integer m x 2^e as (Int, e). -/
def signedM (neg : Bool) (m : Nat) : Int := if neg then -(m : Int) else m

/-- Exact sum of two finite values; the sign of an exact zero sum follows IEEE 754 (R68). -/
def addFin (mode : RMode) (n1 : Bool) (m1 : Nat) (e1 : Int) (n2 : Bool) (m2 : Nat) (e2 : Int) : FVal :=
  let e := min e1 e2
  let a := signedM n1 (m1 <<< (e1 - e).toNat)
  let b := signedM n2 (m2 <<< (e2 - e).toNat)
  let s := a + b
  if s == 0 then
    if n1 == n2 && m1 == 0 && m2 == 0 then .fin n1 0 e
    else .fin (mode == .rdn) 0 e
  else .fin (decide (s < 0)) s.natAbs e

/-- Exact sum of two non-NaN values; none where the operation is invalid. -/
def addF (mode : RMode) (a b : FVal) : Option FVal :=
  match a, b with
  | .fin n1 m1 e1, .fin n2 m2 e2 => some (addFin mode n1 m1 e1 n2 m2 e2)
  | .inf n1, .inf n2 => if n1 == n2 then some (.inf n1) else none
  | .inf n, _ => some (.inf n)
  | _, .inf n => some (.inf n)
  | x, _ => some x

/-- Exact product of two non-NaN values; none where the operation is invalid. -/
def mulF (a b : FVal) : Option FVal :=
  match a, b with
  | .fin n1 m1 e1, .fin n2 m2 e2 => some (.fin (n1 != n2) (m1 * m2) (e1 + e2))
  | .inf n1, x => if x.isZero then none else some (.inf (n1 != x.neg))
  | x, .inf n2 => if x.isZero then none else some (.inf (x.neg != n2))
  | x, _ => some x

/-- FADD (Table 9.4). -/
def faddOp (t : Nat) (mode : RMode) (a b : FVal) : Rounded :=
  match nanResult t [a, b] with
  | some r => r
  | none => match addF mode a b with
    | some v => deliver t mode v
    | none => invalidF t

/-- FMUL (Table 9.4). -/
def fmulOp (t : Nat) (mode : RMode) (a b : FVal) : Rounded :=
  match nanResult t [a, b] with
  | some r => r
  | none => match mulF a b with
    | some v => deliver t mode v
    | none => invalidF t

/-- FMA (Table 9.4, R69, R117): one rounding; NP and NC do not change a NaN. -/
def fmaOp (t : Nat) (mode : RMode) (np nc : Bool) (a b c : FVal) : Rounded :=
  let invProd := !a.isNaN && !b.isNaN && (mulF a b).isNone
  match nanResult t [a, b, c] with
  | some r => ⟨r.bits, if invProd then r.flags ||| flagNV else r.flags⟩
  | none => match mulF a b with
    | none => invalidF t
    | some p => match addF mode (p.flipNum np) (c.flipNum nc) with
      | some v => deliver t mode v
      | none => invalidF t

/-- Order of two non-NaN values: a < b as exact values, -0 = +0. -/
def ltF (a b : FVal) : Bool :=
  match a, b with
  | .inf n, .inf n' => n && !n'
  | .inf n, _ => n
  | _, .inf n => !n
  | .fin n1 m1 e1, .fin n2 m2 e2 =>
    let e := min e1 e2
    decide (signedM n1 (m1 <<< (e1 - e).toNat) < signedM n2 (m2 <<< (e2 - e).toNat))
  | _, _ => false

/-- Equality of two non-NaN values, -0 = +0. -/
def eqF (a b : FVal) : Bool := !ltF a b && !ltF b a

/-- FMIN and FMAX (R117): -0 below +0. -/
def fminmaxOp (t : Nat) (mode : RMode) (isMax : Bool) (a b : FVal) : Rounded :=
  match nanResult t [a, b] with
  | some r => r
  | none =>
    let aLess := ltF a b || (eqF a b && a.neg && !b.neg)
    deliver t mode (if aLess != isMax then a else b)

/-- FCMP (R118): the result and the flags. -/
def fcmpOp (cond : Nat) (a b : FVal) : Nat × FlagBits :=
  if a.isNaN || b.isNaN then
    (if cond == 1 || cond == 6 then 1 else 0,
     if a.isSig || b.isSig || (2 ≤ cond && cond ≤ 5) then flagNV else noFlag)
  else
    let r := match cond with
      | 0 => eqF a b | 1 => !eqF a b | 2 => ltF a b | 3 => !ltF b a | 4 => ltF b a | 5 => !ltF a b | _ => false
    (boolNat r, noFlag)

/-- The value is a value of type t: it is delivered unchanged. -/
def isValueOf (t : Nat) (v : FVal) : Bool :=
  match v with
  | .fin .. => (deliver t .rne v).flags == noFlag
  | .inf _ => t != 12
  | .nan .. => false

/-- FCLASS (R119): the mask of a pattern of type t. -/
def fclassOp (t bits : Nat) : Nat :=
  match decodeF t bits with
  | .inf n => if n then 1 else 128
  | .nan _ s _ => if s then 256 else 512
  | .fin n m e =>
    if m == 0 then (if n then 8 else 16)
    else
      let normal := decide (eminOf t ≤ (m.log2 : Int) + e)
      if n then (if normal then 2 else 4) else (if normal then 64 else 32)

/-- Float to integer (R74). -/
def toIntOp (t : Nat) (mode : RMode) (v : FVal) : W64 × FlagBits :=
  match v with
  | .nan .. => (0, flagNV)
  | .inf n => (ofInt t (if n then intMin t else intMax t), flagNV)
  | .fin n m e =>
    let u := roundUnits mode n m e 0
    let i := signedM n u.1
    if i < intMin t || intMax t < i then (ofInt t (if n then intMin t else intMax t), flagNV)
    else (ofInt t i, if u.2 then flagNX else noFlag)

/-- An integer as an exact value. -/
def ofIntF (i : Int) : FVal := .fin (decide (i < 0)) i.natAbs 0

/-! The approximations (R86-R90), on a finite nonzero F32 operand (-1)^neg x m x 2^e. -/

/-- Exponent e and fraction F of a finite nonzero value with 1 <= m / 2^23 < 2 (R86). -/
def normF (m : Nat) (e : Int) : Int × Nat :=
  let l := m.log2
  let m24 := if l ≤ 23 then m <<< (23 - l) else m >>> (l - 23)
  ((l : Int) + e, m24 - 2 ^ 23)

/-- Table of RCPA (R87). -/
def rcpT (j : Nat) : Nat := (2 ^ 32 + (128 + j)) / (2 * (128 + j))

/-- RCPA of a finite nonzero value: an F32 pattern (R87). -/
def rcpaFin (neg : Bool) (m : Nat) (e0 : Int) : Rounded :=
  let ef := normF m e0
  let i := ef.2 >>> 16
  let t := ef.2 % 2 ^ 16
  let g := rcpT i - (rcpT i - rcpT (i + 1)) * t / 2 ^ 16
  let big : Int := if g == 2 ^ 24 then -ef.1 else -ef.1 - 1
  if 127 < big then ⟨infBits 9 neg, flagOF ||| flagNX⟩
  else if big < -126 then ⟨packF 9 neg 0 0, flagUF ||| flagNX⟩
  else ⟨packF 9 neg g (-ef.1 - 24), if g * (2 ^ 23 + ef.2) == 2 ^ 47 then noFlag else flagNX⟩

/-- Integer square root by fuel: the largest r below 2^k with r x r <= n. -/
def isqrtLoop : Nat → Nat → Nat → Nat
  | 0, _, r => r
  | k + 1, n, r =>
    let c := r + 2 ^ k
    isqrtLoop k n (if c * c ≤ n then c else r)

/-- Table of RSQA (R88). -/
def rsqT (p j : Nat) : Nat := (isqrtLoop 30 (2 ^ 56 / (2 ^ p * (64 + j))) 0 + 1) / 2

/-- RSQA of a finite positive value (R88). -/
def rsqaFin (m : Nat) (e0 : Int) : Rounded :=
  let ef := normF m e0
  let p := (ef.1 % 2).toNat
  let half : Int := -((ef.1 - p) / 2)
  let i := ef.2 >>> 17
  let t := ef.2 % 2 ^ 17
  let g := rsqT p i - (rsqT p i - rsqT p (i + 1)) * t / 2 ^ 17
  ⟨packF 9 false g (half - 24),
   if g * g * (2 ^ 23 + ef.2) == 2 ^ (71 - p) then noFlag else flagNX⟩

/-- The largest c below lo + 2^k with (2 c - 1)^128 <= 2^(3072 + j), by bisection. -/
def expLoop : Nat → Nat → Nat → Nat
  | 0, _, c => c
  | k + 1, j, c =>
    let d := c + 2 ^ k
    expLoop k j (if (2 * d - 1) ^ 128 ≤ 2 ^ (3072 + j) then d else c)

/-- Table of EXP2A (R89). -/
def expT (j : Nat) : Nat := expLoop 24 j (2 ^ 23)

/-- EXP2A of a finite value (R89). -/
def exp2aFin (neg : Bool) (m : Nat) (e : Int) : Rounded :=
  let x := FVal.fin neg m e
  if !ltF x (.fin false 1 7) then ⟨infBits 9 false, flagOF ||| flagNX⟩
  else if ltF x (.fin true 63 1) then ⟨packF 9 false 0 0, flagUF ||| flagNX⟩
  else
    let n := signedM neg (roundUnits .rdn neg m e 0).1
    let g24 := signedM neg (roundUnits .rdn neg m e (-24)).1 - n * 2 ^ 24
    let gg := g24.toNat
    let i := gg >>> 17
    let t := gg % 2 ^ 17
    let g := expT i + (expT (i + 1) - expT i) * t / 2 ^ 17
    ⟨packF 9 false g (n - 23), if (roundUnits .rtz neg m e 0).2 then flagNX else noFlag⟩

/-- k further bits of log2 y, for y in [1, 2) held in units of 2^-128. -/
def logLoop : Nat → Nat → Nat → Nat
  | 0, _, acc => acc
  | k + 1, y, acc =>
    let z := (y * y) >>> 128
    if 2 ^ 129 ≤ z then logLoop k (z >>> 1) (2 * acc + 1) else logLoop k z (2 * acc)

/-- Table of LOG2A (R90). -/
def logT (j : Nat) : Nat :=
  if j == 128 then 2 ^ 24 else (logLoop 48 ((128 + j) <<< 121) 0 + 2 ^ 23) / 2 ^ 24

/-- LOG2A of a finite positive value (R90). -/
def log2aFin (m : Nat) (e0 : Int) : Rounded :=
  let ef := normF m e0
  let i := ef.2 >>> 16
  let t := ef.2 % 2 ^ 16
  let h : Nat := logT i + (logT (i + 1) - logT i) * t / 2 ^ 16
  let v : Int := ef.1 * 2 ^ 24 + (h : Int)
  ⟨(roundFin 9 .rne (decide (v < 0)) v.natAbs (-24)).bits, if ef.2 == 0 then noFlag else flagNX⟩

/-- The four approximations. -/
inductive Approx where
  | rcp | rsq | exp2 | log2
  deriving DecidableEq, Repr

/-- An approximation of an F32 value, as an F32 pattern (R86, Table 6.6). -/
def approxF32 (a : Approx) (v : FVal) : Rounded :=
  match v with
  | .nan n s f => ⟨nanBits 9 n f, if s then flagNV else noFlag⟩
  | .inf n =>
    match a with
    | .rcp => ⟨packF 9 n 0 0, noFlag⟩
    | .rsq => if n then invalidF 9 else ⟨packF 9 false 0 0, noFlag⟩
    | .exp2 => if n then ⟨packF 9 false 0 0, noFlag⟩ else ⟨infBits 9 false, noFlag⟩
    | .log2 => if n then invalidF 9 else ⟨infBits 9 false, noFlag⟩
  | .fin n m e =>
    match a with
    | .rcp => if m == 0 then ⟨infBits 9 n, flagDZ⟩ else rcpaFin n m e
    | .rsq => if m == 0 then ⟨infBits 9 n, flagDZ⟩ else if n then invalidF 9 else rsqaFin m e
    | .exp2 => exp2aFin n m e
    | .log2 => if m == 0 then ⟨infBits 9 true, flagDZ⟩ else if n then invalidF 9 else log2aFin m e

/-- RCPA, RSQA, EXP2A and LOG2A to type t (R120). -/
def approxOp (a : Approx) (t : Nat) (mode : RMode) (v : FVal) : Rounded :=
  match v with
  | .nan .. => deliver t mode v
  | _ =>
    let w := deliver 9 .rne v
    let r := approxF32 a (decodeF 9 w.bits)
    if t == 9 then ⟨r.bits, w.flags ||| r.flags⟩
    else
      match decodeF 9 r.bits with
      | .nan .. => ⟨defaultNaN t false, w.flags ||| r.flags⟩
      | x =>
        let d := deliver t mode x
        ⟨d.bits, w.flags ||| r.flags ||| d.flags⟩

/-- The S8E-scaled value of a code (R67); a NaN scale gives the default F32 NaN. -/
def scaleF (v : FVal) (e : Nat) : FVal :=
  if e == 255 then .nan false false 0x400000
  else match v with
    | .fin n m x => .fin n m (x + (e : Int) - 127)
    | w => w

/-- bitrev5 (R75). -/
def bitrev5 (x : Nat) : Nat :=
  (List.range 5).foldl (fun a i => a + (boolNat (x.testBit i)) <<< (4 - i)) 0

/-- The dither threshold numerator of position p at phase phi (R75). -/
def ditherTau (p phi : Nat) : Nat := bitrev5 ((p + phi) % 32)

/-- Spacing exponent of T at its largest finite magnitude: u_T = 2^k (R76). -/
def spacingExp (t : Nat) : Int := (maxFinite t).2

/-- Smallest k with M <= M_T x 2^k, for M = m x 2^e > 0 (R77). -/
def ceilLogRatio (t m : Nat) (e : Int) : Int :=
  let mx := maxFinite t
  let k := ((m.log2 : Int) + e) - ((mx.1.log2 : Int) + mx.2)
  if magLt mx.1 (mx.2 + k) m e then k + 1 else k

/-- Result of one noise-shaped conversion (R76, R77): code, new residue and flags. -/
structure Shaped where
  code : Nat
  res : Nat
  flags : FlagBits
  deriving DecidableEq, Repr

/-- NSH of one element with residue r (an F32 pattern) and block scale (none for SCALE = 0) (R76, R77). -/
def shapeOne (t : Nat) (x : FVal) (r : Nat) (scale : Option Nat) : Shaped :=
  let e := scale.getD 127
  let sum := faddOp 9 .rne x (decodeF 9 r)
  match decodeF 9 sum.bits with
  | .fin n m ex =>
    let sc : Int := 127 - (e : Int)
    let q := roundFin t .rne n m (ex + sc)
    let big := q.flags &&& flagOF != 0
    let code := if big then maxBits t n else q.bits
    let qv := match decodeF t code with | .fin n' m' e' => (n', m', e' - sc) | _ => (false, 0, 0)
    let rv := match addFin .rne n m ex (!qv.1) qv.2.1 qv.2.2 with
      | .fin n' m' e' =>
        let u := spacingExp t - sc
        if big && magLt 1 u m' e' then (n', 1, u) else (n', m', e')
      | _ => (false, 0, 0)
    let rb := roundFin 9 .rne rv.1 rv.2.1 rv.2.2
    ⟨code, rb.bits, sum.flags ||| q.flags⟩
  | y =>
    let q := if y.isNaN && scale.isSome then Rounded.mk (defaultNaN t y.neg) noFlag else deliver t .rne y
    ⟨q.bits, 0, sum.flags ||| q.flags⟩

end Sys2Proof.Machine
end

