-- ==== Sys2Proof/Machine/Order.lean ====
section
/-! DEFINITION. Order maps (R39-R46): canonical form, order-table entries, coordinates, refinement, the period and the
reference schedule of a reorder store (R50, R51), and the relations between maps that the typing rules use (R47,
Table 10.1). -/

namespace Sys2Proof.Machine

/-- One level of an order map (R39). The stride magnitude follows from RANK (R45). -/
structure Level where
  dim : Nat
  lane : Bool
  rag : Bool
  neg : Bool
  rank : Nat
  ext : Nat
  deriving DecidableEq, Repr

/-- An order map: its levels, outermost first. -/
abbrev OMap := List Level

/-- Product of a list of numbers. -/
def prodNat (l : List Nat) : Nat := l.foldl (· * ·) 1

namespace OMap

/-- Levels on one dimension. -/
def onDim (m : OMap) (d : Nat) : OMap := m.filter (·.dim == d)

/-- |s| of a level: the product of the extents of the lower ranks of its dimension (R40). -/
def mag (m : OMap) (l : Level) : Nat := prodNat (((m.onDim l.dim).filter (·.rank < l.rank)).map (·.ext))

/-- Lane count L (R39). -/
def lanes (m : OMap) : Nat := prodNat ((m.filter (·.lane)).map (·.ext))

/-- Cycle vectors of one tensor. -/
def cycles (m : OMap) : Nat := prodNat ((m.filter (!·.lane)).map (·.ext))

/-- Extent X_d of the tensor in dimension d (R40). -/
def extentOf (m : OMap) (d : Nat) : Nat := prodNat ((m.onDim d).map (·.ext))

/-- The innermost cycle level, if the map has one. -/
def innerCycle (m : OMap) : Option Level := (m.filter (!·.lane)).getLast?

/-- Positions of one run of the innermost cycle level (1 where there is no cycle level, R42). -/
def runLen (m : OMap) : Nat := match m.innerCycle with | some l => l.ext | none => 1

/-- The innermost cycle level is ragged. -/
def ragged (m : OMap) : Bool := match m.innerCycle with | some l => l.rag | none => false

/-- Runs of one tensor. -/
def runs (m : OMap) : Nat := m.cycles / m.runLen

/-- Some level is ragged. -/
def anyRag (m : OMap) : Bool := m.any (·.rag)

/-- Runs of the innermost cycle level make one run of the next level up: its extent, or all runs where none is left. -/
def outerRun (m : OMap) : Nat :=
  match (m.filter (!·.lane)).reverse with
  | _ :: l :: _ => l.ext
  | _ => 1

/-- Digits of n in a mixed radix whose radices stand outermost first. -/
def digits (radices : List Nat) (n : Nat) : List Nat :=
  (radices.foldr (fun r (acc : List Nat × Nat) => (acc.2 % r :: acc.1, acc.2 / r)) ([], n)).1

/-- The number with these digits. -/
def undigits (radices ds : List Nat) : Nat :=
  (radices.zip ds).foldl (fun n rd => n * rd.1 + rd.2) 0

/-- Counter of every level, in list order, at a lane and a cycle index (R40). -/
def counters (m : OMap) (lane cyc : Nat) : List Nat :=
  let dl := digits ((m.filter (·.lane)).map (·.ext)) lane
  let dc := digits ((m.filter (!·.lane)).map (·.ext)) cyc
  (m.foldl (fun (acc : List Nat × List Nat × List Nat) l =>
    if l.lane then (acc.1 ++ [acc.2.1.headD 0], acc.2.1.tail, acc.2.2)
    else (acc.1 ++ [acc.2.2.headD 0], acc.2.1, acc.2.2.tail)) ([], dl, dc)).1

/-- Coordinate in dimension d at given counters (R40). -/
def coord (m : OMap) (cs : List Nat) (d : Nat) : Nat :=
  ((m.zip cs).filter (·.1.dim == d)).foldl (fun a lc =>
    a + (if lc.1.neg then lc.1.ext - 1 - lc.2 else lc.2) * m.mag lc.1) 0

/-- Coordinates (x0, x1, x2, x3) of the element at a lane and a cycle index. -/
def coords (m : OMap) (lane cyc : Nat) : List Nat :=
  (List.range 4).map (m.coord (m.counters lane cyc))

/-- Removes the level at a position; the levels left on its dimension close their ranks (R47). -/
def removeAt (m : OMap) (i : Nat) : OMap :=
  match m[i]? with
  | none => m
  | some l => (m.eraseIdx i).map fun x => if x.dim == l.dim && l.rank < x.rank then { x with rank := x.rank - 1 } else x

/-- Position of the innermost cycle level. -/
def innerIdx (m : OMap) : Option Nat :=
  ((List.range m.length).filter fun i => (m[i]?.map (!·.lane)).getD false).getLast?

/-- One step of the canonical form: drop a non-ragged level of extent 1 (R44 step 1). -/
def dropStep (m : OMap) : Option OMap :=
  match (List.range m.length).find? fun i => (m[i]?.map fun l => l.ext == 1 && !l.rag).getD false with
  | some i => some (m.removeAt i)
  | none => none

/-- Two neighbours merge (R44 step 2). Their ranks must follow each other: a ragged level of bound 1 that stands between them on their
dimension keeps them apart, where the strides alone would let them merge and break R40 (log 64). -/
def mergeable (o i : Level) : Bool :=
  o.dim == i.dim && o.lane == i.lane && o.neg == i.neg && !o.rag && !i.rag && o.rank == i.rank + 1 &&
  o.ext * i.ext ≤ 65536

/-- One step of the canonical form: merge two neighbours (R44 step 2). -/
def mergeStep (m : OMap) : Option OMap :=
  match (List.range m.length).find? fun i =>
      match m[i]?, m[i + 1]? with
      | some o, some n => mergeable o n
      | _, _ => false with
  | some i =>
    match m[i]?, m[i + 1]? with
    | some o, some n => some ((m.removeAt i).set i { n with ext := o.ext * n.ext })
    | _, _ => none
  | none => none

/-- Applies the steps of R44 until none applies. -/
def canonLoop : Nat → OMap → OMap
  | 0, m => m
  | f + 1, m =>
    match m.dropStep with
    | some m' => canonLoop f m'
    | none =>
      match m.mergeStep with
      | some m' => canonLoop f m'
      | none => m

/-- The map `<d0[1]:1:c>`. -/
def unit : OMap := [⟨0, false, false, false, 0, 1⟩]

/-- Canonical form (R44). -/
def canon (m : OMap) : OMap :=
  if m == unit then m else
  match canonLoop 24 m with
  | [] => unit
  | m' => m'

/-- Ranks on every dimension are exactly 0 to n - 1 (R45). -/
def ranksOk (m : OMap) : Bool :=
  (List.range 4).all fun d =>
    let rs := (m.onDim d).map (·.rank)
    (List.range rs.length).all fun r => rs.contains r

/-- The limits of R39 and the ragged rule of R41. -/
def wf (m : OMap) : Bool :=
  1 ≤ m.length && m.length ≤ 6 && m.ranksOk &&
  m.all (fun l => l.dim < 4 && 1 ≤ l.ext && l.ext ≤ 65536 && m.mag l ≤ 65536) &&
  1 ≤ m.lanes && m.lanes ≤ 64 &&
  ((m.filter (!·.lane)).dropLast).all (!·.rag)

/-- The level in a level word (Table 4.3); none where its reserved bits are not zero. -/
def ofWord (w : W32) : Option Level :=
  if w.extractLsb' 0 8 = 0 then
    some { dim := (w.extractLsb' 30 2).toNat, lane := w.getLsbD 29, rag := w.getLsbD 28, neg := w.getLsbD 27,
           rank := (w.extractLsb' 24 3).toNat, ext := (w.extractLsb' 8 16).toNat + 1 }
  else none

/-- The map in an order-table entry of seven words; none where the entry is ill-formed (R45). -/
def ofEntry (ws : List W32) : Option OMap :=
  match ws with
  | h :: ls =>
    let n := h.toNat
    if n == 0 || 6 < n || ls.length != 6 || !(ls.drop n).all (· == 0) then none
    else
      match (ls.take n).mapM ofWord with
      | some m => if wf m && canon m == m then some m else none
      | none => none
  | [] => none

/-- The word of a level (Table 4.3). -/
def toWord (l : Level) : W32 :=
  BitVec.ofNat 32 (l.dim <<< 30 + boolNat l.lane <<< 29 + boolNat l.rag <<< 28 + boolNat l.neg <<< 27 + l.rank <<< 24 +
    (l.ext - 1) <<< 8)

/-- The seven words of a map (R45). -/
def toEntry (m : OMap) : List W32 :=
  BitVec.ofNat 32 m.length :: (m.map toWord ++ List.replicate (6 - m.length) 0)

/-! Typing relations (R47, Table 4.4, Table 10.1). Each compares canonical forms. -/

/-- Same map. -/
def same (a b : OMap) : Bool := a.canon == b.canon

/-- Changes the innermost cycle level. -/
def mapInner (m : OMap) (f : Level → Level) : OMap :=
  match m.innerIdx with
  | some i => match m[i]? with | some l => m.set i (f l) | none => m
  | none => m

/-- The input with its innermost cycle level ragged. -/
def raggedInner (m : OMap) : OMap := m.mapInner fun l => { l with rag := true }

/-- The input with its innermost cycle level removed. -/
def removeInner (m : OMap) : OMap :=
  match m.innerIdx with
  | some i => match m.removeAt i with | [] => unit | m' => m'
  | none => m

/-- The map up to the innermost cycle level's raggedness and bound. -/
def eraseInner (m : OMap) : OMap := m.mapInner fun l => { l with rag := true, ext := 1 }

/-- The innermost level of the list is a lane level. -/
def endsInLane (m : OMap) : Bool := match m.getLast? with | some l => l.lane | none => true

/-- The map with one cycle level of extent e appended innermost on a new dimension (R138, R139). -/
def append (m : OMap) (d e : Nat) : OMap := m ++ [⟨d, false, false, false, 0, e⟩]

/-- Some dimension the input does not name gives the result when one cycle level of extent e is appended. -/
def appends (m r : OMap) (e : Nat) : Bool :=
  (List.range 4).any fun d => (m.onDim d).isEmpty && (m.append d e).same r

/-- The extent of the appended level by which the result differs from the input, if it does so. -/
def appendedExt (m r : OMap) : Option Nat :=
  match r.canon.getLast? with
  | some l => if m.appends r l.ext then some l.ext else none
  | none => none

/-- Some lane level removed in whole or in one tree stage gives the result: the level keeps ceil(E / 2) (Table 4.4). -/
def laneReduces (m r : OMap) : Bool :=
  (List.range m.length).any fun i =>
    match m[i]? with
    | some l =>
      l.lane && 2 ≤ l.ext &&
      (if l.ext == 2 then
        (match m.removeAt i with | [] => unit | m' => m').same r
       else same (m.set i { l with ext := (l.ext + 1) / 2 }) r)
    | none => false

/-- Levels on an axis are non-ragged cycle levels of positive stride (R59). -/
def axisOk (m : OMap) (d : Nat) : Bool := (m.onDim d).all fun l => !l.lane && !l.rag && !l.neg

/-- Where elements of a map may be absent: the runs of a ragged innermost cycle level, and the ragged lane levels (R41). -/
def raggedness (m : OMap) : Option Nat × List (Nat × Nat × Nat) :=
  (if m.ragged then some m.runLen else none, (m.filter fun l => l.lane && l.rag).map fun l => (l.dim, m.mag l, l.ext))

/-- Both maps list the same elements in the same cycle order on every lane, and the same ones of them may be absent, for MARK
(Table 10.1). -/
def listsSame (a b : OMap) : Bool :=
  a.raggedness == b.raggedness &&
  a.lanes == b.lanes && a.cycles == b.cycles && (List.range 4).all (fun d => a.extentOf d == b.extentOf d) &&
  (List.range a.lanes).all fun l => (List.range a.cycles).all fun c => a.coords l c == b.coords l c

end OMap

/-! Refinement, period and schedule (R46, R50, R51). -/

/-- A level of a refined map, with its stride magnitude. -/
structure Piece where
  dim : Nat
  lane : Bool
  rag : Bool
  neg : Bool
  s : Nat
  e : Nat
  deriving DecidableEq, Repr

namespace OMap

/-- Boundaries of dimension d in a map: |s| and |s| x E (R46 step 1). -/
def bounds (m : OMap) (d : Nat) : List Nat :=
  (m.onDim d).foldl (fun acc l => acc ++ [m.mag l, m.mag l * l.ext]) []

/-- Splits [lo, hi) at ascending boundaries: the pieces' (stride, extent), smallest first; none where a ratio is not an
integer. -/
def splitAt : List Nat → Nat → Nat → Option (List (Nat × Nat))
  | [], lo, hi => if hi % lo == 0 then some [(lo, hi / lo)] else none
  | b :: bs, lo, hi =>
    if lo < b && b < hi then
      if b % lo == 0 then (splitAt bs b hi).map ((lo, b / lo) :: ·) else none
    else splitAt bs lo hi

/-- Ascending insertion without repeats. -/
def insertAsc (n : Nat) : List Nat → List Nat
  | [] => [n]
  | x :: xs => if n < x then n :: x :: xs else if n == x then x :: xs else x :: insertAsc n xs

/-- Pieces of one level at the boundaries bs, largest stride outermost (R46 step 2). -/
def pieces (m : OMap) (bs : List Nat) (l : Level) : Option (List Piece) :=
  match splitAt bs (m.mag l) (m.mag l * l.ext) with
  | some ps =>
    if l.rag && ps.length != 1 then none
    else some (ps.reverse.map fun p => ⟨l.dim, l.lane, l.rag, l.neg, p.1, p.2⟩)
  | none => none

/-- A map refined at the boundaries of a pair of maps. -/
def refineAt (m a b : OMap) : Option (List Piece) :=
  (m.mapM fun l => m.pieces ((a.bounds l.dim ++ b.bounds l.dim).foldr insertAsc []) l).map (·.flatten)

/-- The common refinement of two maps (R46). -/
def refine (a b : OMap) : Option (List Piece × List Piece) :=
  match refineAt a a b, refineAt b a b with
  | some pa, some pb =>
    let ra := pa.filter (·.rag)
    let rb := pb.filter (·.rag)
    let m (x y : Piece) := x.dim == y.dim && x.s == y.s && x.neg == y.neg && x.e == y.e
    if pa.length ≤ 12 && pb.length ≤ 12 && ra.all (fun x => rb.any (m x)) && rb.all (fun x => ra.any (m x)) then
      some (pa, pb)
    else none
  | _, _ => none

end OMap

/-- Sets aside the common outer cycle levels of two refined maps (R50). -/
def stripOuter : List Piece → List Piece → List Piece × List Piece
  | x :: xs, y :: ys =>
    if !x.lane && !y.lane && x.dim == y.dim && x.s == y.s && x.neg == y.neg && x.e == y.e && x.rag == y.rag then
      stripOuter xs ys
    else (x :: xs, y :: ys)
  | xs, ys => (xs, ys)

/-- Elements in a list of pieces. -/
def pieceSize (ps : List Piece) : Nat := prodNat (ps.map (·.e))

/-- Lane count of a list of pieces. -/
def pieceLanes (ps : List Piece) : Nat := prodNat ((ps.filter (·.lane)).map (·.e))

/-- Coordinate digits (dim, stride, digit) of the element at a lane and a cycle index of refined pieces. A piece of extent 1, as a
ragged level of bound 1 is, has no digit of its own: its stride may be that of the next piece. -/
def pieceDigits (ps : List Piece) (lane cyc : Nat) : List (Nat × Nat × Nat) :=
  let ls := ps.filter (·.lane)
  let cs := ps.filter (!·.lane)
  let dl := OMap.digits (ls.map (·.e)) lane
  let dc := OMap.digits (cs.map (·.e)) cyc
  ((ls.zip dl ++ cs.zip dc).filter (·.1.e != 1)).map fun pd => (pd.1.dim, pd.1.s, if pd.1.neg then pd.1.e - 1 - pd.2 else pd.2)

/-- Lane and cycle index in pieces ps of the element with these digits. -/
def pieceIndex (ps : List Piece) (ds : List (Nat × Nat × Nat)) : Nat × Nat :=
  let dig (p : Piece) : Nat :=
    if p.e == 1 then 0
    else match ds.find? fun d => d.1 == p.dim && d.2.1 == p.s with
      | some d => if p.neg then p.e - 1 - d.2.2 else d.2.2
      | none => 0
  let ls := ps.filter (·.lane)
  let cs := ps.filter (!·.lane)
  (OMap.undigits (ls.map (·.e)) (ls.map dig), OMap.undigits (cs.map (·.e)) (cs.map dig))

/-- A period of a store: producer and consumer pieces, producer cycle vectors C in it (R50). -/
structure Period where
  prod : List Piece
  cons : List Piece
  deriving DecidableEq, Repr

namespace Period

/-- Lanes. -/
def lanes (p : Period) : Nat := pieceLanes p.prod

/-- Size P. -/
def size (p : Period) : Nat := pieceSize p.prod

/-- Cycle vectors C in one period. -/
def cyc (p : Period) : Nat := p.size / p.lanes

/-- Producer (lane, cycle vector) of the element on consumer lane l in consumer vector j, both vectors counted from the
start of the stream. -/
def source (p : Period) (l j : Nat) : Nat × Nat :=
  let lk := pieceIndex p.prod (pieceDigits p.cons l (j % p.cyc))
  (lk.1, j / p.cyc * p.cyc + lk.2)

/-- Producer cycle vectors that hold the elements of consumer vector j, lane by lane. -/
def sources (p : Period) (j : Nat) : List Nat := (List.range p.lanes).map fun l => (p.source l j).2

/-- s_j from s_(j-1) + 1 (0 for j = 0): the recursion of R51. -/
def issueTime (p : Period) (next j : Nat) : Nat := (p.sources j).foldl (fun m k => max m (k + 1)) next

/-- The reference times s_j of n consumer vectors from j on. -/
def issueTimes (p : Period) : Nat → Nat → Nat → List Nat
  | 0, _, _ => []
  | n + 1, j, next =>
    let s := p.issueTime next j
    s :: p.issueTimes n (j + 1) (s + 1)

/-- N: the largest count of elements present at one time (R51). Vector k arrives at k + 1 and every element of consumer
vector j leaves after s_j, so the count at s_j is L x (vectors arrived by s_j) less L x j. -/
def minSize (p : Period) : Nat :=
  let ss := p.issueTimes (2 * p.cyc) 0 0
  (ss.foldl (fun (acc : Nat × Nat) s =>
    (acc.1 + 1, max acc.2 (p.lanes * (min s (2 * p.cyc) - acc.1)))) (0, 0)).2

end Period

end Sys2Proof.Machine
end

