-- ==== Sys2Proof/Machine/State.lean ====
section
/-! DEFINITION. The state of a VX-250 module as plain data: dies, regions with their controllers and cells, islands and
their commands, requests to memory, tasks and launch units, fault queues, links, apertures, start, firmware and power
registers, and the events still due. Collections that the module holds in full are kept sparse: a member that is not
listed has the value its default definition gives. -/

namespace Sys2Proof.Machine

/-! Tokens. -/

/-- Token kinds in the order of their codes 0 to 7 (R10). -/
inductive Kind where
  | val | eor | eot | hdr | ctl | swp | rsd | bly
  deriving DecidableEq, Repr

/-- Kind of a code (R10). -/
def Kind.ofCode (c : Nat) : Kind :=
  match c with
  | 0 => .val | 1 => .eor | 2 => .eot | 3 => .hdr | 4 => .ctl | 5 => .swp | 6 => .rsd | _ => .bly

/-- Code of a kind (R10). -/
def Kind.code : Kind → Nat
  | .val => 0 | .eor => 1 | .eot => 2 | .hdr => 3 | .ctl => 4 | .swp => 5 | .rsd => 6 | .bly => 7

/-- A capability with its tag (R156). -/
structure Cap where
  bits : BitVec 128
  tag : Bool
  deriving DecidableEq, Repr

/-- The capability of an empty k register: tag clear, all bits zero (Table 2.3). -/
def Cap.none : Cap := ⟨0, false⟩

/-- Class of an accumulator entry (R78). -/
inductive Cls where
  | fin | pinf | ninf | nan
  deriving DecidableEq, Repr

/-- The hidden part of a slot: nothing, a capability and the k register it goes to (R112), a hand-over (R244), the monitor a MONW armed (R193), or the
cell that sent a command word (R233, R238) or the SWP of a TLD (R144). -/
inductive Hidden where
  | none
  | cap (n : Nat) (c : Cap)
  | hand (anchor : BitVec 16) (hi : W64) (cls : Cls)
  | mon (n : Nat)
  | emit (cell : Nat)
  deriving DecidableEq, Repr

/-- A token (R21) in a slot, with the cycle in which it was sent: it is valid from the cycle after (R13). home marks a done token of
scope REGION or wider, whose receiver reads from home (R175). -/
structure Token where
  kind : Kind
  pay : W64
  void : Bool
  hid : Hidden
  born : Nat
  home : Bool
  deriving DecidableEq, Repr

/-- A token with no hidden part. -/
def Token.plain (k : Kind) (v : W64) : Token := ⟨k, v, false, .none, 0, false⟩

/-- An input port at run time: its slots (R22), its decoder (R66), its run (R41) and what it gave up this cycle (R23). -/
structure Port where
  q : List Token
  /-- Last HDR consumed (R66). -/
  hdr : Option W64
  /-- Positions of the open run of a ragged level (R41). -/
  run : Nat
  /-- Non-void VALs of the open block of 32, and its scale (R66). -/
  blk : Nat
  scale : Nat
  /-- Tokens consumed in cycle popAt: they still fill their slots at the start of that cycle (R23). -/
  popped : Nat
  popAt : Nat
  /-- Cycle in which a SWP of a TLD was last consumed, plus 1: its slot still holds it in that cycle (R144). -/
  swpAt : Nat
  deriving DecidableEq, Repr

/-- An empty port. -/
def Port.empty : Port := ⟨[], .none, 0, 0, 0, 0, 0, 0⟩

/-- The bytes of a 64-byte line and the capability tags of its four 16-byte units (R159, R166). -/
structure LineData where
  bytes : List Byte
  tags : List Bool
  deriving DecidableEq, Repr

/-! Cells. -/

/-- Fields and initial settings of a cell (R32, Table 8.2). -/
structure CellCfg where
  op : BitVec 40
  ins : List (BitVec 10)
  outs : List (BitVec 32)
  mode : BitVec 10
  leader : BitVec 14
  lanes : BitVec 48
  keep : BitVec 12
  memattr : BitVec 10
  consts : List W64
  /-- Argument slot bound to each of k0 to k3. -/
  binds : List (Option Nat)
  /-- Initial register values by register code (Table 8.7), residues (Table 8.8) and tile elements (Table 8.9). -/
  rinit : List (Nat × W64)
  sinit : List (Nat × W32)
  tinit : List (Nat × W64)
  /-- Initial tokens and start mark of each input port. -/
  toks : List (List Token)
  starts : List Bool
  /-- Ports whose token list this CFG has already replaced (R32). -/
  tokNew : List Bool
  /-- Fields written by this CFG with the position of the command that last wrote each (R48). -/
  wrote : List (Nat × Nat)
  deriving DecidableEq, Repr

/-- Every field at its After reset value (Table 8.2). -/
def CellCfg.reset : CellCfg :=
  { op := 0, ins := List.replicate 4 0, outs := List.replicate 4 0, mode := 0, leader := 0, lanes := 0, keep := 0,
    memattr := 0, consts := List.replicate 16 0, binds := List.replicate 4 .none, rinit := [], sinit := [], tinit := [],
    toks := List.replicate 4 [], starts := List.replicate 4 false, tokNew := List.replicate 4 false, wrote := [] }

/-- A result that a cell sends in its turn: it waits for request req (0 for none) and leaves no earlier than cycle due, on
the destinations of mask. -/
structure Result where
  tok : Token
  mask : Nat
  req : Nat
  due : Nat
  /-- The request has landed (R29). -/
  ready : Bool
  deriving DecidableEq, Repr

/-- A generation in progress: LDS pass, CTR, TBCAST (R116, R147, R184). -/
structure Gen where
  base : Int
  /-- Next element to issue or send. -/
  next : Nat
  deriving DecidableEq, Repr

/-- One entry of the quantiser's buffer: the token, its exact value's source bits and whether its block has closed
(R125). -/
structure QItem where
  tok : Token
  /-- Source format of the element, or 31 for a hand-over element (R244). -/
  fmt : Nat
  /-- Scale of the closed block; none while the block is open. -/
  e : Option Nat
  /-- Earliest cycle in which it may leave. -/
  due : Nat
  deriving DecidableEq, Repr

/-- Registers and run-time state of a cell (Table 2.3, R29-R31, R126). -/
structure CellRt where
  l0 : W64
  l1 : W64
  p : List W64
  g : List W64
  k : List Cap
  ta : List W64
  tl : List W64
  sreg : List W32
  ports : List Port
  /-- Register codes with a return outstanding, one entry per return; 64 stands for tl (R29). -/
  pending : List Nat
  /-- Local memory bytes that are not zero (R31), by offset. -/
  lmem : List (Nat × Byte)
  /-- 64-bit words whose full/empty bit is full (R31). -/
  full : List Nat
  /-- The cell fires no more in the pitch (R24, R224, R297). -/
  stopped : Bool
  /-- A scout whose state a pre-emption has discarded (R35). -/
  lost : Bool
  /-- A page fault froze it: returns of requests from this one on are discarded (R297). -/
  faultReq : Option Nat
  firings : Nat
  perfFirings : Nat
  perfStalls : Nat
  /-- Cycle of the last firing, plus 1. -/
  fired : Nat
  /-- First cycle in which a DIV or REM fires on values again (R108). -/
  busy : Nat
  /-- Dither phase and position (R75). -/
  phi : BitVec 5
  dpos : Nat
  /-- Position in the order followed: run index and position in the run (R123, R131, R184). -/
  runIdx : Nat
  runPos : Nat
  /-- Runs, or values, counted toward a marker of the result order (R14, R135, R129). -/
  outCnt : Nat
  /-- Phase counter of a form that acts over several cycles: emitter step, LOADS and SAVE, copies, groups, codebook entry,
  rows (R18, R128, R129, R138, R150, R151). -/
  phase : Nat
  /-- Set once the form has begun its tensor: header sent, counter loaded, trigger taken (R129, R144, R145, R150). -/
  begun : Bool
  /-- Running values of RED, SCAN and TDOT (R143, R146), and held words of ADD128 (R151). -/
  acc : W64
  acc2 : W64
  exact : FVal
  exactNV : Bool
  /-- Tokens still to be sent, one per cycle, before anything is consumed, with their destinations. -/
  owed : List (Nat × Token)
  gen : Option Gen
  /-- Results in order, landed or not (R27, R181). -/
  results : List Result
  /-- The base term P of a tensor (R183) once taken. -/
  base : Option Int
  /-- The after port's CTL for this tensor has been consumed (R179). -/
  after : Bool
  /-- Done tokens due: each waits for the requests numbered below it (R182). -/
  done : List Nat
  /-- Quantiser buffer (R125). -/
  qbuf : List QItem
  /-- Monitor a WAITW waits on (R193). -/
  waiting : Option Nat
  /-- Lines of a stream port's line buffer (R186), oldest first: line key and data. -/
  lines : List (Nat × LineData)
  /-- Number of the first request that the FENCE's head token does not wait for (R191). -/
  fence : Option Nat
  /-- Cycle in which an EOT was last sent from the results, plus 1 (R184). -/
  eotAt : Nat
  deriving DecidableEq, Repr

/-- Registers at pitch start (Table 2.3) with everything else empty. -/
def CellRt.reset : CellRt :=
  { l0 := 0, l1 := 0, p := List.replicate 8 0, g := List.replicate 32 0, k := List.replicate 4 .none,
    ta := List.replicate 16 0, tl := List.replicate 16 0, sreg := List.replicate 64 0,
    ports := List.replicate 4 .empty, pending := [], lmem := [], full := [], stopped := false, lost := false, faultReq := .none,
    firings := 0, perfFirings := 0, perfStalls := 0, fired := 0, busy := 0, phi := 0, dpos := 0, runIdx := 0,
    runPos := 0, outCnt := 0, phase := 0, begun := false, acc := 0, acc2 := 0, exact := .fin false 0 0,
    exactNV := false, owed := [], gen := .none, results := [], base := .none, after := false, done := [], qbuf := [],
    waiting := .none, lines := [], fence := .none, eotAt := 0 }

/-- A cell. -/
structure Cell where
  cfg : CellCfg
  rt : CellRt
  deriving DecidableEq, Repr

/-- A cell of a region just formed (R95). -/
def Cell.reset : Cell := ⟨.reset, .reset⟩

/-! Reorder stores (R49-R57). -/

/-- One lane of a store: producer cell and destination, consumer cell and port. -/
structure LaneLink where
  pcell : Nat
  pout : Nat
  ccell : Nat
  cin : Nat
  deriving DecidableEq, Repr

/-- An element that a store holds: producer vector and lane, its low bits and its void flag, and the monitor that goes with a value
of MONW (R193). -/
structure StoreEl where
  vec : Nat
  lane : Nat
  bits : W64
  void : Bool
  hid : Hidden
  deriving DecidableEq, Repr

/-- A reorder store. -/
structure Store where
  lanes : List LaneLink
  /-- Canonical maps of the two orders as declared, and the maps at the JOIN bounds. -/
  pmap : OMap
  cmap : OMap
  pjoin : OMap
  cjoin : OMap
  period : Period
  width : Nat
  /-- Count of granules, the granules of the lane-0 consumer cell's local memory that a near store holds, and whether the
  store is far (R52). -/
  granules : Nat
  grans : List Nat
  far : Bool
  /-- Slots of the producer links, lane by lane (R22). -/
  inq : List Port
  held : List StoreEl
  /-- Producer vectors admitted, consumer vectors issued, and the least reference time of the next issue (R56). -/
  admitted : Nat
  issued : Nat
  next : Nat
  /-- Position in the run of the producer stream, and positions of a run closed early still to be filled with voids (R55). -/
  inRun : Nat
  pad : Nat
  /-- A done token of scope REGION or wider has come in: what goes out counts as such (R175). -/
  home : Bool
  /-- A consumer EOR is due; HDR payloads by lane with the consumer vector ahead of which they go; EOT seen. -/
  owedEor : Bool
  hdrs : List (Nat × List W64)
  eot : Bool
  stopped : Bool
  deriving DecidableEq, Repr

/-! Controllers and regions. -/

/-- A SPAWN or GRPL in progress: the w register that it writes, the packets still to be accepted with the tags of their five capabilities,
the task queue, the packets enqueued so far, and the object and offset of the packet it read (R211, R212). -/
structure SpawnRun where
  wd : Nat
  left : List (BitVec 2048)
  tags : List Bool
  queue : Nat
  count : Nat
  oid : Nat
  ofs : Nat
  deriving DecidableEq, Repr

/-- What a controller is doing between instructions. -/
inductive Ctl where
  /-- May issue from cycle at on. -/
  | ready (issueAt : Nat)
  /-- Applying a command stream (R203). -/
  | cfg
  /-- Waiting at a BELAY that issued in this cycle (R206). -/
  | belay (issued : Nat)
  /-- Waiting at a WAITC: w register, deadline, whether a pitch ran (R207). -/
  | waitc (wd : Nat) (deadline : Nat)
  /-- A JOIN completes in a cycle (R209). -/
  | join (store : Store) (doneAt : Nat)
  /-- SPAWN or GRPL waits, with what it read when it issued (R211, R212, R226). -/
  | spawn (x : SpawnRun)
  /-- Waiting for the stage scheduler (R285). -/
  | stage
  /-- Waiting for writes or engine commands at HALT (R218). -/
  | halt
  /-- Frozen by a page fault of its own access (R297). -/
  | fault
  /-- Returned its region. -/
  | halted
  deriving DecidableEq, Repr

/-- Why a region's master is frozen (R296, R300). -/
inductive Frozen where
  | no
  /-- A violation froze it. -/
  | violation
  /-- Its controller is stopped at a system-queue trap (R220). -/
  | sysTrap
  /-- It waits on a service request (R219). -/
  | service
  /-- It waits at the breakpoint of a cell (R225). -/
  | brk (cell : Nat)
  deriving DecidableEq, Repr

/-- What a REPEAT or BMASK covers (R92). -/
inductive Cover where
  | none
  | rep (stride count : Nat)
  | mask (r0 r1 c0 c1 : Nat)
  deriving DecidableEq, Repr

/-- A CFG in progress (R91-R94, R203). -/
structure CfgRun where
  off : Nat
  count : Nat
  pos : Nat
  base : Nat
  cover : Cover
  /-- Prefix words, oldest first. -/
  exts : List (BitVec 30)
  /-- Cycle from which the next command is applied. -/
  at_ : Nat
  /-- pc of the CFG. -/
  pc : Nat
  deriving DecidableEq, Repr

/-- A trap recorded by a cell (R224). -/
structure CellTrap where
  cell : Nat
  /-- TCODE. -/
  code : Nat
  /-- Goes to the system fault queue as ILLEGAL_OP with this port (R24); none for the trap vector. -/
  illegal : Option Nat
  deriving DecidableEq, Repr

/-- An engine fault recorded for the BELAY, with the cycle in which it was found and its rank in it (R206, R294), and the source, TSEQ and
words 2 to 7 of its record (R293). -/
structure EngFault where
  code : Nat
  vec : Bool
  found : Nat
  rank : Nat
  src : Nat
  tseq : Nat
  words : List Nat
  deriving DecidableEq, Repr

/-- A stage (R213, R282). -/
structure Stage where
  num : Nat
  /-- Entry offset; none until it is declared. -/
  entry : Option Nat
  inq : Option (Nat × Nat)
  outq : Option (Nat × Nat)
  exhausted : Bool
  deriving DecidableEq, Repr

/-- A region with its controller (R20, R199). -/
structure Region where
  die : Nat
  /-- Controller block: the lowest-numbered block. -/
  rblk : Nat
  width : Nat
  height : Nat
  /-- Task bound, by sequence number, and the region's number in it (R279). -/
  seq : Nat
  num : Nat
  pc : Nat
  w : List W64
  i : List W32
  ks : Cap
  st : W64
  /-- Call depth D and the innermost frames, innermost first (R215). -/
  depth : Nat
  frames : List W64
  ctl : Ctl
  frozen : Frozen
  /-- Cells stopped by a trap handler entered for a cell's trap (R220). -/
  cellsHeld : Bool
  cells : List (Nat × Cell)
  running : Bool
  /-- First cycle of the run, pass count and passes delivered (R205). -/
  runAt : Nat
  passes : Nat
  passNext : Nat
  /-- Last cycle in which anything of the pitch acted (R17). -/
  lastAct : Nat
  cfg : Option CfgRun
  /-- Code a RUN traps with after a faulty CFG (R94). -/
  runTrap : Option Nat
  /-- Order table in effect (R342): an ill-formed entry is none. -/
  orders : List (Option OMap)
  stores : List Store
  cellTraps : List CellTrap
  engFaults : List EngFault
  /-- Extents to free at the belay: arena object, base, top (R155). -/
  freeList : List (Cap × Nat × Nat)
  /-- Stage the region is in (R283). -/
  stage : Option Nat
  /-- BRK cell at whose breakpoint the region stops at the next cycle boundary (R225). -/
  brkDue : Option Nat
  /-- CTLW writes due: w register and value (R226). -/
  ctlw : List (Nat × W64)
  /-- Cycle of the last CFG, for PERF (R229). -/
  cfgAt : Nat
  /-- Stopped at a boundary by a pre-emption in progress (R304, R305). -/
  held : Bool
  deriving DecidableEq, Repr

/-! Memory requests. -/

/-- What an access record says of the access (Table 22.3). -/
structure Access where
  cell : Nat
  port : Nat
  acc : Nat
  order : Nat
  pitch : Bool
  oid : Nat
  ofs : Nat
  rights : Nat
  tstate : Nat
  base : Nat
  strides : List Int
  pos : Nat
  deriving DecidableEq, Repr

/-- Kinds of request. -/
inductive ReqKind where
  | load | store | capLoad | capStore | tile | prefetch | atom | ldacq | strel | monw | futnew | futres | futreg | futget
  | keyRead
  deriving DecidableEq, Repr

/-- Where a request stands. -/
inductive ReqStage where
  /-- Not yet performed. -/
  | queued
  /-- Sent to another module over a Nareb port (R160). -/
  | remote
  /-- Performed at home; a load has not landed, a write has not been acknowledged. -/
  | performed
  /-- Met a violation at its memory tile: it is made afresh when its region is released (R296). -/
  | faulted
  deriving DecidableEq, Repr

/-- An outstanding request of a cell (R181). -/
structure Req where
  id : Nat
  kind : ReqKind
  die : Nat
  rblk : Nat
  cell : Nat
  port : Nat
  cap : Cap
  /-- Object offset and size in bytes. -/
  ofs : Nat
  size : Nat
  /-- Data to write, low bits first; for ATOM operand b. -/
  data : W64
  data2 : W64
  capData : Cap
  /-- ATOM form; scope; colour mask waited for; colour of a write. -/
  form : Nat
  scope : Nat
  mask : Nat
  colour : Nat
  acq : Bool
  rel : Bool
  ty : Nat
  /-- Register code that takes the return, or 0. -/
  rdst : Nat
  stage : ReqStage
  issued : Nat
  /-- Value returned. -/
  value : W64
  capValue : Cap
  tileValue : List W64
  stride : Nat
  void : Bool
  scout : Bool
  /-- Accepted by the issuing tile: acknowledged at BLOCK scope (R175). -/
  accepted : Bool
  /-- What a fault record says of it (R292). -/
  acc : Access
  deriving DecidableEq, Repr

/-! Islands. -/

/-- An operand slot with its descriptor (R236). -/
structure Slot where
  owner : Nat
  loaded : Bool
  role : Nat
  fmt : Nat
  scaled : Bool
  cb : Nat
  book : List Nat
  exmax : Option Int
  /-- Bytes and scales that are not zero, by offset. -/
  bytes : List (Nat × Byte)
  scales : List (Nat × Byte)
  deriving DecidableEq, Repr

/-- A slot that nobody holds. -/
def Slot.empty : Slot := ⟨0, false, 0, 0, false, 0, [], .none, [], []⟩

/-- An accumulator entry: the 136-bit sum T = X:S and the class (R78). -/
structure Entry where
  t : BitVec 136
  cls : Cls
  deriving DecidableEq, Repr

/-- An accumulator tile (R78). -/
structure Tile where
  owner : Nat
  anchor : Option (BitVec 16)
  /-- Entries that are not finite zero, by 64 m + n, ascending. -/
  ents : List (Nat × Entry)
  deriving DecidableEq, Repr

/-- A tile that nobody holds: unset and zero. -/
def Tile.empty : Tile := ⟨0, .none, []⟩

/-- A matrix island (R230). -/
structure MIsland where
  slots : List (Nat × Slot)
  tiles : List (Nat × Tile)
  /-- Product table of 256 exact B16 products, as (sign, magnitude, exponent) or a class (R240). -/
  table : List FVal
  deriving DecidableEq, Repr

/-- An island with nothing in it. -/
def MIsland.empty : MIsland := ⟨[], [], []⟩

/-- Slots of one island port and lane of one region (R231). -/
structure IPort where
  die : Nat
  /-- 2 matrix island, 3 streamer island. -/
  target : Nat
  isl : Nat
  rblk : Nat
  port : Nat
  lane : Nat
  q : List Token
  popped : Nat
  popAt : Nat
  /-- Word 0 waiting for its pair, with its emitting cell (R102). -/
  word0 : Option (W64 × Nat)
  /-- The port is frozen by a violation (R253). -/
  frozen : Bool
  deriving DecidableEq, Repr

/-- Progress of a command. -/
inductive CmdStage where
  | decoded
  | running
  /-- A multiplication stopped at the end of a step by a FREEZE (R247). -/
  | parked
  /-- MLOAD after its EOT (R238). -/
  | commit
  /-- After a fault: an MLOAD still consumes through its EOT (R238); a streamer command waits for its ports' release (R253). -/
  | draining
  | complete
  deriving DecidableEq, Repr

/-- What an MLOAD has taken from one lane of its data port (R238). -/
structure LaneRd where
  /-- Cycle index of the next element, and VALs of the open run. -/
  cyc : Nat
  inRun : Nat
  /-- The HDR, and the EOT, have been taken. -/
  opened : Bool
  fin : Bool
  deriving DecidableEq, Repr

/-- A lane of which nothing has been taken. -/
def LaneRd.start : LaneRd := ⟨0, 0, false, false⟩

/-- An element taken by an MLOAD: coordinates d0 and d1, or an entry index and 0, and the payload. -/
structure LoadEl where
  x0 : Nat
  x1 : Nat
  pay : W64
  deriving DecidableEq, Repr

/-- An island command from its decoding on (R234, R252). -/
structure Cmd where
  id : Nat
  die : Nat
  target : Nat
  isl : Nat
  rblk : Nat
  seq : Nat
  port : Nat
  /-- Emitting cell. -/
  cell : Nat
  words : EngWords
  stage : CmdStage
  decodedAt : Nat
  /-- Place in the order of starts. -/
  ticket : Nat
  /-- First cycle in which it acts again, or in which it completed. -/
  due : Nat
  /-- Race values of the task when the command issued (R173). -/
  m : Nat
  acq : List Nat
  /-- It has begun: its checks at start are made. -/
  begun : Bool
  /-- MLOAD: format header, lanes, load buffer (R238, R239), and the scales of the k-blocks seen. -/
  hdr : Option W64
  lanes : List LaneRd
  buf : List LoadEl
  scales : List (Nat × Nat)
  /-- Reading of the tile that NORM sends (R243). -/
  reading : Option Tile
  /-- Next step, item or unit of work. -/
  item : Nat
  /-- Parameter block of a streamer command: P0 to P7 (R251). -/
  params : List W64
  /-- Codebook that CONV copies (R261). -/
  book : List Nat
  /-- Running values of a streamer command. -/
  acc : List Nat
  deriving DecidableEq, Repr

/-! Tasks and launch. -/

/-- Where a task stands. -/
inductive TaskState where
  | queued | selected | bound
  /-- In a page-fault window that opened in this cycle (R298). -/
  | window (opened : Nat)
  /-- On the residency wait list (R298). -/
  | waiting
  deriving DecidableEq, Repr

/-- A pre-emption in progress (R302-R305). -/
inductive Pre where
  | no
  /-- DRAIN, with the cycle in which its deadline passes. -/
  | drain (deadline : Option Nat)
  /-- FREEZE, or the save of a YIELD (R217). -/
  | freeze
  deriving DecidableEq, Repr

/-- A snapshot (R305): regions, commands, return tokens, slots and live tiles. -/
structure Snapshot where
  regions : List Region
  cmds : List Cmd
  iports : List IPort
  slots : List (Nat × Nat × Slot)
  tiles : List (Nat × Nat × Tile)
  /-- Codebook entries by region number, block of the region, codebook and entry. -/
  books : List ((Nat × Nat × Nat × Nat) × BitVec 16)
  deriving DecidableEq, Repr

/-- A task (R171, R270, R275). -/
structure Task where
  seq : Nat
  die : Nat
  state : TaskState
  packet : BitVec 2048
  /-- Argument slots, and the launch capabilities that they held first (R271, R283). -/
  args : List Cap
  args0 : List Cap
  done : Cap
  save : Cap
  spill : Cap
  route : Cap
  entry : Nat
  tvec : Nat
  saveSize : Nat
  orders : List (Option OMap)
  queue : Nat
  /-- Base priority B, cycle of queueing, order of arrival in the queue, priority when selected (R275, R277). -/
  prio : Nat
  queuedAt : Nat
  place : Nat
  selPrio : Nat
  /-- Acquired set and watermark (R171). -/
  m : Nat
  acq : List Nat
  /-- Edge taken at each binding (R171). -/
  edge : Option (Nat × List Nat)
  /-- Rises of priority already made by waiting (R275). -/
  rises : Nat
  /-- Keys delivered, by region and cell (R152), and grants (R154). -/
  keys : List ((Nat × Nat) × Nat)
  grants : Nat
  /-- Regions that have halted. -/
  halted : Nat
  stages : List Stage
  /-- Region 0 has entered its stages (R282). -/
  entered : Bool
  pre : Pre
  snap : Option Snapshot
  deriving DecidableEq, Repr

/-- A packet the launch unit holds (R272, R276). -/
structure Held where
  packet : BitVec 2048
  /-- Tags of its five capabilities as read, in the order ARGT, DONECAP, SAVECAP, SPILLCAP, ROUTE. -/
  tags : List Bool
  /-- From a kick. -/
  kicked : Bool
  queue : Nat
  /-- Sequence number, once assigned. -/
  seq : Option Nat
  /-- Watermark and acquired set, spawning or resolving task included, of the edge that the task takes when it is bound
  (R171). -/
  edge : Option (Nat × List Nat)
  /-- HEAD of the packet, and its physical address in the ring, where a kick brought it. -/
  head : Nat
  pa : Nat
  deriving DecidableEq, Repr

/-- Launch unit and distributor of a die (R268-R277). -/
structure Launch where
  lqbase : W64
  grights : BitVec 8
  head : BitVec 16
  lqn : BitVec 16
  grant : W64
  kicks : List (BitVec 16)
  /-- Reads made of the packet at HEAD and the cycle of the next read. -/
  reads : Nat
  nextRead : Nat
  held : Option Held
  conts : List Held
  /-- Queue last served at each priority 0 to 7 (R277). -/
  served : List Nat
  deriving DecidableEq, Repr

/-! Faults. -/

/-- The system fault queue and its registers (R294, Table 22.5). -/
structure FaultQ where
  recs : List (BitVec 512)
  lost : BitVec 32
  /-- The next record stored carries LOST. -/
  mark : Bool
  fqdb : W64
  preMode : BitVec 2
  preDeadline : BitVec 30
  preState : BitVec 2
  preSeq : BitVec 24
  cecnt : BitVec 32
  deriving DecidableEq, Repr

/-! Dies, links and the module. -/

/-- An L1 line: block of the tile, line key, data (R166). -/
structure Line where
  blk : Nat
  line : Nat
  data : LineData
  deriving DecidableEq, Repr

/-- A cached translation of a memory tile (R165). -/
structure Xlate where
  blk : Nat
  oid : Nat
  desc : BitVec 256
  ext : BitVec 128
  page : Nat
  pdesc : BitVec 128
  /-- Entries ahead of it in the extent list. -/
  prior : List (BitVec 128)
  deriving DecidableEq, Repr

/-- An aperture's registers (Table 24.2). -/
structure Aperture where
  base : W64
  geo : W64
  str : W64
  ctl : W64
  deriving DecidableEq, Repr

/-- A monitor (R192). -/
structure Monitor where
  num : Nat
  /-- Home granule, cell that armed it and scope. -/
  gran : Nat
  die : Nat
  rblk : Nat
  cell : Nat
  scope : Nat
  /-- Woken by a write; false while armed. -/
  woken : Bool
  /-- Armed by another module: the module and the tag of its request. -/
  peer : Option (Nat × Nat)
  /-- Armed on a granule of another module: the tag of the request, whose second answer tells of the wake. -/
  link : Option Nat
  deriving DecidableEq, Repr

/-- A release record: the snapshot of the releasing task, and the scope and die of the release (R171, R190). -/
structure RelRec where
  gran : Nat
  seq : Nat
  m : Nat
  acq : List Nat
  scope : Nat
  die : Nat
  deriving DecidableEq, Repr

/-- A beat of a block transfer on its way to memory (R316): the sender and its tag, the physical address, the object and offset,
the bytes. -/
structure Beat where
  src : Nat
  tag : Nat
  pa : Nat
  oid : Nat
  ofs : Nat
  bytes : List Byte
  /-- Held for a page of its own, whose PAGE_ABSENT record is posted. -/
  posted : Bool
  deriving DecidableEq, Repr

/-- A Nareb link port (R312-R318). -/
structure LinkPort where
  id : Nat
  up : Bool
  /-- The last flit failed once and its replay is due (R312). -/
  retry : Bool
  /-- Receive window: slot and block (R318). -/
  window : List (Nat × List Byte)
  /-- Blocks received. -/
  blocks : Nat
  /-- Flits of the block being received, and where the block goes. -/
  partialBlk : List Flit
  ann : Option Beat
  /-- Send side: blocks sent, hash cache and send window (R318). -/
  sent : Nat
  hashes : List (W64 × Nat)
  sendWin : List (Nat × List Byte)
  /-- Hold buffer (R316): the beats held, and the cycle of the next re-translation. -/
  hold : List Beat
  holdAt : Nat
  /-- Raw blocks sent (R229). -/
  raw : Nat
  /-- Replay buffer: the last 256 flits sent on the port and not acknowledged, a reference with its block as payload; and those of them
  that the peer has found bad once (R312). -/
  replay : List Flit
  resent : List Flit
  deriving DecidableEq, Repr

/-- A port in service with empty windows. -/
def LinkPort.reset (id : Nat) : LinkPort :=
  { id := id, up := true, retry := false, window := [], blocks := 0, partialBlk := [], ann := .none, sent := 0, hashes := [],
    sendWin := [], hold := [], holdAt := 0, raw := 0, replay := [], resent := [] }

/-- A die. -/
structure Die where
  cycle : W64
  launch : Launch
  faults : FaultQ
  apertures : List (Nat × Aperture)
  brkctl : W64
  fspool : W64
  /-- Far-store granules granted (R52). -/
  poolUsed : Nat
  /-- Power in mW, temperature in 1/16 degree and clock step (Table 25.2). -/
  power : BitVec 32
  temp : BitVec 16
  cstep : BitVec 3
  /-- Time in cycles the stepping-down condition, or its absence, has held (R331). -/
  hot : Nat
  cool : Nat
  /-- The clock is stopped for a step change (R331). -/
  stopped : Bool
  /-- Defective sites (block, site), unusable blocks and islands out of service. -/
  sites : List (Nat × Nat)
  badBlocks : List Nat
  badIslands : List (Nat × Nat)
  /-- Block of the system region (R20). -/
  sysBlock : Nat
  lines : List Line
  xlates : List Xlate
  matrix : List (Nat × MIsland)
  /-- Codebook entries that are not zero: block, codebook, entry (R65). -/
  books : List ((Nat × Nat × Nat) × BitVec 16)
  /-- Codebook writes of this cycle, seen from the next one on (R128). -/
  bookDue : List ((Nat × Nat × Nat) × BitVec 16)
  /-- L1 hits and misses by block (R229). -/
  hits : List (Nat × Nat)
  misses : List (Nat × Nat)
  releases : List RelRec
  links : List LinkPort
  /-- Die-to-die ports out of service (R312). -/
  dieLinksOut : List Nat
  deriving DecidableEq, Repr

/-- Phase of the module (Table 25.2). -/
inductive Phase where
  | starting | running | recovery
  deriving DecidableEq, Repr

/-- What the parts of a module are, as a start finds them (R20, R36, R312-R314, R324): the fused defect map, as sites (die, block, site)
and as blocks (die, block) with a defective memory tile or controller; the blocks that the self-test finds defective; the steps that
meet a fault that they cannot correct; the capacity of the expander at each CXL port, 0 where none trains; the Nareb ports that do
not train; the module index that firmware writes to NRID. -/
structure Parts where
  fusedSites : List (Nat × Nat × Nat)
  fusedBlocks : List (Nat × Nat)
  testBlocks : List (Nat × Nat)
  faults : List Nat
  expanders : List Nat
  deadPorts : List Nat
  index : BitVec 12
  deriving DecidableEq, Repr

/-- Start, firmware, attestation and module registers (Tables 11.6, 25.2-25.4, R314). -/
structure Module where
  otb : W64
  otlen : BitVec 32
  nrid : BitVec 12
  nridLocked : Bool
  phase : Phase
  step : Nat
  attempts : Nat
  fstep : Nat
  warm : Bool
  clr : Bool
  /-- The start in progress is of kind cold (R324). -/
  cold : Bool
  parts : Parts
  pwrlim : BitVec 16
  /-- Power removed until the next power-on (R331). -/
  off : Bool
  /-- OFS; 2^22 once it has passed the last word (R328). -/
  fwOfs : Nat
  fwVok : Bool
  fwAct : Bool
  fwBusy : BitVec 2
  /-- Bytes of the two banks that this model has written, (bank, offset), and whether a bank has been erased. -/
  fwBytes : List ((Bool × Nat) × Byte)
  fwErased0 : Bool
  fwErased1 : Bool
  attn : List W64
  attDst : W64
  attState : BitVec 2
  /-- Digest of the image that started, once derived (R327). -/
  digest : Option (BitVec 256)
  /-- Next sequence number (R171) and number of the next request, command, monitor, key, free value and queue place. -/
  nextSeq : Nat
  nextReq : Nat
  nextCmd : Nat
  nextMon : Nat
  nextKey : Nat
  nextPlace : Nat
  nextFree : Nat
  /-- Number of the next request to another module, and of the next errand. -/
  nextAsk : Nat
  nextErrand : Nat
  /-- Backed bytes of each CXL port (R313). -/
  backed : List Nat
  /-- Host port: frozen as a master (R311), requests held. -/
  hostFrozen : Bool
  deriving DecidableEq, Repr

/-! Events. -/

/-- Who performs a step: the fields that a step reads are said with the step. -/
structure Focus where
  die : Nat
  rblk : Nat
  cell : Nat
  isl : Nat
  port : Nat
  id : Nat
  deriving DecidableEq, Repr

/-- No one in particular. -/
def Focus.none : Focus := ⟨0, 0, 0, 0, 0, 0⟩

/-- Messages of a queue pair (R319): a SEND, a WRITE, a READ, the answer to a READ. -/
inductive EthVerb where
  | send | write | read | answer
  deriving DecidableEq, Repr

/-- An event due. -/
inductive Event where
  /-- This step by this actor. -/
  | run (f : Focus) (i : Instr)
  /-- The controller's turn: it fetches at pc if it may issue. -/
  | ctl (f : Focus)
  /-- The next command of a CFG in progress. -/
  | cfg (f : Focus)
  /-- A cell's turn: its operation word is decoded. -/
  | cell (f : Focus)
  /-- The step of a running island command. -/
  | cmd (f : Focus)
  /-- The progress of a pre-emption of the task in focus (R304, R305). -/
  | pre (f : Focus)
  /-- The turn of an island's control port: its head token is taken and a pair of words decoded (R102, R231). -/
  | port (f : Focus)
  /-- Sensor reading of a die: power in mW and temperature in 1/16 degree (R331). -/
  | sensor (die : Nat) (mw : BitVec 32) (temp : BitVec 16)
  /-- A lasting error found in a part: die, unit (Table 22.4), island or block, index (R309). -/
  | lasting (die unit part index : Nat)
  /-- A transient error on a die (R309). -/
  | transient (die : Nat)
  /-- An access whose retry failed (R3, R309): die, controller block and task of the access, source, object and offset of its record,
  and the record's words. -/
  | failed (die rblk seq src oid ofs : Nat) (words : List Nat)
  /-- An errand's next step. -/
  | errand (f : Focus)
  /-- The peer of a port has found flit n of the port's replay buffer bad: it is sent again (R312). -/
  | nak (port n : Nat)
  /-- An RDMA READ, a SEND, and a WRITE with its completion entry, that come in on a queue pair of an Ethernet port (R319). -/
  | rdmaRead (port qp adr n : Nat)
  | rdmaSend (port qp : Nat) (bytes : List Byte)
  | rdmaWrite (port qp adr : Nat) (bytes : List Byte) (cadr : Nat) (entry : List Byte)
  /-- What system software has a queue pair send: a SEND or WRITE of bytes [adr, adr + n) of this module, or a READ of n bytes at far for
  adr, whose answer comes in as a WRITE (R319). -/
  | rdmaPost (port qp : Nat) (verb : EthVerb) (adr n far : Nat)
  deriving DecidableEq, Repr

/-! Traffic with other modules (R314, R315), and errands. -/

/-- What an actor has another module do: read the 16-byte unit at 16 u with its tag, or the 64-byte line at 64 l with its tags, send a block
of 256 bytes, or perform an atomic or synchronising access by its operation code, its TYPE and two operands. -/
inductive Want where
  | unit (u : Nat)
  | line (l : Nat)
  | block (pa : Nat)
  | sync (pa size code ty : Nat) (x y : W64)
  deriving DecidableEq, Repr

/-- Something that another module has still to answer, by its tag and the actor that waits for it; a write where it wants nothing. -/
structure Ask where
  tag : Nat
  who : Focus
  what : Option Want
  deriving DecidableEq, Repr

/-- An answer kept for the actor's step. -/
structure Answer where
  who : Focus
  what : Want
  bytes : List Byte
  /-- Capability tags of the units, one bit each. -/
  tags : Nat
  /-- Tag of the request answered. -/
  num : Nat
  deriving DecidableEq, Repr

/-- Bytes that a step writes on another module; tag is the capability tag of a whole unit. -/
structure Put where
  pa : Nat
  bytes : List Byte
  tag : Bool
  deriving DecidableEq, Repr

/-- Something that the hardware does on its own behalf, in as many steps as its accesses to other modules take: a completion record
(R274), bytes of a save area (R306), the retirement of a page (R309), the records of a future that another module has resolved (R196), the decrement of a JOIN (R195). -/
inductive Errand where
  | record (die seq : Nat) (cap : Cap) (status : W64) (failed : Bool) (code : Nat) (words : List Nat)
  | write (die seq oid ofs : Nat) (bytes : List Byte)
  | retire (die oid ofs : Nat)
  | records (die task oid first : Nat) (edge : Nat × List Nat)
  | join (die task oid ofs : Nat) (edge : Nat × List Nat)
  deriving DecidableEq, Repr

/-- A message on a queue pair of an Ethernet port (R319), with the address and count that a WRITE or READ names on the other side. -/
structure EthMsg where
  port : Nat
  qp : Nat
  verb : EthVerb
  far : Nat
  count : Nat
  bytes : List Byte
  deriving DecidableEq, Repr

/-- What the outside sees of a host access. -/
inductive HostReply where
  | data (v : W64)
  | bytes (b : List Byte)
  | done
  | unsupported
  | abort
  deriving DecidableEq, Repr

/-- The state of the module. -/
structure State where
  module : Module
  dies : List Die
  regions : List Region
  tasks : List Task
  reqs : List Req
  cmds : List Cmd
  iports : List IPort
  monitors : List Monitor
  /-- Bytes of module memory that are not zero, by physical address, ascending (R160). -/
  mem : List Host.Cell
  /-- 16-byte units whose capability tag is set, ascending (R159). -/
  capTags : List Nat
  /-- Access tags of granules that are not SYNC with SEQ 0 (R172). -/
  accTags : List (Nat × W32)
  /-- Granules of this module whose reads fail, retry included (R3, R309). -/
  bad : List Nat
  /-- Flits and host answers given out, oldest first. -/
  outbox : List Flit
  replies : List HostReply
  /-- SENDs received that wait for system software, and messages given out, oldest first (R319). -/
  ethIn : List EthMsg
  ethOut : List EthMsg
  /-- What other modules have still to answer, the answers that steps wait to use, and, within a step, what it lacks and what it writes
  there (R315). -/
  asks : List Ask
  words : List Answer
  wants : List Want
  puts : List Put
  errands : List (Nat × Errand)
  /-- Snapshots that the records of stage queues carry, by physical address: watermark and acquired set (R171). -/
  queueEdges : List (Nat × (Nat × List Nat))
  /-- Events still due in this cycle, and what arrives from outside, oldest first. -/
  agenda : List Event
  inputs : List Event
  focus : Focus
  deriving DecidableEq, Repr

/-- Why the machine stops with a fault. -/
inductive Fault where
  /-- exec was asked for a step whose actor (region, cell, command, request) the state does not hold; raised by every
  meaning that acts through the focus. No event that the machine plans leads here. Safe: nothing is claimed of it. -/
  | noActor
  deriving DecidableEq, Repr

/-- Why the machine has no meaning for a step. -/
inductive Refusal where
  /-- An instruction that this model does not reach yet; raised by its arm alone. Safe. -/
  | notModelled (mnemonic : String)
  deriving DecidableEq, Repr

/-- Launch unit after reset (Table 20.1). -/
def Launch.reset : Launch :=
  { lqbase := 0, grights := 0, head := 0, lqn := 0, grant := 0, kicks := [], reads := 0, nextRead := 0, held := .none,
    conts := [], served := List.replicate 8 255 }

/-- Fault queue after reset (Table 22.5). -/
def FaultQ.reset : FaultQ :=
  { recs := [], lost := 0, mark := false, fqdb := 0, preMode := 0, preDeadline := 0, preState := 0, preSeq := 0,
    cecnt := 0 }

/-- A die after reset. -/
def Die.reset : Die :=
  { cycle := 0, launch := .reset, faults := .reset, apertures := [], brkctl := 0, fspool := 0, poolUsed := 0,
    power := 0, temp := 0, cstep := 0, hot := 0, cool := 0, stopped := false, sites := [], badBlocks := [],
    badIslands := [], sysBlock := 255, lines := [], xlates := [], matrix := [], books := [], bookDue := [], hits := [], misses := [],
    releases := [], links := [], dieLinksOut := [] }

/-- Parts without a defect: eight expanders of 2 TiB, every port trains, index 0 (log 54). -/
def Parts.sound : Parts :=
  { fusedSites := [], fusedBlocks := [], testBlocks := [], faults := [], expanders := List.replicate 8 (2 ^ 41), deadPorts := [],
    index := 0 }

/-- Module registers after reset. PWRLIM is 15,000 (Table 25.2). -/
def Module.reset : Module :=
  { otb := 0, otlen := 0, nrid := 0, nridLocked := false, phase := .starting, step := 0, attempts := 0, fstep := 0,
    warm := false, clr := false, cold := true, parts := .sound, pwrlim := 15000, off := false, fwOfs := 0, fwVok := false, fwAct := false, fwBusy := 0,
    fwBytes := [], fwErased0 := false, fwErased1 := false, attn := List.replicate 4 0, attDst := 0, attState := 0,
    digest := .none, nextSeq := 1, nextReq := 1, nextCmd := 1, nextMon := 1, nextKey := 0, nextPlace := 0, nextFree := 0, nextAsk := 0, nextErrand := 0,
    backed := List.replicate 8 0, hostFrozen := false }

/-- The module right after reset: every register at its reset value, memory with nothing listed, and power just applied,
so that the power-on event is due (R324). -/
def State.reset : State :=
  { module := .reset, dies := List.replicate 16 .reset, regions := [], tasks := [], reqs := [], cmds := [], iports := [],
    monitors := [], mem := [], capTags := [], accTags := [], bad := [], outbox := [], replies := [], ethIn := [], ethOut := [], asks := [], words := [], wants := [],
    puts := [], errands := [], queueEdges := [],
    agenda := [.run .none .powerOn], inputs := [], focus := .none }

end Sys2Proof.Machine
end

