-- ==== Sys2Proof/Machine/Mem.lean ====
section
/-! DEFINITION. Memory as data: the byte store in its one canonical form, capability fields and checks (R156-R158), access
tags (R172, R173) and the sequence numbers they compare (R171). -/

namespace Sys2Proof.Machine

/-! The byte store: addresses strictly rising, no byte equal to what an unlisted address reads as. -/

/-- What a byte that nothing has written reads as: start step 5 clears memory (Table 25.1). -/
def unlistedByte : Byte := 0

/-- One byte. -/
def memRead : List Host.Cell → Nat → Byte
  | [], _ => unlistedByte
  | (k, v) :: r, a => if k = a then v else memRead r a

/-- Writes one byte and keeps the canonical form. -/
def memWrite : List Host.Cell → Nat → Byte → List Host.Cell
  | [], a, v => if v = unlistedByte then [] else [(a, v)]
  | (k, x) :: r, a, v =>
    if a < k then (if v = unlistedByte then (k, x) :: r else (a, v) :: (k, x) :: r)
    else if a = k then (if v = unlistedByte then r else (a, v) :: r)
    else (k, x) :: memWrite r a v

/-- Bytes from an address up. -/
def memReadN (m : List Host.Cell) (a : Nat) : Nat → List Byte
  | 0 => []
  | n + 1 => memRead m a :: memReadN m (a + 1) n

/-- Writes bytes from an address up. -/
def memWriteN (m : List Host.Cell) (a : Nat) : List Byte → List Host.Cell
  | [] => m
  | b :: bs => memWriteN (memWrite m a b) (a + 1) bs

/-- The canonical form: addresses strictly rising and no unlisted value listed. -/
def Memory.wf : List Host.Cell → Bool
  | [] => true
  | (k, v) :: r => v != unlistedByte && r.all (fun c => decide (k < c.1)) && Memory.wf r

/-- The number in bytes, least significant first (R62). -/
def leNat : List Byte → Nat
  | [] => 0
  | b :: bs => b.toNat + 256 * leNat bs

/-- n bytes of a number, least significant first. -/
def natLe : Nat → Nat → List Byte
  | 0, _ => []
  | n + 1, x => BitVec.ofNat 8 x :: natLe n (x / 256)

/-- A little-endian number in memory. -/
def memNat (m : List Host.Cell) (a n : Nat) : Nat := leNat (memReadN m a n)

/-! Ascending lists of numbers, and association lists. -/

/-- Adds a number to an ascending list without repeats. -/
def insNat (x : Nat) : List Nat → List Nat
  | [] => [x]
  | y :: r => if x < y then x :: y :: r else if x = y then y :: r else y :: insNat x r

/-- Looks a key up. -/
def look {κ α : Type} [BEq κ] (l : List (κ × α)) (k : κ) : Option α := (l.find? (·.1 == k)).map (·.2)

/-- Looks a key up, with the value of keys that are not listed. -/
def lookD {κ α : Type} [BEq κ] (l : List (κ × α)) (k : κ) (d : α) : α := (look l k).getD d

/-- Puts a value at a key: replaces it, or adds it at the end. -/
def put {κ α : Type} [BEq κ] : List (κ × α) → κ → α → List (κ × α)
  | [], k, v => [(k, v)]
  | x :: r, k, v => if x.1 == k then (k, v) :: r else x :: put r k v

/-- Puts a value at a key of an ascending list. -/
def putAsc {α : Type} : List (Nat × α) → Nat → α → List (Nat × α)
  | [], k, v => [(k, v)]
  | x :: r, k, v => if k < x.1 then (k, v) :: x :: r else if k = x.1 then (k, v) :: r else x :: putAsc r k v

/-- Removes a key. -/
def del {κ α : Type} [BEq κ] (l : List (κ × α)) (k : κ) : List (κ × α) := l.filter (·.1 != k)

/-- Applies a function to the element at a position. -/
def modNth {α : Type} : List α → Nat → (α → α) → List α
  | [], _, _ => []
  | x :: r, 0, f => f x :: r
  | x :: r, n + 1, f => x :: modNth r n f

/-! Capabilities (R156-R158). -/

namespace Cap

/-- Object ID. -/
def oid (c : Cap) : Nat := fieldNat c.bits 96 32
/-- Rights. -/
def rights (c : Cap) : Nat := fieldNat c.bits 88 8
/-- Cursor. -/
def cursor (c : Cap) : Nat := fieldNat c.bits 44 44
/-- Bounds exponent E. -/
def exp (c : Cap) : Nat := fieldNat c.bits 38 6
/-- Base in bytes. -/
def base (c : Cap) : Nat := fieldNat c.bits 20 18 * 2 ^ c.exp
/-- Top in bytes. -/
def top (c : Cap) : Nat := fieldNat c.bits 2 18 * 2 ^ c.exp
/-- Representable bounds and zero low bits: what a tag demands (R156). -/
def wf (c : Cap) : Bool :=
  c.exp ≤ 26 && fieldNat c.bits 20 18 ≤ fieldNat c.bits 2 18 && fieldNat c.bits 0 2 == 0
/-- With another cursor, modulo 2^44 (R111). -/
def withCursor (c : Cap) (o : Nat) : Cap :=
  { c with bits := BitVec.ofNat 128 (c.bits.toNat - c.cursor <<< 44 + (o % 2 ^ 44) <<< 44) }
/-- With other rights. -/
def withRights (c : Cap) (r : Nat) : Cap :=
  { c with bits := BitVec.ofNat 128 (c.bits.toNat - c.rights <<< 88 + (r % 256) <<< 88) }
/-- With other bounds fields. -/
def withBounds (c : Cap) (e bb bt : Nat) : Cap :=
  { c with bits := BitVec.ofNat 128 (c.bits.toNat / 2 ^ 44 * 2 ^ 44 + e <<< 38 + bb <<< 20 + bt <<< 2) }

end Cap

/-- Rights bits (Table 11.2). -/
def rRead : Nat := 1
/-- Write right. -/
def rWrite : Nat := 2
/-- Atomic right. -/
def rAtomic : Nat := 4
/-- Stash right. -/
def rStash : Nat := 8
/-- Share right. -/
def rShare : Nat := 16
/-- Derive right. -/
def rDerive : Nat := 32
/-- Config right. -/
def rConfig : Nat := 64
/-- System right. -/
def rSystem : Nat := 128

/-- The smallest exponent from e on with ceil(hi / 2^E) <= 2^18 - 1 (R156). -/
def boundsExp (hi : Nat) : Nat → Nat → Option Nat
  | 0, _ => none
  | f + 1, e => if ceilDiv hi (2 ^ e) ≤ 2 ^ 18 - 1 then some e else boundsExp hi f (e + 1)

/-- Smallest representable bounds containing [lo, hi): exponent, base field, top field (R156). -/
def smallestBounds (lo hi : Nat) : Option (Nat × Nat × Nat) :=
  (boundsExp hi 27 0).map fun e => (e, lo / 2 ^ e, ceilDiv hi (2 ^ e))

/-- The three checks of R158 in order: the fault code, or none where the request may issue. -/
def capCheck (c : Cap) (need : Nat) (lo : Int) (size : Nat) : Option Nat :=
  if !c.tag then some 3
  else if c.rights &&& need != need then some 2
  else if lo < (c.base : Int) || (c.top : Int) < lo + size then some 1
  else none

/-- Object offset of the first faulting byte of a refused request (R292): where only its end lies outside the capability, the
capability's top; else its first byte. -/
def faultOfs (c : Cap) (code : Nat) (lo : Int) (size : Nat) : Nat :=
  let x : Int := if code == 1 && (c.base : Int) ≤ lo && lo < (c.top : Int) && (c.top : Int) < lo + size then (c.top : Int) else lo
  (x % (2 ^ 44 : Nat)).toNat

/-- The fault code of a request at lo that must be aligned; alignment is a matter of bounds (R158, R180). -/
def capCheckAt (c : Cap) (need : Nat) (lo : Int) (size align : Nat) : Option Nat :=
  match capCheck c need lo size with
  | some code => some code
  | none => if lo % (align : Int) != 0 then some 1 else none

/-! Sequence numbers and access tags (R171-R173). -/

/-- s lies below m (R171). -/
def seqBelow (m q : Nat) : Bool := 1 ≤ (m + 2 ^ 24 - q) % 2 ^ 24 && (m + 2 ^ 24 - q) % 2 ^ 24 ≤ 2 ^ 23

/-- The later of two watermarks. -/
def seqLater (a b : Nat) : Nat := if seqBelow b a then b else a

/-- Who makes an access, for race detection: sequence number, watermark and acquired set. -/
structure Racer where
  seq : Nat
  m : Nat
  acq : List Nat
  deriving DecidableEq, Repr

/-- s is in V(t) (R171). -/
def Racer.sees (t : Racer) (q : Nat) : Bool := q == t.seq || t.acq.contains q || seqBelow t.m q

/-- States of an access tag (Table 11.8). -/
def tagWritten : Nat := 0
/-- READ1. -/
def tagRead1 : Nat := 1
/-- SHARED. -/
def tagShared : Nat := 2
/-- SYNC. -/
def tagSync : Nat := 3

/-- An access tag from its fields. -/
def mkTag (st q : Nat) : W32 := BitVec.ofNat 32 (st + q <<< 8)

/-- Access tag of a granule; SYNC with SEQ 0 where it is not listed. -/
def getTag (l : List (Nat × W32)) (g : Nat) : W32 := lookD l g (mkTag tagSync 0)

/-- Sets a tag and keeps the list short. -/
def setTag (l : List (Nat × W32)) (g : Nat) (t : W32) : List (Nat × W32) :=
  if t = mkTag tagSync 0 then del l g else putAsc l g t

/-- The check of Table 11.9: the new tag, or none for RACE. -/
def tagCheck (t : Racer) (tag : W32) (isStore : Bool) : Option W32 :=
  let st := fieldNat tag 0 2
  let q := fieldNat tag 8 24
  if st == tagWritten then
    if q == t.seq then some tag
    else if !t.sees q then none
    else if isStore then some (mkTag tagWritten t.seq)
    else some (mkTag tagRead1 t.seq)
  else if st == tagRead1 then
    if isStore then (if t.sees q then some (mkTag tagWritten t.seq) else none)
    else if q == t.seq then some tag else some (mkTag tagShared q)
  else if isStore then some (mkTag tagWritten t.seq)
  else some tag

/-- Granules touched by bytes [a, a + n). -/
def granules (a n : Nat) : List Nat := (List.range ((a + n + 63) / 64 - a / 64)).map (· + a / 64)

/-- 16-byte units touched by bytes [a, a + n). -/
def units (a n : Nat) : List Nat := (List.range ((a + n + 15) / 16 - a / 16)).map (· + a / 16)

/-- Pieces of [o, o + n) that lie in one granule each: (offset, size). -/
def pieces (o n : Nat) : List (Nat × Nat) :=
  (granules o n).map fun g =>
    let lo := max o (64 * g)
    (lo, min (o + n) (64 * g + 64) - lo)

end Sys2Proof.Machine
end

