-- ==== Sys2Proof/Machine/Ops.lean ====
section
/-! DEFINITION. The named operations over the state: dies, regions, cells and tasks; fault records and the system fault
queue (R291-R294); taking an exception and returning from one (R219-R221); translation (R164, R165), apertures (R321,
R322), the L1 (R166) and accesses at home (R167, R173). -/

namespace Sys2Proof.Machine

/-- The outcome of one step. -/
abbrev Out := Host.Outcome State Fault Refusal

namespace State

/-- A die. -/
def die (s : State) (d : Nat) : Die := s.dies.getD d .reset

/-- Changes a die. -/
def updDie (s : State) (d : Nat) (f : Die → Die) : State := { s with dies := modNth s.dies d f }

/-- Cycle counter of a die, as a number (R4). -/
def now (s : State) (d : Nat) : Nat := (s.die d).cycle.toNat

/-- The region of a controller block. -/
def region (s : State) (d b : Nat) : Option Region := s.regions.find? fun r => r.die == d && r.rblk == b

/-- Changes a region. -/
def updRegion (s : State) (d b : Nat) (f : Region → Region) : State :=
  { s with regions := s.regions.map fun r => if r.die == d && r.rblk == b then f r else r }

/-- A task. -/
def task (s : State) (q : Nat) : Option Task := s.tasks.find? (·.seq == q)

/-- Changes a task. -/
def updTask (s : State) (q : Nat) (f : Task → Task) : State :=
  { s with tasks := s.tasks.map fun t => if t.seq == q then f t else t }

/-- A request. -/
def req (s : State) (n : Nat) : Option Req := s.reqs.find? (·.id == n)

/-- Changes a request. -/
def updReq (s : State) (n : Nat) (f : Req → Req) : State :=
  { s with reqs := s.reqs.map fun r => if r.id == n then f r else r }

/-- Removes a request. -/
def dropReq (s : State) (n : Nat) : State := { s with reqs := s.reqs.filter (·.id != n) }

/-- A command. -/
def cmd (s : State) (n : Nat) : Option Cmd := s.cmds.find? (·.id == n)

/-- Changes a command. -/
def updCmd (s : State) (n : Nat) (f : Cmd → Cmd) : State :=
  { s with cmds := s.cmds.map fun c => if c.id == n then f c else c }

/-- Removes a command. -/
def dropCmd (s : State) (n : Nat) : State := { s with cmds := s.cmds.filter (·.id != n) }

/-- Changes the module registers. -/
def updMod (s : State) (f : Module → Module) : State := { s with module := f s.module }

/-- Puts events at the front of the agenda. -/
def soon (s : State) (es : List Event) : State := { s with agenda := es ++ s.agenda }

end State

namespace Region

/-- Cells of the region (R10). -/
def cellCount (r : Region) : Nat := 62 * r.width * r.height

/-- A cell; one not listed is as formed. -/
def cell (r : Region) (c : Nat) : Cell := lookD r.cells c .reset

/-- Puts a cell. -/
def setCell (r : Region) (c : Nat) (x : Cell) : Region := { r with cells := putAsc r.cells c x }

/-- Changes a cell. -/
def updCell (r : Region) (c : Nat) (f : Cell → Cell) : Region := r.setCell c (f (r.cell c))

/-- Changes the run-time state of a cell. -/
def updRt (r : Region) (c : Nat) (f : CellRt → CellRt) : Region :=
  r.updCell c fun x => { x with rt := f x.rt }

/-- Die block of the region's block number b (R10, R19). -/
def block (r : Region) (b : Nat) : Nat := r.rblk + 16 * (b / r.width) + b % r.width

/-- Die blocks of the region. -/
def blocks (r : Region) : List Nat := (List.range (r.width * r.height)).map r.block

/-- Die block of a cell. -/
def blockOf (r : Region) (c : Nat) : Nat := r.block (c / 62)

/-- TRAPD (Table 13.2). -/
def trapd (r : Region) : Bool := r.st.getLsbD 35

/-- The region's cells may fire: a run is on, no handler, no pre-emption and no freeze stops them (R220, R225, R300, R305). -/
def live (r : Region) : Bool :=
  r.running && !r.cellsHeld && !r.held && (r.frozen == .no || r.frozen == .sysTrap)

/-- The pitch acts in cycle t; what leaves in a later one keeps it from falling quiet (R17). -/
def act (t : Nat) (r : Region) : Region := { r with lastAct := max r.lastAct t }

/-- Order map of an index (R45): none for 0xFF and for an index that names no well-formed entry. -/
def order (r : Region) (i : Nat) : Option OMap := if i == 255 then none else (r.orders[i]?).bind id

/-- Argument slot n of a task's list (R201). -/
def argIn (args : List Cap) (n : Nat) : Cap := args.getD n .none

end Region

/-- Argument slot n of a task (R201). -/
def State.arg (s : State) (q n : Nat) : Cap :=
  match s.task q with
  | some t => t.args.getD n .none
  | none => .none

/-- Race values of a task. -/
def State.racer (s : State) (q : Nat) : Racer :=
  match s.task q with
  | some t => ⟨q, t.m, t.acq⟩
  | none => ⟨q, 0, []⟩

/-! Fault records (R291-R293). -/

/-- Sources of a record (Table 22.2). -/
def srcCell : Nat := 0
/-- Region controller. -/
def srcCtl : Nat := 1
/-- Matrix island. -/
def srcMatrix : Nat := 2
/-- Streamer island. -/
def srcStreamer : Nat := 3
/-- Launch unit. -/
def srcLaunch : Nat := 4
/-- Memory tile. -/
def srcTile : Nat := 5
/-- Host port. -/
def srcHost : Nat := 6
/-- Link port. -/
def srcLink : Nat := 7

/-- The region and task a record names: controller block and sequence number. -/
structure Where where
  die : Nat
  rblk : Nat
  seq : Nat
  noReg : Bool
  deriving DecidableEq, Repr

/-- The place of a region. -/
def Region.place (r : Region) : Where := ⟨r.die, r.rblk, r.seq, false⟩

/-- No region on a die. -/
def Where.die' (d : Nat) : Where := ⟨d, 0, 0, true⟩

/-- Record header (Table 22.2). -/
def recHead (p : Where) (code src : Nat) (vec lost : Bool) (cyc tseq : Nat) : Nat :=
  code % 256 + src <<< 8 + boolNat vec <<< 11 + boolNat lost <<< 12 + p.die <<< 16 + p.rblk <<< 20 +
  (p.seq % 2 ^ 24) <<< 28 + boolNat p.noReg <<< 52 + (cyc % 2 ^ 40) <<< 64 + (tseq % 2 ^ 24) <<< 104

/-- A record from its header and words 2 to 7. -/
def mkRec (head : Nat) (ws : List Nat) : BitVec 512 :=
  BitVec.ofNat 512 (head + (ws.foldr (fun w acc => w % 2 ^ 64 + acc * 2 ^ 64) 0) <<< 128)

/-- Words 2 to 7 of an access record (Table 22.3). -/
def Access.words (a : Access) : List Nat :=
  let p (n : Nat) : Nat := ((a.strides.getD n 0) % (2 ^ 32 : Nat)).toNat
  let wide := a.strides.any fun x => x < -(2 ^ 31 : Nat) || (2 ^ 31 : Nat) ≤ x
  [a.cell % 2 ^ 14 + (a.port % 4) <<< 14 + (a.acc % 8) <<< 16 + (a.order % 256) <<< 19 + boolNat wide <<< 27 +
     boolNat a.pitch <<< 28 + (a.oid % 2 ^ 32) <<< 32,
   a.ofs % 2 ^ 44 + (a.rights % 256) <<< 44 + (a.tstate % 4) <<< 52,
   a.base % 2 ^ 64, p 0 + p 1 <<< 32, p 2 + p 3 <<< 32, a.pos % 2 ^ 64]

/-- The access of a controller (R292). -/
def ctlAccess (r : Region) (store : Bool) (oid ofs rights : Nat) : Access :=
  ⟨0x3FFF, 0, boolNat store, 255, false, oid, ofs, rights, 0, r.pc, [], 0⟩

/-! Links to other modules (R312, R314, R315). -/

/-- A flit with a 56-byte payload. -/
def mkFlit (dst src kind tag : Nat) (payload : List Byte) : Flit :=
  ⟨BitVec.ofNat 12 dst, BitVec.ofNat 12 src, BitVec.ofNat 4 kind, BitVec.ofNat 16 tag, 0, 0, 0,
   payload ++ List.replicate (56 - payload.length) 0⟩

/-- Physical address of a request or answer (R314). -/
def flitPa (f : Flit) : Nat := leNat (f.payload.take 7)

/-- Module index of a physical address. -/
def paModule (a : Nat) : Nat := a / 2 ^ 44 % 4096

/-- Local address of a physical address. -/
def paLocal (a : Nat) : Nat := a % 2 ^ 44

/-- A Nareb port; one not listed is in service with nothing in it. -/
def State.port (s : State) (n : Nat) : LinkPort :=
  ((s.die (Config.portDie n)).links.find? (·.id == n)).getD (.reset n)

/-- Puts one of the 36 ports (Table 0.1). -/
def putPort (s : State) (p : LinkPort) : State :=
  if Config.narebPorts ≤ p.id then s
  else s.updDie (Config.portDie p.id) fun x =>
    { x with links := if x.links.any (·.id == p.id) then x.links.map fun q => if q.id == p.id then p else q
                      else x.links ++ [p] }

/-- Ports in service. -/
def State.portsUp (s : State) : List Nat := (List.range Config.narebPorts).filter fun n => (s.port n).up

/-- The port for a granule of a module, among those in service: the hash chooses it (R315). -/
def State.portFor (s : State) (dst pa : Nat) : Nat :=
  s.portsUp.getD (Config.linkHash dst (pa / 64) % s.portsUp.length) 0

/-- Keeps flits in the replay buffer of a port: the last 256 (R312). -/
def LinkPort.keep (p : LinkPort) (fs : List Flit) : LinkPort :=
  let l := p.replay ++ fs
  { p with replay := l.drop (l.length - 256) }

/-- Sends flits on a port (R312). -/
def sendOn (s : State) (n : Nat) (fs : List Flit) : State :=
  { putPort s ((s.port n).keep fs) with outbox := s.outbox ++ fs }

/-- Sends the flits of one request or answer, all on the port of its granule. -/
def sendFlits (s : State) (fs : List Flit) : State :=
  match fs with
  | [] => s
  | f :: _ => if s.portsUp.isEmpty then s else sendOn s (s.portFor f.dst.toNat (flitPa f)) fs

/-- Sends a flit. -/
def sendFlit (s : State) (f : Flit) : State := sendFlits s [f]

/-- A request flit: address in bytes 0 to 6, byte count in byte 7, what follows from byte 8 (R314). -/
def requestFlit (s : State) (kind tag pa n : Nat) (data : List Byte) : Flit :=
  mkFlit (paModule pa) s.module.nrid.toNat kind tag (natLe 7 pa ++ natLe 1 n ++ data)

/-- Flits of a payload that runs on into later flits (R314). -/
def longFlits (dst src kind tag : Nat) (body : List Byte) : List Flit :=
  (List.range ((body.length + 55) / 56)).map fun i => mkFlit dst src kind tag ((body.drop (56 * i)).take 56)

/-- The flits of a write; behind the data of a whole unit stands its capability tag where it is set (log 39). -/
def writeFlits (s : State) (tag pa : Nat) (bs : List Byte) (cap : Bool) : List Flit :=
  longFlits (paModule pa) s.module.nrid.toNat 2 tag (natLe 7 pa ++ natLe 1 bs.length ++ bs ++ if cap then [1] else [])

/-- Operation codes of KIND 4 requests beyond the ATOM forms, LDACQ 8 to FUTGET 14: JOIN's decrement, the announcement of a beat,
the request of a block and the loss of a monitor (DESIGN CHOICE, log 39: the manual gives these flits no layout beyond address and count). -/
def codeJoin : Nat := 15
/-- The next data of the tag are a beat of a transfer. -/
def codeBeat : Nat := 16
/-- Asks for a block of 256 bytes. -/
def codeBlock : Nat := 17
/-- The monitor that the request of a tag armed is gone. -/
def codeDisarm : Nat := 18

/-- The flit of something wanted. -/
def Want.flit (s : State) (tag : Nat) : Want → Flit
  | .unit u => requestFlit s 0 tag (16 * u) 16 []
  | .line l => requestFlit s 0 tag (64 * l) 64 []
  | .block pa => requestFlit s 4 tag pa 64 (natLe 1 codeBlock)
  | .sync pa n code ty x y => requestFlit s 4 tag pa n (natLe 1 code ++ natLe 1 ty ++ natLe 8 x.toNat ++ natLe 8 y.toNat)

/-- Tag of a write that nothing waits for. -/
def noTag : Nat := 65535

/-- An answer or acknowledgement is still due to an actor. -/
def State.asking (s : State) (who : Focus) : Bool := s.asks.any (·.who == who)

/-- A write that has left for another module is not yet acknowledged (R315). -/
def State.writesOut (s : State) : Bool := s.asks.any (·.what.isNone)

/-- A tag that nothing outstanding carries. -/
def State.newTag (s : State) : Nat :=
  (((List.range (s.asks.length + s.monitors.length + 1)).map fun i => (s.module.nextAsk + i) % noTag).find? fun t =>
    s.asks.all (·.tag != t) && s.monitors.all (·.link != some t)).getD 0

/-- Notes what an actor waits for under a new tag. -/
def State.expect (s : State) (who : Focus) (what : Option Want) : State :=
  { s with asks := s.asks ++ [⟨s.newTag, who, what⟩], module := { s.module with nextAsk := s.newTag + 1 } }

/-- Asks another module for something. -/
def State.ask (who : Focus) (s : State) (w : Want) : State := sendFlit (s.expect who (some w)) (w.flit s s.newTag)

/-- Sends a write, to be acknowledged to an actor. -/
def State.sendPut (who : Focus) (s : State) (p : Put) : State :=
  sendFlits (s.expect who none) (writeFlits s s.newTag p.pa p.bytes p.tag)

/-- Sends what a step has written on other modules. -/
def State.flush (s : State) (who : Focus) : State := s.puts.foldl (State.sendPut who) { s with puts := [] }

/-- Drops the answers kept for an actor. -/
def State.forget (s : State) (who : Focus) : State := { s with words := s.words.filter (·.who != who) }

/-- A step of the actor in focus from s has come to t. It stands once nothing that it read lies unanswered on another module; until
then it has not been taken, and what it lacks is asked for. Its writes go out with it, and the actor's next step waits until they
are acknowledged (R315). -/
def settle (s t : State) : State :=
  if s.asking s.focus then s
  else if !t.wants.isEmpty then t.wants.foldl (State.ask s.focus) s
  else if t.asking s.focus then t
  else (t.flush s.focus).forget s.focus

/-- The same of an outcome. -/
def settleOut (s : State) : Out → Out
  | .next t => .next (settle s t)
  | x => x

/-- The actor in focus wants something. -/
def State.want (s : State) (w : Want) : State := if s.wants.contains w then s else { s with wants := s.wants ++ [w] }

/-- The answer that the actor in focus has for something wanted. -/
def State.answer (s : State) (w : Want) : Option Answer := s.words.find? fun a => a.who == s.focus && a.what == w

/-- Adds bytes to what a step writes; bytes that follow on within a granule join. -/
def State.addPut (s : State) (p : Put) : State :=
  match s.puts.getLast? with
  | some q =>
    if !q.tag && !p.tag && q.pa + q.bytes.length == p.pa && q.pa / 64 == p.pa / 64 then
      { s with puts := s.puts.dropLast ++ [{ q with bytes := q.bytes ++ p.bytes }] }
    else { s with puts := s.puts ++ [p] }
  | none => { s with puts := s.puts ++ [p] }

/-- What was answered of the bytes at an address of another module, with the place of that byte in it: a whole line, or a unit. -/
def State.answerAt (s : State) (a : Nat) : Option (Answer × Nat) :=
  match s.answer (.line (a / 64)) with
  | some w => some (w, a % 64)
  | none => (s.answer (.unit (a / 16))).map fun w => (w, a % 16)

/-- A byte of another module as the step sees it: what it has written itself, else what was answered; 0 while it lacks it. -/
def State.farByte (s : State) (a : Nat) : Byte :=
  match s.puts.reverse.find? fun p => p.pa ≤ a && a < p.pa + p.bytes.length with
  | some p => p.bytes.getD (a - p.pa) 0
  | none => match s.answerAt a with
    | some w => w.1.bytes.getD w.2 0
    | none => 0

/-- The capability tag of a unit of another module. -/
def State.farTag (s : State) (u : Nat) : Bool :=
  match s.puts.reverse.find? fun p => p.pa < 16 * u + 16 && 16 * u < p.pa + p.bytes.length with
  | some p => p.tag && p.pa == 16 * u
  | none => match s.answerAt (16 * u) with
    | some w => w.1.tags.testBit (w.2 / 16)
    | none => false

/-- Wants the units of bytes [a, a + n) of another module that the step has no answer for. -/
def needFar (s : State) (a n : Nat) : State :=
  (List.range ((a + n + 15) / 16 - a / 16)).foldl (fun s i =>
    if (s.answerAt (16 * (a / 16 + i))).isSome then s else s.want (.unit (a / 16 + i))) s

/-- Wants the whole line of a byte of another module, in one request (R166, R314). -/
def needLine (s : State) (a : Nat) : State := if (s.answer (.line (a / 64))).isSome then s else s.want (.line (a / 64))

/-- The physical address lies on this module. -/
def State.isLocal (s : State) (a : Nat) : Bool := paModule a == s.module.nrid.toNat

/-- Wants the bytes of a table, where it lies on another module. -/
def needPhys (s : State) (a n : Nat) : State := if s.isLocal a then s else needFar s a n

/-- Bytes at a physical address, of this module or another. -/
def physBytes (s : State) (a n : Nat) : List Byte :=
  if s.isLocal a then memReadN s.mem (paLocal a) n else (List.range n).map fun i => s.farByte (a + i)

/-- A table's number at a physical address. -/
def physNat (s : State) (a n : Nat) : Nat := leNat (physBytes s a n)

/-- Some byte of [a, a + n) of this module cannot be read (R3, R309). -/
def State.failing (s : State) (a n : Nat) : Bool := s.isLocal a && (granules (paLocal a) n).any s.bad.contains

/-! Writes at home. -/

/-- The second answer to a MONW of another module: 1 where its monitor woke, 0 where it is lost (R192, log 39). -/
def tellPeer (woke : Bool) (s : State) (m : Monitor) : State :=
  match m.peer with
  | none => s
  | some (dst, tag) => sendFlit s (mkFlit dst s.module.nrid.toNat 1 tag (natLe 7 (64 * m.gran) ++ natLe 1 8 ++ natLe 8 (boolNat woke)))

/-- Wakes the monitors armed on a granule (R192). -/
def wake (s : State) (g : Nat) : State :=
  let peers := s.monitors.filter fun m => m.gran == g && m.peer.isSome
  let s := { s with monitors := (s.monitors.filter fun m => !(m.gran == g && m.peer.isSome)).map fun m =>
    if m.gran == g then { m with woken := true } else m }
  peers.foldl (tellPeer true) s

/-- Clears the capability tags of the units that bytes [a, a + n) touch (R159). -/
def clearTags (s : State) (a n : Nat) : State :=
  let us := units a n
  { s with capTags := s.capTags.filter fun u => !us.contains u }

/-- Writes bytes at a local address of this module: memory, capability tags and monitors (R159, R192). -/
def pokeBytes (s : State) (a : Nat) (bs : List Byte) : State :=
  let s := clearTags { s with mem := memWriteN s.mem a bs } a bs.length
  (granules a bs.length).foldl wake s

/-- Cell or island, and port, of a record: its code, source and words 2 and 3 (Tables 22.3, 22.4). An engine's record holds its port in
bits 9:8 of word 2, an access's in bits 15:14. A fault of a CFG names its cell in word 3; ORDER_MISMATCH is one where word 2 says that
END found it, and one of a JOIN otherwise, whose layout names no cell: it counts as the controller's 0x3FFF. -/
def faultPart (code src w2 w3 : Nat) : Nat × Nat :=
  if src == srcMatrix || src == srcStreamer then (w2 % 64, w2 / 2 ^ 8 % 4 + w2 / 2 ^ 14 % 4)
  else if src == srcCtl && ([0x0B, 0x15, 0x16, 0x17].contains code || (code == 0x08 && w2.testBit 48)) then (w3 % 2 ^ 14, 0)
  else if src == srcCtl && [0x08, 0x09, 0x0A].contains code then (0x3FFF, 0)
  else (w2 % 2 ^ 14, w2 / 2 ^ 14 % 4)

/-- Place of a record among those found in one cycle: SRC, then cell or island, then port (R294). -/
def faultRank (code src w2 w3 : Nat) : Nat :=
  let p := faultPart code src w2 w3
  src * 2 ^ 16 + p.1 * 4 + p.2

/-- Rank of a stored record. -/
def recRank (r : BitVec 512) : Nat := faultRank (fieldNat r 0 8) (fieldNat r 8 3) (fieldNat r 128 64) (fieldNat r 192 64)

/-- LOST of a record (Table 22.2). -/
def recLost : BitVec 512 := 1#512 <<< 12

/-- Adds a record behind those of earlier cycles and those of its own cycle that come no later; LOST is in the first that follows a loss
(R294). -/
def addRecord (l : List (BitVec 512)) (r : BitVec 512) : List (BitVec 512) :=
  match l with
  | [] => [r]
  | x :: xs =>
    if fieldNat x 64 40 == fieldNat r 64 40 && recRank r < recRank x then
      (r ||| (x &&& recLost)) :: (x &&& ~~~recLost) :: xs
    else x :: addRecord xs r

/-- Writes at a physical address, synchronising, for the hardware itself; elsewhere the write goes over the links. -/
def pokePhys (s : State) (a : Nat) (bs : List Byte) (q : Nat) : State :=
  if s.isLocal a then
    let s := pokeBytes s (paLocal a) bs
    { s with accTags := setTag s.accTags (paLocal a / 64) (mkTag tagSync q) }
  else s.addPut ⟨a, bs, false⟩

/-- Posts a record: the queue of 512, the LOST count, the doorbell. Of the records of one cycle those that come first in the order of the
queue are stored, so in a full queue one of this cycle that comes later makes room, and is the one lost (R294). -/
def post (s : State) (p : Where) (code src : Nat) (vec : Bool) (tseq : Nat) (ws : List Nat) : State :=
  let d := p.die
  let q := (s.die d).faults
  let rec_ := mkRec (recHead p code src vec q.mark (s.now d) tseq) ws
  if q.recs.length < Config.faultQueueSize then
    let s := s.updDie d fun x => { x with faults := { x.faults with recs := addRecord x.faults.recs rec_, mark := false } }
    if q.fqdb.getLsbD 0 then pokePhys s (fieldNat q.fqdb 3 53 * 8) (natLe 8 (q.recs.length + 1)) 0 else s
  else
    s.updDie d fun x => { x with faults := { x.faults with
      recs := (addRecord x.faults.recs rec_).take Config.faultQueueSize, lost := x.faults.lost + 1, mark := true } }

/-- Posts a record of the controller layout (Table 22.4): a cell and port, or 0x3FFF. -/
def postCtl (s : State) (r : Region) (code src cell port word pc : Nat) (vec : Bool) : State :=
  post s r.place code src vec 0 [cell % 2 ^ 14 + (port % 4) <<< 14, word, pc, 0, 0, 0]

/-! Taking an exception and returning from one (R219-R221). -/

/-- st after entry to the trap vector: TPC, TCODE and TRAPD set, the other bits kept (R220, Table 13.2). -/
def stEntry (st : W64) (code restart : Nat) : W64 :=
  BitVec.ofNat 64 (st.toNat % 2 ^ 16 + (code % 2 ^ 16) <<< 16 + (fieldNat st 32 3) <<< 32 + 1 <<< 35 +
    (restart / 8 % 2 ^ 28) <<< 36)

/-- Entry to the trap vector: the saved fields, then pc := TVEC (R220). A trap entry adds one cycle (R201). -/
def enterVector (r : Region) (tvec code restart now : Nat) : Region :=
  { r with st := stEntry r.st code restart, pc := tvec, ctl := .ready (now + 2) }

/-- TVEC of a region's task. -/
def State.tvecOf (s : State) (r : Region) : Nat := match s.task r.seq with | some t => t.tvec | none => 0

/-- A system-queue trap: the controller stops at its restart point (R220). -/
def stopAt (r : Region) (restart now : Nat) : Region :=
  { r with frozen := .sysTrap, pc := restart, ctl := .ready now }

/-- A cause that would enter the vector, raised by an instruction: the vector, or the system fault queue and a freeze while
a handler runs (R220). TCODE is 0xFF00 + the fault code. The record is posted by the caller's words. -/
def vectorFault (s : State) (r : Region) (code restart src tseq : Nat) (ws : List Nat) : State :=
  let t := s.now r.die
  if r.trapd then
    let s := post s r.place code src false tseq ws
    s.updRegion r.die r.rblk fun r => { stopAt r restart t with frozen := .violation }
  else
    let s := post s r.place code src true tseq ws
    s.updRegion r.die r.rblk fun r => enterVector r (s.tvecOf r) (0xFF00 + code) restart t

/-- A trap that goes to the system fault queue, with the controller layout (R101, R220). -/
def systemTrap (s : State) (r : Region) (code restart word : Nat) : State :=
  let s := postCtl s r code srcCtl 0x3FFF 0 word restart false
  s.updRegion r.die r.rblk fun r => stopAt r restart (s.now r.die)

/-- Code of CAP_BOUNDS and so on (Table 22.1). -/
def fcBounds : Nat := 1
/-- CAP_RIGHTS. -/
def fcRights : Nat := 2
/-- CAP_TAG. -/
def fcTag : Nat := 3
/-- PAGE_ABSENT. -/
def fcAbsent : Nat := 4
/-- PAGE_PROT. -/
def fcProt : Nat := 5
/-- COW_SHARED. -/
def fcCow : Nat := 6
/-- RACE. -/
def fcRace : Nat := 7
/-- ORDER_MISMATCH. -/
def fcOrder : Nat := 8
/-- ORDER_STORE_SIZE. -/
def fcStoreSize : Nat := 9
/-- ORDER_PERIOD. -/
def fcPeriod : Nat := 10
/-- ORDER_AXIS. -/
def fcAxis : Nat := 11
/-- SPARSE_META. -/
def fcSparse : Nat := 12
/-- ANCHOR. -/
def fcAnchor : Nat := 13
/-- SLOT_BUSY. -/
def fcSlotBusy : Nat := 14
/-- FUTURE_TWICE. -/
def fcTwice : Nat := 15
/-- SPILL_LIMIT. -/
def fcSpill : Nat := 16
/-- STASH_SIZE. -/
def fcStash : Nat := 17
/-- APERTURE. -/
def fcAperture : Nat := 18
/-- MEM_LASTING. -/
def fcLasting : Nat := 19
/-- LAUNCH_STALE. -/
def fcStale : Nat := 20
/-- CONFIG_ILLEGAL. -/
def fcConfig : Nat := 21
/-- ZERO_SLOT_LOOP. -/
def fcLoop : Nat := 22
/-- MERGE_NONEXACT. -/
def fcMerge : Nat := 23
/-- ALLOC_EXHAUSTED. -/
def fcAlloc : Nat := 24
/-- ILLEGAL_OP. -/
def fcIllegal : Nat := 25
/-- ENGINE_ILLEGAL. -/
def fcEngine : Nat := 26

/-- ILLEGAL_OP raised by the instruction at pc, precisely (R101). -/
def illegalOp (s : State) (r : Region) (word : Nat) : State := systemTrap s r fcIllegal r.pc word

/-- A violation freezes the region (R300). -/
def freeze (s : State) (r : Region) (code src : Nat) (ws : List Nat) : State :=
  let s := post s r.place code src false 0 ws
  s.updRegion r.die r.rblk fun r => { r with frozen := .violation }

/-- A pre-emption of the task in progress ends with a STATE (Table 22.5). -/
def endPre (s : State) (q st : Nat) : State :=
  { s with dies := s.dies.map fun x =>
      if x.faults.preState == 1 && x.faults.preSeq.toNat == q then
        { x with faults := { x.faults with preState := BitVec.ofNat 2 st } }
      else x }

/-- A page-fault record opens the task's window if none is open; a pre-emption in progress ends with STATE 3 (R298, R308). -/
def openWindow (s : State) (q : Nat) (now : Nat) : State :=
  match s.task q with
  | some t =>
    if t.state == .bound then
      (endPre s q 3).updTask q fun t => { t with state := .window now, pre := .no }
    else s
  | none => s

/-- The return from an exception: pc := 8 x TPC, TRAPD := 0, and the cells fire again (R221). It adds one cycle. -/
def returnFromTrap (r : Region) (now : Nat) : Region :=
  { r with pc := 8 * fieldNat r.st 36 28, st := r.st &&& ~~~(1#64 <<< 35), cellsHeld := false, lastAct := now,
           ctl := .ready (now + 2) }

/-- Adds an engine fault behind those found earlier, and in its own cycle in the order of R294 (R206). -/
def addEngFault (l : List EngFault) (e : EngFault) : List EngFault :=
  match l with
  | [] => [e]
  | x :: xs => if x.found == e.found && e.rank < x.rank then e :: x :: xs else x :: addEngFault xs e

/-- An engine fault is recorded for the pitch's BELAY (R104, R206). -/
def engineFault (s : State) (d b : Nat) (e : EngFault) : State :=
  s.updRegion d b fun r => { r with engFaults := addEngFault r.engFaults e }

/-! Translation (R160-R165). -/

/-- A local address in the far tier. -/
def isFar (a : Nat) : Bool := Config.bondedEnd ≤ a

/-- A local address that is backed (R160, R163). -/
def localBacked (m : Module) (a : Nat) : Bool :=
  a < Config.bondedEnd ||
  (a < Config.farEnd &&
    (a - Config.bondedEnd) % Config.farStride < m.backed.getD ((a - Config.bondedEnd) / Config.farStride) 0)

/-- A physical address that is backed: on this module by its ranges; on another one of the load-store domain as that module
says, but for the local addresses that no module backs (R160, R314). -/
def State.isBacked (s : State) (a : Nat) : Bool :=
  if s.isLocal a then localBacked s.module (paLocal a) else paModule a < Config.domainModules && paLocal a < Config.farEnd

/-- Page size of PSIZE (Table 11.4). -/
def pageSize (p : Nat) : Nat := match p with | 0 => 2 ^ 16 | 1 => 2 ^ 21 | 2 => 2 ^ 28 | _ => 2 ^ 33

/-- Extent entry fields: object offset of its first page. -/
def extXofs (x : BitVec 128) : Nat := fieldNat x 84 44
/-- Bytes an extent entry maps. -/
def extSpan (x : BitVec 128) : Nat := fieldNat x 64 20 * pageSize (fieldNat x 6 2)
/-- The entry maps offset o. -/
def extHas (x : BitVec 128) (o : Nat) : Bool := extXofs x ≤ o && o < extXofs x + extSpan x

/-- First entry, in list order, that maps offset o, with the entries ahead of it, or a code. -/
def findExtent (a o : Nat) : Nat → List (BitVec 128) → State → (Nat ⊕ (BitVec 128 × List (BitVec 128))) × State
  | 0, _, s => (.inl fcAbsent, s)
  | n + 1, seen, s =>
    let s := needPhys s a 16
    let x := BitVec.ofNat 128 (physNat s a 16)
    if s.failing a 16 then (.inl fcLasting, s)
    else if !s.wants.isEmpty then (.inl fcAbsent, s)
    else if extHas x o then (.inr (x, seen), s)
    else findExtent (a + 16) o n (seen ++ [x]) s

/-- Result of a translation. -/
inductive Xres where
  | ok (pa : Nat)
  | aper (die no : Nat)
  | bad (code : Nat)
  deriving DecidableEq, Repr

/-- Reserved bits of a descriptor are zero (Table 11.3). -/
def descClean (d : BitVec 256) : Bool := fieldNat d 20 120 == 0 && fieldNat d 0 6 == 0 && fieldNat d 200 4 == 0
/-- Reserved bits of an extent entry are zero (Table 11.4). -/
def extClean (x : BitVec 128) : Bool := fieldNat x 0 5 == 0 && fieldNat x 8 4 == 0
/-- Object descriptor bits. -/
def descValid (d : BitVec 256) : Bool := d.getLsbD 6

/-- The page part of R164, from the three table entries. -/
def pageCheck (s : State) (d : BitVec 256) (x g : BitVec 128) (o : Nat) (writes stash : Bool) : Xres :=
  let size := pageSize (fieldNat x 6 2)
  let pa := fieldNat g 72 56
  if !g.getLsbD 7 || g.getLsbD 4 || fieldNat g 0 4 != 0 || fieldNat g 8 32 != 0 || pa % size != 0 ||
     isFar (paLocal pa) != d.getLsbD 10 || !s.isBacked (pa + (o - extXofs x) % size) then .bad fcAbsent
  else if writes && !g.getLsbD 6 then .bad fcProt
  else if writes && (d.getLsbD 7 || x.getLsbD 5 || g.getLsbD 5) then .bad fcCow
  else if d.getLsbD 9 && !stash then .bad fcProt
  else .ok (pa + (o - extXofs x) % size)

/-- A cached translation that serves an offset: its entry is the first of the list that maps it (R164, R165). -/
def Xlate.serves (e : Xlate) (blk oid o : Nat) : Bool :=
  e.blk == blk && e.oid == oid && extHas e.ext o && e.prior.all (fun x => !extHas x o) &&
  (o - extXofs e.ext) / pageSize (fieldNat e.ext 6 2) == e.page

/-- The walk of R164 behind a descriptor: its extent and its page; a translation that succeeds is cached (R165). -/
def translateWalk (s : State) (d blk oid o : Nat) (writes stash : Bool) (dsc : BitVec 256) : Xres × State :=
  match findExtent (fieldNat dsc 200 56) o (fieldNat dsc 184 16) [] s with
  | (.inl code, s) => (.bad code, s)
  | (.inr (x, seen), s) =>
    if !descClean dsc || !extClean x then (.bad fcAbsent, s)
    else
      let page := (o - extXofs x) / pageSize (fieldNat x 6 2)
      let a := fieldNat x 8 56 + 16 * page
      let s := needPhys s a 16
      let g := BitVec.ofNat 128 (physNat s a 16)
      if s.failing a 16 then (.bad fcLasting, s)
      else
        let r := pageCheck s dsc x g o writes stash
        match r with
        | .ok _ => (r, s.updDie d fun y => { y with xlates := y.xlates ++ [⟨blk, oid, dsc, x, page, g, seen⟩] })
        | _ => (r, s)

/-- Translates an offset of an object at the memory tile of a block (R164), through its cached entries (R165). -/
def translate (s : State) (d blk : Nat) (oid o : Nat) (writes stash : Bool) : Xres × State :=
  if s.module.otlen.toNat ≤ oid then (.bad fcTag, s)
  else match (s.die d).xlates.find? (·.serves blk oid o) with
  | some e => (if fieldNat e.desc 140 44 ≤ o then .bad fcBounds else pageCheck s e.desc e.ext e.pdesc o writes stash, s)
  | none =>
    let a := s.module.otb.toNat + 32 * oid
    let s := needPhys s a 32
    let dsc := BitVec.ofNat 256 (physNat s a 32)
    if s.failing a 32 then (.bad fcLasting, s)
    else if !descValid dsc then (.bad fcTag, s)
    else if fieldNat dsc 140 44 ≤ o then (.bad fcBounds, s)
    else if dsc.getLsbD 11 then (.aper (fieldNat dsc 16 4) (fieldNat dsc 12 4), s)
    else translateWalk s d blk oid o writes stash dsc

/-! Stash blocks (R84, R85), for apertures and the streamer. -/

/-- step(X, d) = 2^k for code width w (R85). -/
def stashStep (x d w : Nat) : Int := (x : Int) - 125 - d - w

/-- Signed code i of a block of code width w. -/
def stashCode (blk w i : Nat) : Int :=
  let c := blk / 2 ^ (32 + w * i) % 2 ^ w
  if c.testBit (w - 1) then (c : Int) - (2 ^ w : Nat) else c

/-- The header of a block breaks R84 or does not have width w. -/
def stashBad (blk w : Nat) : Bool := blk / 2 ^ 24 % 256 != 0 || blk / 2 ^ 20 % 16 != w

/-- Element i of a block in a source format: code x step(XE, D_b) (R85); of a block that no STASH makes it is rounded
to nearest even (log 57). -/
def stashDecode (blk w i ty : Nat) : Nat :=
  let d := blk / 2 ^ (8 + 3 * (i / 8)) % 8
  let c := stashCode blk w i
  (roundFin ty .rne (decide (c < 0)) c.natAbs (stashStep (blk % 256) d w)).bits

/-! Apertures (R320-R322). -/

/-- A byte of an access: at a local address, at a physical address of another module, or a value formed on the way from bytes at local
addresses. -/
inductive Chunk where
  | at (a : Nat)
  | far (a : Nat)
  | lit (b : Byte) (from_ : List Nat)
  deriving DecidableEq, Repr

/-- Registers of an aperture. -/
def Die.aper (d : Die) (n : Nat) : Aperture := lookD d.apertures n ⟨0, 0, 0, 0⟩

/-- Bytes V of one view element (R321). -/
def Aperture.elem (ap : Aperture) : Nat :=
  match fieldNat ap.ctl 0 4 with
  | 2 => 4
  | 3 => if ap.ctl.getLsbD 12 then 2 else 4
  | _ => 2 ^ fieldNat ap.geo 0 2

/-- Bytes N x V of a view. -/
def Aperture.viewBytes (ap : Aperture) : Nat := (fieldNat ap.geo 40 24 + 1) * (fieldNat ap.geo 16 24 + 1) * ap.elem

/-- The byte at a physical address, if it is backed. -/
def placeOf (s : State) (a : Nat) : Option Chunk :=
  if !s.isBacked a then none else if s.isLocal a then some (.at (paLocal a)) else some (.far a)

/-- Addresses of this module among [a, a + n), whose access tags a formed value is checked against. -/
def homeBytes (s : State) (a n : Nat) : List Nat := if s.isLocal a then (List.range n).map (paLocal a + ·) else []

/-- Start of the stash block that holds element e of an XF 3 view (R321). -/
def Aperture.stashAt (ap : Aperture) (e : Nat) : Nat := fieldNat ap.base 6 50 * 64 + e / 32 * (4 + 4 * fieldNat ap.ctl 8 4)

/-- The buffer bytes of view byte o, or none where the access faults APERTURE (R321, R322). -/
def aperByte (s : State) (ap : Aperture) (o : Nat) (writes : Bool) : Option Chunk :=
  let xf := fieldNat ap.ctl 0 4
  let rows := fieldNat ap.geo 40 24 + 1
  let cols := fieldNat ap.geo 16 24 + 1
  let sz := 2 ^ fieldNat ap.geo 0 2
  let base := fieldNat ap.base 6 50 * 64
  let w := fieldNat ap.ctl 8 4
  let b16 := ap.ctl.getLsbD 12
  let v := ap.elem
  let e := o / v
  let b := o % v
  let ok (a : Nat) : Option Chunk := placeOf s a
  if !ap.ctl.getLsbD 63 || ap.viewBytes ≤ o then none
  else match xf with
    | 1 => ok (base + (e % rows * cols + e / rows) * sz + b)
    | 2 =>
      if writes || sz != 2 then none
      else if b < 2 then (if s.isBacked (base + 2 * e) then some (.lit 0 (homeBytes s (base + 2 * e) 2)) else none)
      else ok (base + 2 * e + (b - 2))
    | 3 =>
      if writes || !(w == 3 || w == 7 || w == 15) || (b16 && w == 15) then none
      else
        let a := ap.stashAt e
        if !(s.isBacked a && s.isBacked (a + 3 + 4 * w)) then none
        else
          let blk := physNat s a (4 + 4 * w)
          if stashBad blk w then none
          else
            let x := stashDecode blk w (e % 32) (if b16 then 11 else 9)
            some (.lit (BitVec.ofNat 8 (x / 256 ^ b)) (homeBytes s a (4 + 4 * w)))
    | 4 => ok (base + e * sz + (sz - 1 - b))
    | 5 =>
      if writes && fieldNat ap.str 0 32 < cols * sz then none
      else ok (base + e / cols * fieldNat ap.str 0 32 + e % cols * sz + b)
    | _ => none

/-! Accesses. -/

/-- How an access is made. -/
structure Mode where
  die : Nat
  blk : Nat
  /-- Through the L1 of the block's tile (R166). -/
  l1 : Bool
  /-- Plain: checked against the access tag by this task (R173). None: exempt. -/
  plain : Option Racer
  /-- An engine's STASH or RESTORE (R164). -/
  stash : Bool
  /-- Keeps capability tags (COPY, capability stores). -/
  keepTags : Bool
  /-- Line buffer of the stream port that makes the access (R186). -/
  buf : List (Nat × LineData)

/-- Where the bytes of an access lie. -/
inductive Plan where
  | bytes (cs : List Chunk)
  | bad (code ofs : Nat)
  deriving DecidableEq, Repr

/-- Bytes [pa, pa + n) of this module or another. -/
def chunksAt (s : State) (pa n : Nat) : List Chunk :=
  (List.range n).map fun i => if s.isLocal pa then Chunk.at (paLocal pa + i) else Chunk.far (pa + i)

/-- Places the bytes [o, o + n) of an object (R164, R321). -/
def plan (s : State) (md : Mode) (oid : Nat) (writes : Bool) : List (Nat × Nat) → Plan × State
  | [] => (.bytes [], s)
  | (o, n) :: rest =>
    match translate s md.die md.blk oid o writes md.stash with
    | (.bad c, s) => (.bad c o, s)
    | (.aper _ _, s) => (.bad fcAperture o, s)
    | (.ok pa, s) =>
      match plan s md oid writes rest with
      | (.bytes ds, s) => (.bytes (chunksAt s pa n ++ ds), s)
      | r => r

/-- Granules that a list of chunks touches, in ascending order of first touch. -/
def chunkGranules (cs : List Chunk) : List Nat :=
  (cs.flatMap fun c => match c with | .at a => [a / 64] | .far _ => [] | .lit _ l => l.map (· / 64)).dedup

/-- Checks every granule's access tag; the new tags, or the tag that raises RACE (R173). -/
def tagsFor (s : State) (t : Racer) (store : Bool) : List Nat → Option (List (Nat × W32)) × W32 × Nat
  | [] => (some [], 0, 0)
  | g :: gs =>
    match tagCheck t (getTag s.accTags g) store with
    | none => (none, getTag s.accTags g, g)
    | some nt =>
      match tagsFor s t store gs with
      | (some r, x) => (some ((g, nt) :: r), x)
      | r => r

/-- Applies new access tags. -/
def applyTags (s : State) (l : List (Nat × W32)) : State :=
  { s with accTags := l.foldl (fun a gt => setTag a gt.1 gt.2) s.accTags }

/-- An L1 line of a tile. -/
def Die.line (d : Die) (blk line : Nat) : Option Line := d.lines.find? fun l => l.blk == blk && l.line == line

/-- Key of the line of a byte: its line address, those of other modules beyond every one of this module. -/
def Chunk.line : Chunk → Nat
  | .at a => a / 64
  | .far a => a / 64 + 2 ^ 50
  | .lit _ _ => 0

/-- The data of a line as its home holds them (R159, R166). -/
def lineData (s : State) (line : Nat) : LineData :=
  if line < 2 ^ 50 then ⟨memReadN s.mem (64 * line) 64, (List.range 4).map fun i => s.capTags.contains (4 * line + i)⟩
  else
    let a := 64 * (line - 2 ^ 50)
    ⟨(List.range 64).map fun i => s.farByte (a + i), (List.range 4).map fun i => s.farTag (a / 16 + i)⟩

/-- Fills a line, evicting the tile's oldest when it is full (R166). -/
def fillLine (s : State) (d blk line : Nat) : State :=
  let new : Line := ⟨blk, line, lineData s line⟩
  s.updDie d fun x =>
    let mine := x.lines.filter (·.blk == blk)
    let ls := if mine.length < Config.l1Lines then x.lines
      else match mine with
        | o :: _ => x.lines.filter fun l => !(l.blk == o.blk && l.line == o.line)
        | [] => x.lines
    { x with lines := ls ++ [new] }

/-- The data that the L1 or the line buffer of an access holds of a line (R166, R186). -/
def heldLine (s : State) (md : Mode) (line : Nat) : Option LineData :=
  if !md.l1 then none
  else match look md.buf line with
    | some l => some l
    | none => ((s.die md.die).line md.blk line).map (·.data)

/-- The access to a byte reaches its home. -/
def reachesHome (s : State) (md : Mode) (c : Chunk) : Bool :=
  match c with
  | .lit _ _ => true
  | c => (heldLine s md c.line).isNone

/-- Wants what a read of chunks lacks of other modules: through the L1 a whole line, else the units (R166, R315). -/
def needChunks (s : State) (md : Mode) (cs : List Chunk) : State :=
  cs.foldl (fun s c =>
    match c with
    | .far a => if !reachesHome s md c then s else if md.l1 then needLine s a else needFar s a 1
    | _ => s) s

/-- Counts an L1 hit or miss (R229). -/
def countHit (s : State) (d blk : Nat) (hit : Bool) : State :=
  s.updDie d fun x =>
    if hit then { x with hits := put x.hits blk (lookD x.hits blk 0 + 1) }
    else { x with misses := put x.misses blk (lookD x.misses blk 0 + 1) }

/-- Reads one byte: from the tile's L1 where the line is there, filling it otherwise; or at home. -/
def readChunk (s : State) (md : Mode) (c : Chunk) : Byte × State :=
  match c with
  | .lit b _ => (b, s)
  | .at a =>
    match heldLine s md c.line with
    | some l => (l.bytes.getD (a % 64) 0, s)
    | none => (memRead s.mem a, if md.l1 then fillLine s md.die md.blk c.line else s)
  | .far a =>
    match heldLine s md c.line with
    | some l => (l.bytes.getD (a % 64) 0, s)
    | none => (s.farByte a, if md.l1 then fillLine s md.die md.blk c.line else s)

/-- Reads chunks in order. -/
def readChunks (s : State) (md : Mode) : List Chunk → List Byte × State
  | [] => ([], s)
  | c :: cs =>
    let (b, s) := readChunk s md c
    let (bs, s) := readChunks s md cs
    (b :: bs, s)

/-- Changes the line buffers of the cells of one block (R186). -/
def updBuffers (s : State) (d blk : Nat) (f : List (Nat × LineData) → List (Nat × LineData)) : State :=
  { s with regions := s.regions.map fun r =>
      if r.die == d && r.blocks.contains blk then
        { r with cells := r.cells.map fun c =>
            if r.blockOf c.1 == blk && !c.2.rt.lines.isEmpty then (c.1, { c.2 with rt := { c.2.rt with lines := f c.2.rt.lines } })
            else c }
      else r }

/-- Changes a line of a tile's L1 and of its block's line buffers, if it is there (R166, R186). -/
def updLine (s : State) (d blk line : Nat) (f : LineData → LineData) : State :=
  updBuffers (s.updDie d fun x => { x with lines := x.lines.map fun l =>
      if l.blk == blk && l.line == line then { l with data := f l.data } else l }) d blk
    fun ls => ls.map fun l => if l.1 == line then (l.1, f l.2) else l

/-- A byte of a line is written; the tag of its unit goes, unless it is kept (R159). -/
def LineData.setByte (l : LineData) (a : Nat) (b : Byte) (keep : Bool) : LineData :=
  ⟨l.bytes.set (a % 64) b, if keep then l.tags else l.tags.set (a % 64 / 16) false⟩

/-- Writes one byte at home and in the issuing tile's lines if they are there (R166, R186). -/
def writeChunk (s : State) (md : Mode) (c : Chunk) (b : Byte) : State :=
  match c with
  | .lit _ _ => s
  | .at a =>
    let s := { s with mem := memWrite s.mem a b }
    let s := if md.keepTags then s else clearTags s a 1
    let s := wake s (a / 64)
    if md.l1 then updLine s md.die md.blk c.line fun l => l.setByte a b md.keepTags else s
  | .far a =>
    let s := s.addPut ⟨a, [b], false⟩
    if md.l1 then updLine s md.die md.blk c.line fun l => l.setByte a b md.keepTags else s

/-- Capability tag of the unit that starts at a byte, as the access sees it (R159). -/
def unitTag (s : State) (md : Mode) (c : Chunk) : Bool :=
  match c with
  | .lit _ _ => false
  | .at a => (match heldLine s md c.line with
    | some l => l.tags.getD (a % 64 / 16) false
    | none => s.capTags.contains (a / 16))
  | .far a => (match heldLine s md c.line with
    | some l => l.tags.getD (a % 64 / 16) false
    | none => s.farTag (a / 16))

/-- Sets or clears the tag of the unit that starts at a byte, whose bytes the step has written (R159). -/
def setUnitTag (s : State) (md : Mode) (c : Chunk) (tag : Bool) : State :=
  let line (s : State) (a : Nat) : State :=
    if md.l1 then updLine s md.die md.blk c.line fun l => { l with tags := l.tags.set (a % 64 / 16) tag } else s
  match c with
  | .lit _ _ => s
  | .at a => line { s with capTags := if tag then insNat (a / 16) s.capTags else s.capTags.filter (· != a / 16) } a
  | .far a => line (if tag then
      let bs := (List.range 16).map fun i => s.farByte (a + i)
      { s with puts := s.puts.filter (fun p => !(p.pa == a && p.bytes.length == 16)) ++ [⟨a, bs, true⟩] }
    else s) a

/-- Writes bytes at chunks, in order. -/
def writeChunks (s : State) (md : Mode) : List Chunk → List Byte → State
  | c :: cs, b :: bs => writeChunks (writeChunk s md c b) md cs bs
  | _, _ => s

/-- Drops a line of the issuing tile's L1 (R166: bypassing accesses). -/
def dropLine (s : State) (d blk line : Nat) : State :=
  updBuffers (s.updDie d fun x => { x with lines := x.lines.filter fun l => !(l.blk == blk && l.line == line) }) d blk
    fun ls => ls.filter (·.1 != line)

/-- Invalidates every line in the L1s of a region's tiles, and its stream ports' line buffers (R175, R186). -/
def invalidateL1 (s : State) (r : Region) : State :=
  let bs := r.blocks
  let s := s.updDie r.die fun x => { x with lines := x.lines.filter fun l => !bs.contains l.blk }
  s.updRegion r.die r.rblk fun r =>
    { r with cells := r.cells.map fun c => (c.1, { c.2 with rt := { c.2.rt with lines := [] } }) }

/-- Result of an access. -/
inductive Acc where
  | ok (bytes : List Byte) (s : State)
  /-- A fault: code, object offset of the first faulting byte, access tag for RACE. -/
  | bad (code ofs : Nat) (tag : W32) (s : State)

/-- Pieces of [o, o + n) by view element: (offset, size), in ascending element (R321). -/
def aperPieces (v o n : Nat) : List (Nat × Nat) :=
  (List.range ((o + n + v - 1) / v - o / v)).map fun i =>
    let lo := max o (v * (o / v + i))
    (lo, min (o + n) (v * (o / v + i + 1)) - lo)

/-- Chunks of one piece of a view. -/
def aperChunks (s : State) (ap : Aperture) (o n : Nat) (writes : Bool) : Option (List Chunk) :=
  (List.range n).mapM fun i => aperByte s ap (o + i) writes

/-- New tags of a plain access to chunks, or the tag that raises RACE and its granule: of the granules in which it reaches home (R172). -/
def plainTags (s : State) (md : Mode) (store : Bool) (cs : List Chunk) : Option (List (Nat × W32)) × W32 × Nat :=
  match md.plain with
  | none => (some [], 0, 0)
  | some t => tagsFor s t store (chunkGranules cs)

/-- Place in an access of its first byte in a granule of this module. -/
def firstIn (g : Nat) (cs : List Chunk) : Nat :=
  (cs.findIdx? fun c => match c with | .at a => a / 64 == g | .far _ => false | .lit _ l => l.any fun a => a / 64 == g).getD 0

/-- A byte of this module that cannot be read (R3, R309). -/
def chunkFails (s : State) (c : Chunk) : Bool :=
  match c with
  | .at a => s.bad.contains (a / 64)
  | .far _ => false
  | .lit _ l => l.any fun a => s.bad.contains (a / 64)

/-- The bytes at chunks, for a load from offset o up: from the L1, or at home, checked for errors and races there (R166, R172, R309). -/
def loadChunks (s : State) (md : Mode) (o : Nat) (cs : List Chunk) : Acc :=
  let s := needChunks s md cs
  match cs.findIdx? fun c => reachesHome s md c && chunkFails s c with
  | some i => .bad fcLasting (o + i) 0 s
  | none =>
    match plainTags s md false (cs.filter (reachesHome s md)) with
    | (none, tag, g) => .bad fcRace (o + firstIn g cs) tag s
    | (some l, _) => let r := readChunks (applyTags s l) md cs; .ok r.1 r.2

/-- A plain store of bytes at chunks from offset o up (R166, R172). -/
def storeChunks (s : State) (md : Mode) (o : Nat) (cs : List Chunk) (bs : List Byte) : Acc :=
  match plainTags s md true cs with
  | (none, tag, g) => .bad fcRace (o + firstIn g cs) tag s
  | (some l, _) => .ok bs (writeChunks (applyTags s l) md cs bs)

/-- Wants what a view byte is formed from, where that is a stash block of another module (R321). -/
def needAper (s : State) (ap : Aperture) (o : Nat) : State :=
  if fieldNat ap.ctl 0 4 == 3 then needPhys s (ap.stashAt (o / ap.elem)) (4 + 4 * fieldNat ap.ctl 8 4) else s

/-- First byte of [o, o + n) of a view that faults APERTURE (R292, R322). -/
def aperBad (s : State) (ap : Aperture) (o n : Nat) (writes : Bool) : Nat :=
  o + ((List.range n).findIdx? fun i => (aperByte s ap (o + i) writes).isNone).getD 0

/-- A load through an aperture, piece by piece: the piece that faults and those after it are not performed (R321, R322). -/
def loadAper (s : State) (md : Mode) (ap : Aperture) : List (Nat × Nat) → Acc
  | [] => .ok [] s
  | (o, n) :: rest =>
    let s := needAper s ap o
    match aperChunks s ap o n false with
    | none => .bad fcAperture (aperBad s ap o n false) 0 s
    | some cs =>
      match loadChunks s { md with l1 := false } o cs with
      | .ok bs s =>
        (match loadAper s md ap rest with
         | .ok more s => .ok (bs ++ more) s
         | r => r)
      | r => r

/-- A store through an aperture, piece by piece (R321, R322). -/
def storeAper (s : State) (md : Mode) (ap : Aperture) : List (Nat × Nat) → List Byte → Acc
  | [], _ => .ok [] s
  | (o, n) :: rest, bs =>
    match aperChunks s ap o n true with
    | none => .bad fcAperture (aperBad s ap o n true) 0 s
    | some cs =>
      match storeChunks s { md with l1 := false, keepTags := false } o cs bs with
      | .ok _ s => storeAper s md ap rest (bs.drop n)
      | r => r

/-- The aperture through which an access goes, if its object has one (R321). -/
def aperOf (s : State) (md : Mode) (oid o : Nat) (writes : Bool) : Option Aperture :=
  match translate s md.die md.blk oid o writes md.stash with
  | (.aper d k, _) => some ((s.die d).aper k)
  | _ => none

/-- Object offset of the first byte of a view access that faults because a special access, or one past the view's end, is none that an
aperture serves (R322). -/
def aperRefusal (ap : Aperture) (o : Nat) (special : Bool) : Nat := if special || !ap.ctl.getLsbD 63 then o else max o ap.viewBytes

/-- A load of n bytes at object offset o (R164, R166, R173). A capability access is special: no aperture serves it. -/
def loadAt (s : State) (md : Mode) (oid o n : Nat) (special : Bool) : Acc :=
  match aperOf s md oid o false with
  | some ap =>
    if special || ap.viewBytes < o + n then .bad fcAperture (aperRefusal ap o special) 0 s
    else loadAper s md ap (aperPieces ap.elem o n)
  | none =>
    match plan s md oid false (pieces o n) with
    | (.bad c x, s) => .bad c x 0 s
    | (.bytes cs, s) => loadChunks s md o cs

/-- A plain store of bytes at object offset o (R164, R166, R173). -/
def storeAt (s : State) (md : Mode) (oid o : Nat) (bs : List Byte) (special : Bool) : Acc :=
  match aperOf s md oid o true with
  | some ap =>
    if special || ap.viewBytes < o + bs.length then .bad fcAperture (aperRefusal ap o special) 0 s
    else storeAper s md ap (aperPieces ap.elem o bs.length) bs
  | none =>
    match plan s md oid true (pieces o bs.length) with
    | (.bad c x, s) => .bad c x 0 s
    | (.bytes cs, s) => storeChunks s md o cs bs

/-- Sets the tag of a synchronising write: STATE SYNC, SEQ the writer (R173). -/
def syncTags (s : State) (q : Nat) (cs : List Chunk) : State :=
  applyTags s ((chunkGranules cs).map fun g => (g, mkTag tagSync q))

/-- Drops the line of an access that bypasses the L1 from the issuing tile's L1 (R166). -/
def bypass (s : State) (md : Mode) (cs : List Chunk) : State :=
  match cs with
  | c :: _ => dropLine s md.die md.blk c.line
  | [] => s

/-- A synchronising or atomic read-modify-write at home (R169): f gives the new bytes, or none for no write. It bypasses
the L1 and invalidates the line in the issuing tile (R166). -/
def rmwAt (s : State) (md : Mode) (q oid o n : Nat) (writes : Bool) (f : List Byte → Option (List Byte)) : Acc :=
  match plan s md oid writes (pieces o n) with
  | (.bad c x, s) => .bad c x 0 s
  | (.bytes cs, s) =>
    let md := { md with l1 := false }
    let s := needChunks s md cs
    match cs.findIdx? (chunkFails s) with
    | some i => .bad fcLasting (o + i) 0 s
    | none =>
      let (old, s) := readChunks s md cs
      let s := match f old with
        | none => s
        | some new => syncTags (writeChunks s md cs new) q cs
      .ok old (bypass s md cs)

/-- A synchronising write of bytes (R169). -/
def syncStoreAt (s : State) (md : Mode) (q oid o : Nat) (bs : List Byte) : Acc :=
  match plan s md oid true (pieces o bs.length) with
  | (.bad c x, s) => .bad c x 0 s
  | (.bytes cs, s) =>
    let md := { md with l1 := false }
    .ok bs (bypass (syncTags (writeChunks s md cs bs) q cs) md cs)

/-- Place of a byte of an object: on this module or another. -/
def spotOf (s : State) (md : Mode) (oid o : Nat) (writes : Bool) : Option Chunk :=
  match translate s md.die md.blk oid o writes md.stash with
  | (.ok pa, _) => some (if s.isLocal pa then .at (paLocal pa) else .far pa)
  | _ => none

/-- Local address of a byte of an object, if it is memory of this module. -/
def addrOf (s : State) (md : Mode) (oid o : Nat) (writes : Bool) : Option Nat :=
  match spotOf s md oid o writes with
  | some (.at a) => some a
  | _ => none

/-- Physical address on another module of a byte of an object, if it lies there. -/
def remoteOf (s : State) (md : Mode) (oid o : Nat) (writes : Bool) : Option Nat :=
  match spotOf s md oid o writes with
  | some (.far a) => some a
  | _ => none

/-! Task-level edges (R171). -/

/-- Sequence numbers that packets in the launch units hold (R272). -/
def State.heldSeqs (s : State) : List Nat :=
  s.dies.flatMap fun d => (d.launch.held.toList ++ d.launch.conts).filterMap (·.seq)

/-- Oldest assigned task that has not completed, or the next number (G). -/
def State.watermark (s : State) : Nat :=
  (s.tasks.map (·.seq) ++ s.heldSeqs).foldl (fun g q => if seqBelow g q then q else g) s.module.nextSeq

/-- A task takes an edge that carries a watermark and a set (R171). -/
def takeSnapshot (s : State) (q : Nat) (e : Nat × List Nat) : State :=
  s.updTask q fun t =>
    let m := seqLater t.m e.1
    let a := ((t.acq ++ e.2).dedup).filter fun x => !seqBelow m x
    if 16 < a.length then { t with m := s.module.nextSeq, acq := [] } else { t with m := m, acq := a }

/-- A task takes an edge from another task (R171). -/
def takeEdge (s : State) (q : Nat) (from_ : Racer) : State := takeSnapshot s q (from_.m, from_.acq ++ [from_.seq])

/-- Die that is home to a local address; far addresses count by their CXL port (R160). -/
def homeDie (a : Nat) : Nat :=
  if isFar a then (a - Config.bondedEnd) / Config.farStride else a / Config.dieBytes

/-- Home memory tile of a granule: vault number in the bonded tier, CXL port beyond them in the far tier (R160). -/
def homeTile (g : Nat) : Nat :=
  if isFar (64 * g) then 4096 + (64 * g - Config.bondedEnd) / Config.farStride else 64 * g / Config.vaultBytes

/-- A release performed at home leaves the snapshot in the granule's record, with its scope and the die it comes from (R171, R190). -/
def putRelease (s : State) (d g : Nat) (t : Racer) (scope die : Nat) : State :=
  s.updDie d fun x =>
    let rest := x.releases.filter (·.gran != g)
    let mine := rest.filter fun r => homeTile r.gran == homeTile g
    let rest := if mine.length < Config.releaseRecords then rest
      else match mine with
        | o :: _ => rest.filter (·.gran != o.gran)
        | [] => rest
    { x with releases := rest ++ [⟨g, t.seq, t.m, t.acq, scope, die⟩] }

/-- The release record of a granule. -/
def getRelease (s : State) (d g : Nat) : Option RelRec := (s.die d).releases.find? (·.gran == g)

/-- Scopes that cover parties of the whole module (Table 11.10). -/
def scopeModule : Nat := 4

/-- An access of a scope on one die covers cells of another task on another die: those of its die at DIE, and of the module from MODULE on;
a narrower scope stays in its region, and so in its task (Table 11.10). -/
def scopeReaches (scope d e : Nat) : Bool := scopeModule ≤ scope || (scope == 3 && d == e)

/-- An acquire takes the edge of the record that it finds, where release and acquire cover each other at their scopes (R190), or the
fallback where there is none (R171). DEDUCED (log 52): a record whose release does not reach the acquire leaves V as it is. -/
def acquireEdge (s : State) (d g q scope die : Nat) : State :=
  match getRelease s d g with
  | some r => if scopeReaches r.scope r.die die && scopeReaches scope die r.die then takeEdge s q ⟨r.seq, r.m, r.acq⟩ else s
  | none => s.updTask q fun t => { t with m := s.module.nextSeq, acq := [] }

end Sys2Proof.Machine
end

