-- ==== Sys2Proof/Machine/Flags.lean ====
section
/-! DEFINITION. The status word st: sticky flags (R71), the compare bits (R100, R216) and the fields a program writes
(R200). -/

namespace Sys2Proof.Machine

/-- ORs flags into st[4:0] (R71). -/
def orFlags (r : Region) (f : FlagBits) : Region := { r with st := r.st ||| f.setWidth 64 }

/-- Clears st[4:0], as CFG does (R203). -/
def clearFlags (st : W64) : W64 := st &&& ~~~(0x1F#64)

/-- The RW fields of st (Table 13.2). -/
def stWritable : W64 := 0xFF

/-- WRST and RSTR write only the RW fields (R200). -/
def writeSt (st v : W64) : W64 := (st &&& ~~~stWritable) ||| (v &&& stWritable)

/-- CMPW: EQ, LT and LTU (Table 13.2, Table 13.4). -/
def compareSt (st a b : W64) : W64 :=
  (st &&& ~~~(0xE0#64)) ||| (if a = b then 0x20 else 0) ||| (if a.slt b then 0x40 else 0) ||| (if a.ult b then 0x80 else 0)

/-- The condition of a BRC (R100, R214). -/
def condHolds (st : W64) (cc : Nat) : Bool :=
  match cc with
  | 0 => st.getLsbD 5 | 1 => !st.getLsbD 5 | 2 => st.getLsbD 6 | 3 => !st.getLsbD 6 | 4 => st.getLsbD 7
  | _ => !st.getLsbD 7

end Sys2Proof.Machine
end

