-- ==== Sys2Proof/Machine/Operands.lean ====
section
/-! DEFINITION. Links, ports and firing: the fields of a cell (R11, R26, R43, Table 8.6), binding (R346), occupancy (R23),
the decoding of an input under its header (R66, R107), and the turn of a cell, in which it sends results that are due and
fires at most once, all or nothing (R23). -/

namespace Sys2Proof.Machine

/-! Fields of a cell. -/

namespace CellCfg

/-- Input field. -/
def inF (x : CellCfg) (p : Nat) : BitVec 10 := x.ins.getD p 0
/-- KIND of an input field (Table 1.2). -/
def inKind (x : CellCfg) (p : Nat) : Nat := fieldNat (x.inF p) 8 2
/-- INDEX of an input field. -/
def inIdx (x : CellCfg) (p : Nat) : Nat := fieldNat (x.inF p) 0 8
/-- Destination field (Table 1.3). -/
def outF (x : CellCfg) (m : Nat) : BitVec 32 := x.outs.getD m 0
/-- TARGET. -/
def target (x : CellCfg) (m : Nat) : Nat := fieldNat (x.outF m) 30 2
/-- TINDEX. -/
def tindex (x : CellCfg) (m : Nat) : Nat := fieldNat (x.outF m) 16 14
/-- PORT. -/
def tport (x : CellCfg) (m : Nat) : Nat := fieldNat (x.outF m) 14 2
/-- Slot count, SLOTS + 1. -/
def slots (x : CellCfg) (m : Nat) : Nat := fieldNat (x.outF m) 10 4 + 1
/-- ORDER. -/
def outOrder (x : CellCfg) (m : Nat) : Nat := fieldNat (x.outF m) 0 8
/-- LIN p (Table 4.1). -/
def lin (x : CellCfg) (p : Nat) : Nat := fieldNat x.lanes (6 * p) 6
/-- LOUT m. -/
def lout (x : CellCfg) (m : Nat) : Nat := fieldNat x.lanes (24 + 6 * m) 6
/-- DONE bit of destination m (Table 8.6). -/
def doneBit (x : CellCfg) (m : Nat) : Bool := x.memattr.getLsbD (6 + m)
/-- SCOPE of the done token. -/
def doneScope (x : CellCfg) : Nat := fieldNat x.memattr 3 3
/-- Colour of the cell's stores. -/
def colour (x : CellCfg) : Nat := fieldNat x.memattr 0 3
/-- SCOUT (Table 2.1). -/
def scout (x : CellCfg) : Bool := x.mode.getLsbD 0
/-- PULL. -/
def pull (x : CellCfg) : Bool := x.mode.getLsbD 1
/-- Constant c n. -/
def const (x : CellCfg) (n : Nat) : W64 := x.consts.getD n 0
/-- Modifiers of the operation word. -/
def mods (x : CellCfg) : Mods :=
  ⟨x.op.extractLsb' 26 5, x.op.extractLsb' 20 6, x.op.extractLsb' 17 3, x.op.extractLsb' 0 17⟩
/-- Opcode. -/
def opc (x : CellCfg) : Nat := fieldNat x.op 31 9
/-- Destinations that are bound and carry data (R182, R346). -/
def dataOuts (x : CellCfg) : List Nat := (List.range 4).filter fun m => x.target m != 0 && !x.doneBit m
/-- Destinations that carry done tokens. -/
def doneOuts (x : CellCfg) : List Nat := (List.range 4).filter fun m => x.target m != 0 && x.doneBit m

end CellCfg

/-- Does the cell send to port p of cell c? Its destination number. -/
def CellCfg.feeds (x : CellCfg) (c p : Nat) : Option Nat :=
  if x.op == 0 then none
  else (List.range 4).find? fun m => x.target m == 1 && x.tindex m == c && x.tport m == p

/-- The link that feeds port p of cell c: producer cell and destination (R22). -/
def Region.feeder (r : Region) (c p : Nat) : Option (Nat × Nat) :=
  r.cells.findSome? fun e => (e.2.cfg.feeds c p).map fun m => (e.1, m)

/-- Port p of cell c is bound (R346). A port that holds tokens of a return link is bound by that link (R232). -/
def Region.bound (r : Region) (c p : Nat) : Bool :=
  let x := r.cell c
  x.cfg.inF p != 0 || !(x.cfg.toks.getD p []).isEmpty || x.cfg.starts.getD p false ||
  !(x.rt.ports.getD p .empty).q.isEmpty || (r.feeder c p).isSome

/-! What a form uses. -/

namespace CellCfg

/-- A memory form of row 0x18 (Table 8.10). -/
def isMem (x : CellCfg) : Bool := 0x180 ≤ x.opc && x.opc ≤ 0x18E
/-- An emitter (R233). -/
def isEmitter (x : CellCfg) : Bool := 0x1D0 ≤ x.opc && x.opc ≤ 0x1E7
/-- A capability form that sends capabilities (R112, R154). -/
def sendsCap (x : CellCfg) : Bool :=
  ((0x020 ≤ x.opc && x.opc ≤ 0x023) || x.opc == 0x148) && 0x10 ≤ x.mods.rdstNat && x.mods.rdstNat ≤ 0x13
/-- A quantising form with RSDIN or RSDOUT. -/
def quant (x : CellCfg) : Bool := x.opc == 0x060 || x.opc == 0x061
/-- RSDIN. -/
def rsdIn (x : CellCfg) : Bool := x.quant && x.mods.modF 14 1 == 1
/-- RSDOUT. -/
def rsdOut (x : CellCfg) : Bool := x.quant && x.mods.modF 15 1 == 1

/-- Inputs in0 on that the form lists, without the after port. -/
def inputs (x : CellCfg) : Nat :=
  let m := x.mods
  let o := x.opc
  if o == 0 then 0
  else if o == 0x00A || o == 0x013 || o == 0x014 then 1
  else if o == 0x012 || o == 0x015 || o == 0x016 then 3
  else if o ≤ 0x016 then 2
  else if o == 0x025 then 4
  else if o ≤ 0x026 then 1
  else if o == 0x043 then 3
  else if 0x040 ≤ o && o ≤ 0x046 then 2
  else if o ≤ 0x04D then 1
  else if x.quant then (if x.rsdIn then 2 else 1)
  else if o ≤ 0x064 then 1
  else if o == 0x100 || o == 0x103 then 2
  else if o == 0x101 || o == 0x102 || o == 0x107 then 4
  else if o == 0x10C then (if m.modF 4 1 == 1 then 2 else 1)
  else if o ≤ 0x10E then 1
  else if o == 0x120 then 2
  else if o ≤ 0x124 then 1
  else if o == 0x140 then (if m.modF 10 1 == 1 then 2 else 1)
  else if o == 0x142 then 2
  else if o ≤ 0x149 then 1
  else if o == 0x181 || o == 0x185 || o == 0x187 || o == 0x18B then 2
  else if o == 0x183 then (if m.modF 2 1 == 1 then 1 else 2)
  else if o == 0x189 then (if m.modF 0 4 == 7 then 3 else 2)
  else if o ≤ 0x18E then 1
  else if o == 0x1A1 || o == 0x1A2 then 2
  else if o ≤ 0x1A3 then 1
  else if x.isEmitter then 2
  else if o == 0x1F4 then 2
  else 1

/-- Does the form use input p? -/
def usesIn (x : CellCfg) (p : Nat) : Bool := p < x.inputs || (p == 3 && x.isMem)

/-- A form that binds no destination of data: store-only and consuming forms (R148, R155, R182, Table 13.6). -/
def noData (x : CellCfg) : Bool :=
  [0x124, 0x149, 0x181, 0x183, 0x185, 0x187, 0x188, 0x18B, 0x1F0, 0x1F2].contains x.opc

/-- Does the form use destination m? -/
def usesOut (x : CellCfg) (m : Nat) : Bool :=
  if x.op == 0 then false
  else if x.noData then x.isMem && x.opc != 0x188 && x.doneBit m
  else if x.isEmitter || x.opc == 0x120 then m == 0
  else true

/-- Inputs that carry a control stream by the form: start, base, control, chain, residue, seed and after ports. -/
def ctlIn (x : CellCfg) (p : Nat) : Bool :=
  (p == 0 && [0x026, 0x101, 0x123, 0x141, 0x180].contains x.opc) ||
  (p == 1 && ([0x100, 0x103, 0x120, 0x140, 0x181].contains x.opc || x.quant || x.isEmitter)) || (p == 3 && x.isMem)

/-- Kinds that the form accepts on input p (R24, R107, R124, R128, R130, R141, R146, R147, R151, R179, R225, R233). -/
def kinds (x : CellCfg) (p : Nat) : List Kind :=
  let o := x.opc
  if o == 0x123 then [.ctl, .swp]
  else if x.quant && p == 1 then [.rsd]
  else if x.ctlIn p then [.ctl]
  else if x.isEmitter then [.val, .eor, .eot, .hdr, .ctl, .swp, .rsd, .bly]
  else if o == 0x063 then [.val, .eor, .eot, .hdr]
  else if o == 0x122 then [.val, .eor, .eot, .hdr, .swp]
  else if o == 0x142 && p == 1 then [.val, .ctl]
  else if o == 0x10B || o == 0x1F1 then [.val, .eor, .eot, .hdr, .ctl, .swp, .rsd]
  else [.val, .eor, .eot, .hdr, .ctl, .swp]

/-- Inputs whose order types the result: the listed link inputs that are no control inputs. An emitter's in0 is of any
order (Table 4.4). -/
def dataIns (x : CellCfg) (bound : Nat → Bool) : List Nat :=
  if x.isEmitter then []
  else (List.range 4).filter fun p => p < x.inputs && !x.ctlIn p && x.inKind p == 0 && bound p

end CellCfg

/-! Occupancy and delivery. -/

/-- Occupancy at the start of cycle t (R23): what was sent before t, and what this cycle has taken. -/
def occupancy (q : List Token) (popped popAt t : Nat) : Nat :=
  (q.filter fun k => decide (k.born < t)).length + (if popAt == t then popped else 0)

/-- Store and lane that stand in the link of destination m of cell c (R49). -/
def Region.storeAt (r : Region) (c m : Nat) : Option (Nat × Nat) :=
  let x := (r.cell c).cfg
  (List.range r.stores.length).findSome? fun i =>
    match r.stores[i]? with
    | some st =>
      (st.lanes.findIdx? fun l =>
        l.pcell == c && l.pout == m && x.target m == 1 && x.tindex m == l.ccell && x.tport m == l.cin).map fun j => (i, j)
    | none => none

/-- Is this the island port and lane? -/
def IPort.is (i : IPort) (d target isl b port lane : Nat) : Bool :=
  i.die == d && i.target == target && i.isl == isl && i.rblk == b && i.port == port && i.lane == lane

/-- The destination has an occupancy below its slot count at t (R23). -/
def hasRoom (s : State) (r : Region) (c m t : Nat) : Bool :=
  let x := (r.cell c).cfg
  if x.target m == 1 then
    let y := (r.cell (x.tindex m)).rt
    let p := match r.storeAt c m with
      | some (i, j) => ((r.stores[i]?).bind fun st => st.inq[j]?).getD .empty
      | none => y.ports.getD (x.tport m) .empty
    y.lost || occupancy p.q p.popped p.popAt t < x.slots m
  else
    match s.iports.find? (·.is r.die (x.target m) (x.tindex m) r.rblk (x.tport m) (x.lout m)) with
    | some i => occupancy i.q i.popped i.popAt t < x.slots m
    | none => true

/-- Adds a token at a port. -/
def Port.add (p : Port) (k : Token) : Port := { p with q := p.q ++ [k] }

/-- A token arrives at port p of a cell; a scout whose state a pre-emption has discarded takes none in (R35). -/
def CellRt.arrive (y : CellRt) (p : Nat) (k : Token) : CellRt :=
  if y.lost then y else { y with ports := modNth y.ports p (·.add k) }

/-- Adds a token to an island port, making the port's record on its first token. -/
def addIsland (l : List IPort) (d target isl b port lane : Nat) (k : Token) : List IPort :=
  if l.any (·.is d target isl b port lane) then
    l.map fun i => if i.is d target isl b port lane then { i with q := i.q ++ [k] } else i
  else l ++ [⟨d, target, isl, b, port, lane, [k], 0, 0, none, false⟩]

/-- Sends a token on destination m of cell c in cycle t (R13). -/
def sendTok (s : State) (d b c m t : Nat) (k : Token) : State :=
  match s.region d b with
  | none => s
  | some r =>
    let x := (r.cell c).cfg
    let k := { k with born := t }
    if x.target m == 1 then
      match r.storeAt c m with
      | some (i, j) =>
        s.updRegion d b fun r => { r with stores := modNth r.stores i fun st =>
          { st with inq := modNth st.inq j fun p => p.add k } }
      | none =>
        s.updRegion d b fun r => r.updRt (x.tindex m) fun y => y.arrive (x.tport m) k
    else if x.target m == 0 then s
    else { s with iports := addIsland s.iports d (x.target m) (x.tindex m) b (x.tport m) (x.lout m) k }

/-! Registers. -/

/-- Writes a result register by its code (Table 8.3). -/
def CellRt.setReg (y : CellRt) (code : Nat) (v : W64) : CellRt :=
  if code == 0 then y
  else if code ≤ 8 then { y with p := y.p.set (code - 1) v }
  else if code == 0x0E then { y with l0 := v }
  else if code == 0x0F then { y with l1 := v }
  else if 0x20 ≤ code then { y with g := y.g.set (code - 0x20) v }
  else y

/-- A VAL result enters l0 and l1 (Table 2.3). -/
def CellRt.shiftL (y : CellRt) (v : W64) : CellRt := { y with l1 := y.l0, l0 := v }

/-- Port p of a cell. -/
def CellRt.port (y : CellRt) (p : Nat) : Port := y.ports.getD p .empty

/-- Consumes the head of a port in cycle t: its slot frees in t + 1 (R13), the decoder follows headers and blocks (R66), the
run follows values and EORs (R41). -/
def Port.pop (p : Port) (t : Nat) : Port :=
  match p.q with
  | [] => p
  | k :: q =>
    let p := { p with q := q, popped := (if p.popAt == t then p.popped else 0) + 1, popAt := t }
    match k.kind with
    | .hdr => { p with hdr := some k.pay, blk := 0 }
    | .eor | .eot => { p with blk := 0, run := 0 }
    | .val =>
      if k.void then { p with run := p.run + 1 }
      else { p with run := p.run + 1, blk := (p.blk + 1) % 32,
                    scale := if p.blk == 0 then fieldNat k.pay 8 8 else p.scale }
    | .swp => if k.hid == .none then p else { p with swpAt := t + 1 }
    | _ => p

/-- Consumes the heads of ports; a capability in a hidden part goes to its k register, in a void firing too (R112, log 60). -/
def CellRt.take (y : CellRt) (t : Nat) (ps : List Nat) : CellRt :=
  ps.foldl (fun y p =>
    let y' := { y with ports := modNth y.ports p (·.pop t) }
    match (y.port p).q with
    | k :: _ => match k.hid with
      | .cap n c => if k.kind == .val && !k.void then { y' with k := y'.k.set n c } else y'
      | _ => y'
    | [] => y') y

/-! The context of a cell's turn. -/

/-- What a form reads: the state, its region, cell and modifiers, and the cycle. -/
structure Cx where
  s : State
  r : Region
  c : Nat
  x : Cell
  t : Nat
  m : Mods

namespace Cx

/-- Valid head of port p (R13). -/
def head (cx : Cx) (p : Nat) : Option Token :=
  match (cx.x.rt.port p).q with
  | k :: _ => if k.born < cx.t then some k else none
  | [] => none

/-- Port p is bound. -/
def bound (cx : Cx) (p : Nat) : Bool := cx.r.bound cx.c p

/-- Port p is a link input. -/
def isLink (cx : Cx) (p : Nat) : Bool := cx.x.cfg.inKind p == 0

/-- A register is pending (R29). -/
def pendingReg (cx : Cx) (code : Nat) : Bool := cx.x.rt.pending.contains code

/-- The constant or register operand of port p, if it is not pending (R106). -/
def regOperand (cx : Cx) (p : Nat) : Option W64 :=
  let i := cx.x.cfg.inIdx p
  if cx.x.cfg.inKind p == 1 then some (cx.x.cfg.const i)
  else if cx.pendingReg (0x20 + i) then none
  else some (cx.x.rt.g.getD i 0)

/-- Declared order of port p. -/
def orderIn (cx : Cx) (p : Nat) : Option OMap := cx.r.order (cx.x.cfg.inIdx p)

/-- Order of destination m. -/
def orderOut (cx : Cx) (m : Nat) : Option OMap := cx.r.order (cx.x.cfg.outOrder m)

/-- Order of the first data destination. -/
def orderOut0 (cx : Cx) : Option OMap :=
  match cx.x.cfg.dataOuts with
  | m :: _ => cx.orderOut m
  | [] => none

/-- k register n after the hidden parts at the heads of ports ps (R112). -/
def kreg (cx : Cx) (n : Nat) (ps : List Nat) : Cap :=
  (cx.x.rt.take cx.t (ps.filter fun p => (cx.head p).isSome)).k.getD n .none

/-- k register n is pending. -/
def kPending (cx : Cx) (n : Nat) : Bool := cx.pendingReg (0x10 + n)

/-- Block of the cell on its die. -/
def blk (cx : Cx) : Nat := cx.r.blockOf cx.c

/-- Entry j of codebook n of the cell's block (R65). -/
def book (cx : Cx) (n j : Nat) : Nat := (lookD (cx.s.die cx.r.die).books (cx.blk, n, j) 0).toNat

/-- Every destination of a list has room. -/
def room (cx : Cx) (ms : List Nat) : Bool := ms.all fun m => hasRoom cx.s cx.r cx.c m cx.t

end Cx

/-! Headers (R66, Table 6.3). -/

/-- FMT. -/
def hdrFmt (h : W64) : Nat := fieldNat h 0 5
/-- SCALE. -/
def hdrScale (h : W64) : Nat := fieldNat h 5 2
/-- CB. -/
def hdrCb (h : W64) : Nat := fieldNat h 7 4

/-- A header that meets Table 6.3 and R66 on its own. -/
def hdrValid (h : W64) : Bool :=
  h.toNat < 2048 && 1 ≤ hdrFmt h && hdrFmt h ≤ 14 && hdrScale h ≤ 1 &&
  (hdrScale h == 0 || 12 ≤ hdrFmt h) && (hdrCb h == 0 || hdrFmt h == 14)

/-- Headers that a form which only moves tokens accepts: any that meets Table 6.3 (R66, R244). -/
def hdrMove (h : W64) : Bool := hdrValid h

/-- A header of a format with no scale. -/
def plainHdr (ty : Nat) : W64 := BitVec.ofNat 64 ty

/-- Accepts only FMT = ty with SCALE 0. -/
def hdrOnly (ty : Nat) (h : W64) : Bool := hdrValid h && hdrFmt h == ty && hdrScale h == 0

/-- Accepts the headers of the floating-point forms (R117). -/
def hdrFloat (h : W64) : Bool := hdrValid h && 9 ≤ hdrFmt h

/-- Exact value of a payload under a header (R65-R67), at the block whose codebooks book reads. -/
def decodeUnder (book : Nat → Nat → Nat) (h v : W64) : FVal :=
  let f := hdrFmt h
  let x := if f == 14 then decodeF 11 (book (hdrCb h) (fieldNat v 0 4)) else decodeF f (v.toNat % 2 ^ tyWidth f)
  if hdrScale h == 1 then scaleF x (fieldNat v 8 8) else x

/-- Does the payload of a scaled VAL keep to its layout, and to its block's scale (R66)? Bits that must be zero make it refused (log 56). -/
def scaleOk (p : Port) (h v : W64) : Bool :=
  hdrScale h != 1 || (v.toNat < 2 ^ 16 && (hdrFmt h != 14 || fieldNat v 4 4 == 0) &&
    (p.blk == 0 || p.scale == fieldNat v 8 8))

/-- An operand of a form. -/
structure Operand where
  pay : W64
  port : Nat
  link : Bool
  deriving DecidableEq, Repr

namespace Cx

/-- The format under which port p decodes: its last header, or the form's default (R107). -/
def fmtOf (cx : Cx) (p dflt : Nat) : W64 := ((cx.x.rt.port p).hdr).getD (plainHdr dflt)

/-- Exact value of an operand of a floating-point form of TYPE ty. -/
def fArg (cx : Cx) (ty : Nat) (o : Operand) : FVal :=
  if o.link then decodeUnder cx.book (cx.fmtOf o.port ty) o.pay else decodeF ty (o.pay.toNat % 2 ^ tyWidth ty)

/-- The head of port p is refused under R24: its kind, its header, a run beyond a ragged bound (R41), a broken scale
(R66). -/
def refuses (cx : Cx) (p : Nat) (kinds : List Kind) (hdrOk : W64 → Bool) : Bool :=
  match cx.head p with
  | none => false
  | some k =>
    !kinds.contains k.kind ||
    (k.kind == .hdr && !hdrOk k.pay) ||
    (k.kind == .val &&
      ((match cx.orderIn p with
        | some o => o.ragged && o.runLen ≤ (cx.x.rt.port p).run
        | none => false) ||
       (!k.void && match (cx.x.rt.port p).hdr with
        | some h => !scaleOk (cx.x.rt.port p) h k.pay
        | none => false)))

end Cx

/-! Firing. -/

/-- What a firing does: tokens taken and sent, the VAL result and the register that takes it, flags, and the form's own
changes. -/
structure Effect where
  takes : List Nat := []
  sends : List (Nat × Token) := []
  /-- VAL result for l0 and l1 (Table 2.3), and the register that takes a value. -/
  val : Option W64 := none
  rdst : Nat := 0
  rdstVal : W64 := 0
  flags : FlagBits := 0
  upd : CellRt → CellRt := id
  after : State → State := id

/-- The turn of a form. -/
inductive Turn where
  /-- The firing rule does not hold. -/
  | idle
  /-- The head of this port is handled under R24. -/
  | reject (port : Nat)
  | act (e : Effect)
  /-- No firing: the cell only notes something about its head. -/
  | note (f : CellRt → CellRt)
  /-- A failed check: the firing does not take place and the region freezes (R114, R158). -/
  | violate (code : Nat) (a : Access)
  /-- No firing: the state changes as said. -/
  | wait (f : State → State)

/-- A cell's fault goes to the controller as ILLEGAL_OP, and the cell fires no more (R24). -/
def rejectAt (s : State) (r : Region) (c port : Nat) : State :=
  s.updRegion r.die r.rblk fun r =>
    { r.updRt c (fun y => { y with stopped := true }) with
      cellTraps := r.cellTraps ++ [⟨c, 0xFF00 + fcIllegal, some port⟩] }

/-- A cell acts in cycle t; a scout's acts do not count toward quiescence (R17, R35). -/
def Region.actBy (r : Region) (c t : Nat) : Region := if (r.cell c).cfg.scout then r else r.act t

/-- A firing takes a SWP (R30). -/
def Cx.takesSwp (cx : Cx) (ps : List Nat) : Bool := ps.any fun p => (cx.head p).any (·.kind == .swp)

/-- A SWP that a firing takes waits for a pending tl (R30). -/
def Cx.swpWaits (cx : Cx) (ps : List Nat) : Bool := cx.takesSwp ps && cx.pendingReg 64

/-- A firing takes a done token whose scope has its receiver read from home (R175). -/
def Cx.takesHome (cx : Cx) (ps : List Nat) : Bool := ps.any fun p => (cx.head p).any (·.home)

/-- The exchange of ta and tl (R30). -/
def CellRt.exchange (y : CellRt) : CellRt := { y with ta := y.tl, tl := y.ta }

/-- Performs a firing in cycle t, all or nothing (R23). A full destination is counted (Table 13.9). A SWP waits until tl is not
pending, and the cycle that takes it exchanges ta and tl once (R30). A done token of scope REGION or wider invalidates the
L1s of the region's tiles first (R168, Table 11.10). -/
def commit (cx : Cx) (e : Effect) : State :=
  let d := cx.r.die
  let b := cx.r.rblk
  if !cx.room (e.sends.map (·.1)) then
    cx.s.updRegion d b fun r => r.updRt cx.c fun y => { y with perfStalls := y.perfStalls + 1 }
  else if cx.swpWaits e.takes then cx.s
  else
    let s := if cx.takesHome e.takes then invalidateL1 cx.s cx.r else cx.s
    let s := s.updRegion d b fun r =>
      orFlags ((r.updRt cx.c fun y =>
        let y := if cx.takesSwp e.takes then y.exchange else y
        let y := e.upd (y.take cx.t e.takes)
        let y := y.setReg e.rdst e.rdstVal
        let y := match e.val with | some v => y.shiftL v | none => y
        { y with firings := y.firings + 1, perfFirings := y.perfFirings + 1, fired := cx.t + 1 }).actBy cx.c cx.t) e.flags
    e.after (e.sends.foldl (fun s mk => sendTok s d b cx.c mk.1 cx.t mk.2) s)

/-- An access's retry has failed: the record, the page's retirement and the abort of the task come next (R3, R309). -/
def accessFails (s : State) (p : Where) (src oid ofs : Nat) (ws : List Nat) : State :=
  s.soon [.failed p.die p.rblk p.seq src oid ofs ws]

/-- A fault that a page's absence raises. -/
def pageCode (code : Nat) : Bool := code == fcAbsent || code == fcProt || code == fcCow

/-- A failed check freezes the region (R114, R158); a page fault freezes the cell and opens the window, which a frozen region holds back
(R297, R298, R300); a read that its retry does not mend aborts the task (R309). -/
def cellFault (s : State) (r : Region) (c code : Nat) (a : Access) : State :=
  if pageCode code then
    let s := post s r.place code srcCell false 0 a.words
    let s := s.updRegion r.die r.rblk fun r => r.updRt c fun y => { y with stopped := true, faultReq := some s.module.nextReq }
    if r.frozen == .no then openWindow s r.seq (s.now r.die) else s
  else if code == fcLasting then accessFails s r.place srcTile a.oid a.ofs a.words
  else freeze s r code srcCell a.words

/-- Applies the turn of a form. A check that fails faults whether or not the destinations have room, which R114 leaves open (log 64). -/
def applyTurn (cx : Cx) : Turn → State
  | .idle => cx.s
  | .reject p => rejectAt cx.s cx.r cx.c p
  | .act e => commit cx e
  | .note f => cx.s.updRegion cx.r.die cx.r.rblk fun r => r.updRt cx.c f
  | .violate code a => cellFault cx.s cx.r cx.c code a
  | .wait f => f cx.s

/-- Sends the oldest result of a cell if it is due and its destinations have room (R27, R181). -/
def sendResult (s : State) (r : Region) (c t : Nat) : State :=
  let x := r.cell c
  match x.rt.results with
  | k :: rest =>
    let ms := (List.range 4).filter fun m => k.mask.testBit m
    if k.ready && k.due ≤ t && ms.all (fun m => hasRoom s r c m t) then
      let s := s.updRegion r.die r.rblk fun r =>
        (r.updRt c fun y =>
            let y := { y with results := rest, eotAt := if k.tok.kind == .eot then t + 1 else y.eotAt }
            if k.tok.kind == .val && !k.tok.void then y.shiftL k.tok.pay else y).actBy c t
      ms.foldl (fun s m => sendTok s r.die r.rblk c m t k.tok) s
    else s
  | [] => s

/-- A request is complete at a scope, as its cell's done token or release counts it (R175, R182). -/
def Req.complete (q : Req) (scope : Nat) : Bool :=
  match q.kind with
  | .prefetch => true
  | .store | .capStore | .strel => scope == 0 || (scope == 1 && q.accepted)
  | _ => false

/-- Every request of a cell numbered below n is complete at a scope. -/
def cellComplete (s : State) (d b c n scope : Nat) : Bool :=
  s.reqs.all fun q => !(q.die == d && q.rblk == b && q.cell == c && q.id < n) || q.complete scope

/-- A CTL sent as a done token of a scope: of REGION or wider it has its receiver read from home (R175). -/
def Token.doneTok (scope : Nat) : Token := { Token.plain .ctl 0 with home := decide (2 ≤ scope) }

/-- Sends a done token that is due (R182). -/
def sendDone (s : State) (r : Region) (c t : Nat) : State :=
  let x := r.cell c
  match x.rt.done with
  | n :: rest =>
    let ms := x.cfg.doneOuts
    let owing := (x.rt.results.filter fun k => k.tok.kind == .eot).length
    if owing < x.rt.done.length && cellComplete s r.die r.rblk c n x.cfg.doneScope &&
       ms.all (fun m => hasRoom s r c m t) then
      let s := s.updRegion r.die r.rblk fun r => (r.updRt c fun y => { y with done := rest }).actBy c t
      ms.foldl (fun s m => sendTok s r.die r.rblk c m t (.doneTok x.cfg.doneScope)) s
    else s
  | [] => s

/-- The context of a cell, unless it cannot act. -/
def cxOf (s : State) (d b c : Nat) : Option Cx :=
  (s.region d b).map fun r =>
    let x := r.cell c
    ⟨s, r, c, x, s.now d, x.cfg.mods⟩

/-- A scout fires only while its count less its leader's is below 256 (R35). -/
def paced (r : Region) (c : Nat) : Bool :=
  let x := r.cell c
  !x.cfg.scout || x.rt.firings < (r.cell x.cfg.leader.toNat).rt.firings + 256

/-- The lowest link port at whose head stands a token of a kind that the form does not accept (R24). -/
def Cx.wrongKind (cx : Cx) : Option Nat :=
  (List.range 4).find? fun p =>
    cx.x.cfg.usesIn p && cx.isLink p && (cx.head p).any fun k => !(cx.x.cfg.kinds p).contains k.kind

/-- The turn of the cell in focus: a result that is due, then the kinds at its heads, which stop it whatever else holds it back (R24), then
tokens owed from an earlier firing, then the form itself, once a DIV or REM of earlier is over (R108). -/
def cellTurn (s : State) (m : Mods) (form : Cx → Turn) : Out :=
  let d := s.focus.die
  let b := s.focus.rblk
  let c := s.focus.cell
  match s.region d b with
  | none => .fault .noActor
  | some r =>
    if r.cellCount ≤ c then .fault .noActor
    else if !r.live then .next s
    else
      let t := s.now d
      let s := sendResult s r c t
      let r := (s.region d b).getD r
      let x := r.cell c
      let cx : Cx := ⟨s, r, c, x, t, m⟩
      if x.rt.stopped || x.rt.lost then .next s
      else match cx.wrongKind with
      | some p => .next (rejectAt s r c p)
      | none =>
        if x.rt.fired == t + 1 || !paced r c then .next s
        else match x.rt.owed with
        | (mask, k) :: rest =>
          .next (commit cx
            { sends := ((List.range 4).filter fun m => mask.testBit m).map fun m => (m, k)
              val := if k.kind == .val && !k.void then some k.pay else none
              upd := fun y => { y with owed := rest } })
        | [] => if t < x.rt.busy then .next s else .next (applyTurn cx (form cx))

/-- Port under which a cell waits for what its turn lacks of other modules. -/
def cellPort : Nat := 69

/-- A token on every data destination. -/
def Cx.toAll (cx : Cx) (k : Token) : List (Nat × Token) := cx.x.cfg.dataOuts.map fun m => (m, k)

/-- Mask of the data destinations. -/
def Cx.outMask (cx : Cx) : Nat := cx.x.cfg.dataOuts.foldl (fun a m => a + 2 ^ m) 0

/-- A void VAL. -/
def Token.voidVal : Token := ⟨.val, 0, true, .none, 0, false⟩

/-- Kinds that the element-wise forms accept (R107). -/
def markKinds : List Kind := [.val, .eor, .eot, .hdr, .ctl, .swp]

/-- The marker a form forwards: payload 0 for EOR and EOT, the lowest input's payload for CTL and SWP, the output header for
HDR (R107). -/
def markerOf (k : Token) (outHdr : W64) : Token :=
  match k.kind with
  | .hdr => .plain .hdr outHdr
  | .ctl => .plain .ctl k.pay
  | .swp => .plain .swp k.pay
  | o => .plain o 0

/-- Valid heads of ports, if each has one. -/
def Cx.heads (cx : Cx) (ps : List Nat) : Option (List Token) := ps.mapM cx.head

/-- The operands of a form on ports ps: registers and constants, or the heads of links. -/
def Cx.operands (cx : Cx) (ps : List Nat) : Option (List Operand) :=
  ps.mapM fun p =>
    if cx.isLink p then (cx.head p).map fun k => ⟨k.pay, p, true⟩
    else (cx.regOperand p).map fun v => ⟨v, p, false⟩

/-- What an element-wise form gives for a set of operands. -/
inductive Fire where
  | hold
  | reject (port : Nat)
  | value (v : W64) (flags : FlagBits)
  | eff (e : Effect)
  | violate (code : Nat) (a : Access)

/-- The shared firing rule of the element-wise forms on ports ps (R106-R108). f is the form's effect on values. -/
def elemTurn (cx : Cx) (ps : List Nat) (hdrOk : Nat → W64 → Bool) (outHdr : W64) (f : List Operand → Fire) : Turn :=
  let links := ps.filter cx.isLink
  match links.find? fun p => cx.refuses p markKinds (hdrOk p) with
  | some p => .reject p
  | none =>
    if !ps.all cx.bound then .idle
    else if cx.m.rdstNat != 0 && cx.pendingReg cx.m.rdstNat then .idle
    else
      match cx.operands ps, cx.heads links with
      | some os, some (k :: ks) =>
        match ((links.zip (k :: ks)).find? fun pk => pk.2.kind != k.kind) with
        | some pk => .reject pk.1
        | none =>
          if k.kind == .val then
            if (k :: ks).any (·.void) then .act { takes := links, sends := cx.toAll .voidVal }
            else match f os with
              | .hold => .idle
              | .reject p => .reject p
              | .violate c a => .violate c a
              | .eff e => .act { e with takes := links ++ e.takes }
              | .value v fl =>
                .act { takes := links, sends := cx.toAll (.plain .val v), val := some v, rdst := cx.m.rdstNat,
                       rdstVal := v, flags := fl }
          else .act { takes := links, sends := cx.toAll (markerOf k outHdr) }
      | _, _ => .idle

/-- Payload of operand i. -/
def opPay (os : List Operand) (i : Nat) : W64 := match os[i]? with | some o => o.pay | none => 0

/-- Operand i. -/
def opAt (os : List Operand) (i : Nat) : Operand := os.getD i ⟨0, 0, false⟩

end Sys2Proof.Machine
end

