-- ==== Sys2Proof/Machine/Capability.lean ====
section
/-! DEFINITION. The capability forms (R111-R114) and the generator CTR (R116). -/

namespace Sys2Proof.Machine

/-- The access a capability form's fault names: the firing touches no memory, so the offset is the cursor. -/
def capAccess (cx : Cx) (k : Cap) (need : Nat) (i : Nat) : Access :=
  ⟨cx.c, 0, 0, 255, false, k.oid, k.cursor, need, 0, i, [], cx.x.rt.firings⟩

/-- Sends K' of a capability form: v is the cursor; with RDST = kn, own kn takes K' and every cell destination carries it
(R111, R112, Table 9.3). -/
def sendCap (cx : Cx) (k : Cap) : Fire :=
  let v := BitVec.ofNat 64 k.cursor
  let rd := cx.m.rdstNat
  let n := rd - 0x10
  let tok : Token := if rd == 0 then .plain .val v else ⟨.val, v, false, .cap n k, 0, false⟩
  .eff { sends := cx.toAll tok, val := some v, upd := fun y => if rd == 0 then y else { y with k := y.k.set n k } }

/-- A capability form on K = k KS (R111). A failed check faults in a scout as elsewhere, since R35 exempts loads and prefetches
alone (R114). in0 takes the header of TYPE with SCALE 0, of which no rule speaks (log 64). -/
def capFormTurn (s : State) (m : Mods) (need : Nat) (f : Cap → W64 → Option Cap) : Out :=
  cellTurn s m fun cx =>
    let n := m.modF 0 2
    elemTurn cx [0] (fun _ => hdrOnly m.tyNat) (plainHdr m.tyNat) fun os =>
      if cx.kPending n || (m.rdstNat != 0 && cx.kPending (m.rdstNat - 0x10)) then .hold
      else
        let k := cx.kreg n [0]
        let bad (code : Nat) : Fire := .violate code (capAccess cx k need (opPay os 0).toNat)
        if !k.tag then bad fcTag
        else if k.rights &&& need != need then bad fcRights
        else match f k (opPay os 0) with
          | some k' => sendCap cx k'
          | none => bad fcBounds

/-- CAPOFS: cursor := (K.cursor + a x 2^LSZ) mod 2^44 (R111). -/
def execCapofs (m : Mods) (s : State) : Out :=
  capFormTurn s m 0 fun k a =>
    some (k.withCursor (((k.cursor : Int) + a.toInt * (2 ^ m.modF 2 3 : Nat)) % (2 ^ 44 : Nat)).toNat)

/-- CAPSET: cursor := (base(K) + a) mod 2^44 (R111). -/
def execCapset (m : Mods) (s : State) : Out :=
  capFormTurn s m 0 fun k a => some (k.withCursor (((k.base : Int) + a.toInt) % (2 ^ 44 : Nat)).toNat)

/-- The narrowed capability of CAPNAR, or none for CAP_BOUNDS (R111). -/
def narrowCap (k : Cap) (a : Nat) (exact : Bool) : Option Cap :=
  let lo := k.cursor
  let hi := lo + a
  if 2 ^ 44 < hi then none
  else match smallestBounds lo hi with
    | none => none
    | some (e, bb, bt) =>
      if bb * 2 ^ e < k.base || k.top < bt * 2 ^ e then none
      else if exact && !(bb * 2 ^ e == lo && bt * 2 ^ e == hi) then none
      else some (k.withBounds e bb bt)

/-- CAPNAR needs the derive right (R111). -/
def execCapnar (m : Mods) (s : State) : Out :=
  capFormTurn s m rDerive fun k a => narrowCap k a.toNat (m.modF 2 1 == 1)

/-- CAPRGT: rights AND MASK AND a[7:0]; needs the derive right (R111). -/
def execCaprgt (m : Mods) (s : State) : Out :=
  capFormTurn s m rDerive fun k a => some (k.withRights (k.rights &&& m.modF 2 8 &&& a.toNat % 256))

/-- The field CAPTAG sends (R113). -/
def capField (k : Cap) (sel : Nat) : Nat :=
  match sel with
  | 0 => boolNat k.tag | 1 => k.rights | 2 => k.cursor | 3 => k.base | 4 => k.top | _ => k.oid

/-- CAPTAG never faults (R113). -/
def execCaptag (m : Mods) (s : State) : Out :=
  cellTurn s m fun cx =>
    let n := m.modF 0 2
    elemTurn cx [0] (fun _ => hdrOnly m.tyNat) (plainHdr m.tyNat) fun _ =>
      if cx.kPending n then .hold else .value (BitVec.ofNat 64 (capField (cx.kreg n [0]) (m.modF 2 3))) 0

/-- What a generator sends as its item of number n: the elements of each run of its lane in pattern order, an EOR after each
run, and the EOT (R42, R116). -/
inductive Item where
  | elem (cyc : Nat)
  | eor
  | eot
  deriving DecidableEq, Repr

/-- Item n of a tensor of a map without ragged levels. -/
def itemOf (o : OMap) (n : Nat) : Item :=
  let per := o.runLen + 1
  if n == o.runs * per then .eot
  else if n % per == o.runLen then .eor
  else .elem (n / per * o.runLen + n % per)

/-- CTR's value of an element (R116). -/
def ctrValue (cx : Cx) (o : OMap) (lane cyc : Nat) : W64 :=
  let xs := o.coords lane cyc
  let c (n : Nat) : Int := intOf cx.m.tyNat (cx.x.cfg.const n)
  ofInt cx.m.tyNat ((List.range 4).foldl (fun a d => a + (xs.getD d 0 : Int) * c (d + 1)) (c 0))

/-- CTR: each CTL starts a generation of one token per cycle; the next begins in the cycle after its EOT (R116). -/
def execCtr (m : Mods) (s : State) : Out :=
  cellTurn s m fun cx =>
    match cx.orderOut0 with
    | none => .idle
    | some o =>
      if cx.refuses 0 [.ctl] (fun _ => true) then .reject 0
      else
        match cx.x.rt.gen, cx.head 0 with
        | none, none => .idle
        | gen, _ =>
          let g := gen.getD ⟨0, 0⟩
          let takes := if gen.isNone then [0] else []
          let more (y : CellRt) : CellRt := { y with gen := some { g with next := g.next + 1 } }
          match itemOf o g.next with
          | .eot => .act { takes := takes, sends := cx.toAll (.plain .eot 0), upd := fun y => { y with gen := none } }
          | .eor => .act { takes := takes, sends := cx.toAll (.plain .eor 0), upd := more }
          | .elem k =>
            let v := ctrValue cx o (cx.x.cfg.lout 0) k
            .act { takes := takes, sends := cx.toAll (.plain .val v), val := some v, upd := more }

end Sys2Proof.Machine
end

