-- ==== Sys2Proof/Machine/Requests.lean ====
section
/-! DEFINITION. Requests of cells to memory (R181): how one is issued, performed at its memory tile (R164-R173), refused there
(R174, R297, R300), landed (R29) and acknowledged (R175), with the future transitions (R194-R198) and the monitors
(R192). -/

namespace Sys2Proof.Machine

/-! Issue. -/

/-- The access record of a cell's request (R292, Table 22.3). -/
def Cx.access (cx : Cx) (port acc order : Nat) (k : Cap) (ofs : Int) (rights base : Nat) : Access :=
  { cell := cx.c, port := port, acc := acc, order := order, pitch := false, oid := k.oid,
    ofs := (ofs % (2 ^ 44 : Nat)).toNat, rights := rights, tstate := 0, base := base, strides := [], pos := cx.x.rt.firings }

/-- A request with the fields that its cell gives it, on capability k at byte ofs for size bytes. -/
def Cx.request (cx : Cx) (kind : ReqKind) (k : Cap) (ofs size : Nat) (a : Access) : Req :=
  { id := cx.s.module.nextReq, kind := kind, die := cx.r.die, rblk := cx.r.rblk, cell := cx.c, port := a.port, cap := k,
    ofs := ofs, size := size, data := 0, data2 := 0, capData := .none, form := 0, scope := 0, mask := 0,
    colour := cx.x.cfg.colour, acq := false, rel := false, ty := cx.m.tyNat, rdst := 0, stage := .queued, issued := cx.t,
    value := 0, capValue := .none, tileValue := [], stride := 0, void := false, scout := cx.x.cfg.scout, accepted := true,
    acc := a }

/-- Puts a request out. -/
def issueReq (s : State) (q : Req) : State :=
  { s with reqs := s.reqs ++ [{ q with id := s.module.nextReq }],
           module := { s.module with nextReq := s.module.nextReq + 1 } }

/-- Operation code of an atomic or synchronising request to another module: ATOM forms as coded, then LDACQ, STREL, MONW and
the future forms (log 39). -/
def remoteCode (q : Req) : Nat :=
  match q.kind with
  | .ldacq => 8 | .strel => 9 | .monw => 10 | .futnew => 11 | .futreg => 12 | .futres => 13 | .futget => 14 | _ => q.form

/-- Requests in flight at the memory tile of a block. -/
def State.inFlight (s : State) (d blk : Nat) : Nat :=
  (s.reqs.filter fun q => q.die == d && (match s.region q.die q.rblk with | some r => r.blockOf q.cell | none => 0) == blk).length

/-- The tile of the cell's block takes n more requests: it has 512 in flight at most (Table 0.1). -/
def tileRoom (cx : Cx) (n : Nat) : Bool := decide (cx.s.inFlight cx.r.die cx.blk + n ≤ Config.tileRequests)

/-! Faults found at a memory tile (R174, R292, R297, R300). -/

/-- The cell freezes at a page fault: later requests and the results behind them go (R297). -/
def freezeCell (s : State) (q : Req) : State :=
  let s := s.updRegion q.die q.rblk fun r => r.updRt q.cell fun y =>
    { y with stopped := true, faultReq := some q.id, gen := none,
             results := y.results.takeWhile fun k => k.req == 0 || k.req < q.id }
  { s with reqs := s.reqs.filter fun x => !(x.die == q.die && x.rblk == q.rblk && x.cell == q.cell && q.id ≤ x.id) }

/-- A fault of a request at the byte ofs of its object; tag is the access tag that raised RACE. -/
def reqFault (s : State) (q : Req) (code ofs : Nat) (tag : W32) : State :=
  match s.region q.die q.rblk with
  | none => s.dropReq q.id
  | some r =>
    if q.scout || q.kind == .prefetch then
      s.updReq q.id fun x => { x with stage := .performed, void := true }
    else
      let a := { q.acc with ofs := ofs, tstate := if code == fcRace then fieldNat tag 0 2 else 0 }
      if pageCode code then
        let s := freezeCell (post s r.place code srcCell false 0 a.words) q
        if r.frozen == .no then openWindow s r.seq (s.now q.die) else s
      else if code == fcRace || code == fcTwice then
        let s := post s r.place code srcTile true (if code == fcRace then fieldNat tag 8 24 else 0) a.words
        (s.updRegion q.die q.rblk fun r =>
          { r.updRt q.cell (fun y => { y with stopped := true, results := y.results.filter (·.req != q.id) }) with
            cellTraps := r.cellTraps ++ [⟨q.cell, 0xFF00 + code, none⟩] }).dropReq q.id
      else if code == fcLasting then
        accessFails (s.updReq q.id fun x => { x with stage := .faulted }) r.place srcTile q.cap.oid ofs a.words
      else
        (freeze s r code srcTile a.words).updReq q.id fun x => { x with stage := .faulted }

/-! Performing a request. -/

/-- Memory tile of a request's cell. -/
def Req.blk (q : Req) (s : State) : Nat := match s.region q.die q.rblk with | some r => r.blockOf q.cell | none => 0

/-- Task of a request's region. -/
def Req.seq (q : Req) (s : State) : Nat := match s.region q.die q.rblk with | some r => r.seq | none => 0

/-- How a cell's request is made: plain requests through the L1 and checked for races, unless the cell is a scout (R35). -/
def Req.mode (q : Req) (s : State) : Mode :=
  { die := q.die, blk := q.blk s, l1 := true, plain := if q.scout then none else some (s.racer (q.seq s)), stash := false,
    keepTags := false,
    buf := match s.region q.die q.rblk with | some r => (r.cell q.cell).rt.lines | none => [] }

/-- Ends the performing of a request with its value. -/
def performed (s : State) (q : Req) (f : Req → Req) : State :=
  s.updReq q.id fun x => f { x with stage := .performed }

/-- Counts an L1 hit or miss for the line of a byte (R229). -/
def countLine (s : State) (md : Mode) (oid o : Nat) : State :=
  match spotOf s md oid o false with
  | some c => countHit s md.die md.blk (heldLine s md c.line).isSome
  | none => s

/-- A load, or a key record read. -/
def performLoad (s : State) (q : Req) : State :=
  let md := q.mode s
  match loadAt (countLine s md q.cap.oid q.ofs) md q.cap.oid q.ofs q.size false with
  | .bad c o t s => reqFault s q c o t
  | .ok bs s => performed s q fun x => { x with value := extendTy q.ty (leNat bs) }

/-- A capability load takes bits and tag of one unit together, from the L1 or from home (R159, R166, R167, R185). -/
def performCapLoad (s : State) (q : Req) : State :=
  let md := q.mode s
  match loadAt (countLine s md q.cap.oid q.ofs) md q.cap.oid q.ofs 16 true with
  | .bad c o t s => reqFault s q c o t
  | .ok bs s =>
    let c : Cap := ⟨BitVec.ofNat 128 (leNat bs), (spotOf s md q.cap.oid q.ofs false).elim false (unitTag s md)⟩
    performed s q fun x => { x with capValue := c, value := BitVec.ofNat 64 c.cursor }

/-- A plain store (R166). -/
def performStore (s : State) (q : Req) : State :=
  match storeAt s (q.mode s) q.cap.oid q.ofs (natLe q.size q.data.toNat) false with
  | .bad c o t s => reqFault s q c o t
  | .ok _ s => performed s q id

/-- A capability store sets or clears the unit's tag with the bits (R159). -/
def performCapStore (s : State) (q : Req) : State :=
  let md := { q.mode s with keepTags := true }
  match storeAt s md q.cap.oid q.ofs (natLe 16 q.capData.bits.toNat) true with
  | .bad c o t s => reqFault s q c o t
  | .ok _ s =>
    let s := match spotOf s md q.cap.oid q.ofs true with
      | some c => setUnitTag s md c q.capData.tag
      | none => s
    performed s q id

/-- Element i of a tile request and the elements after it (R144): the values read, and the fault that ends the request. -/
def tileLoads (s : State) (md : Mode) (q : Req) : Nat → Nat → List W64 × Option (Nat × Nat × Nat × W32) × State
  | 0, _ => ([], none, s)
  | n + 1, i =>
    let o := q.ofs + i * q.stride * q.size
    match loadAt s md q.cap.oid o q.size false with
    | .bad c x t s => ([], some (c, i, x, t), s)
    | .ok bs s =>
      let (vs, f, s) := tileLoads s md q n (i + 1)
      (extendTy q.ty (leNat bs) :: vs, f, s)

/-- A tile load: each element is read on its own (R144). -/
def performTile (s : State) (q : Req) : State :=
  let md := q.mode s
  match tileLoads (countLine s md q.cap.oid q.ofs) md q 16 0 with
  | (_, some (c, i, o, t), s) => reqFault s { q with acc := { q.acc with pos := q.acc.pos + i } } c o t
  | (vs, none, s) => performed s q fun x => { x with tileValue := vs }

/-- A prefetch fills a line and changes no tag; one that would fault is dropped (R186). -/
def performPrefetch (s : State) (q : Req) : State :=
  let md := q.mode s
  let s := match spotOf s md q.cap.oid q.ofs false with
    | none => s
    | some c =>
      if chunkFails s c then s
      else
        let s := needChunks s md [c]
        if q.form == 1 then
          s.updRegion q.die q.rblk fun r => r.updRt q.data.toNat fun y =>
            if y.lines.any (·.1 == c.line) then y
            else { y with lines := (y.lines ++ [(c.line, lineData s c.line)]).drop (y.lines.length + 1 - 8) }
        else if ((s.die q.die).line md.blk c.line).isSome then s else fillLine s q.die md.blk c.line
  s.dropReq q.id

/-- New value of an ATOM, or none where a CAS makes no write (R189). -/
def atomNew (form ty : Nat) (old b c : W64) : Option Nat :=
  let w := tyWidth ty
  let o := intOf ty old
  let x := intOf ty b
  let m : W64 := match form with
    | 0 => ofInt ty (o + x)
    | 1 => if x < o then b else old
    | 2 => if o < x then b else old
    | 3 => old &&& b
    | 4 => old ||| b
    | 5 => old ^^^ b
    | 6 => b
    | _ => c
  if form == 7 && old.toNat % 2 ^ w != b.toNat % 2 ^ w then none else some (m.toNat % 2 ^ w)

/-- The edges of an acquire and a release of a request on the granule of an address (R168, R171, R190). -/
def syncEdges (s : State) (q : Req) (a task : Nat) : State :=
  let s := if q.acq then acquireEdge s (homeDie a) (a / 64) task q.scope q.die else s
  if q.rel then putRelease s (homeDie a) (a / 64) (s.racer task) q.scope q.die else s

/-- An acquire that meets no snapshot of a task of this module: its own release record lies elsewhere (R171). -/
def farAcquire (s : State) (q : Nat) : State := s.updTask q fun t => { t with m := s.module.nextSeq, acq := [] }

/-- What an atomic or synchronising request has another module do (R315). -/
def Req.wants (q : Req) (pa : Nat) (y : W64) : Want := .sync pa q.size (remoteCode q) q.ty q.data y

/-- An atomic or synchronising request to another module: its old word, once it is there (R315). -/
def performFar (s : State) (q : Req) (pa : Nat) (y : W64) (f : State → Nat → Nat → State) : State :=
  let w := q.wants pa y
  match s.answer w with
  | none => s.want w
  | some a => f (bypass s (q.mode s) [.far pa]) (leNat a.bytes) a.num

/-- An ATOM, LDACQ, STREL or MONW at home (R169, R189, R190, R192). f gives the bytes written. -/
def performSync (s : State) (q : Req) (writes : Bool) (f : W64 → Option Nat) (after : State → Nat → Option Nat → State) : State :=
  let md := q.mode s
  let task := q.seq s
  match remoteOf s md q.cap.oid q.ofs writes with
  | some pa => performFar s q pa q.data2 fun s v n =>
      let s := if q.acq then farAcquire s task else s
      performed (after s (pa / 64 + 2 ^ 50) (some n)) q fun x => { x with value := extendTy q.ty v }
  | none =>
    match rmwAt s md task q.cap.oid q.ofs q.size writes fun old => (f (extendTy q.ty (leNat old))).map (natLe q.size) with
    | .bad c o t s => reqFault s q c o t
    | .ok old s =>
      let s := match addrOf s md q.cap.oid q.ofs writes with
        | some a => after (syncEdges s q a task) (a / 64) none
        | none => s
      performed s q fun x => { x with value := extendTy q.ty (leNat old) }

/-- Adds a monitor; the oldest of a full home tile goes (R192). -/
def addMonitor (s : State) (m : Monitor) : State :=
  let mine := s.monitors.filter fun x => homeTile x.gran == homeTile m.gran
  if mine.length < Config.monitorsPerTile then { s with monitors := s.monitors ++ [m] }
  else match mine with
    | o :: _ => tellPeer false { s with monitors := s.monitors.filter (·.num != o.num) ++ [m] } o
    | [] => { s with monitors := s.monitors ++ [m] }

/-- The actor of a request. -/
def reqFocus (n : Nat) : Focus := { Focus.none with port := 64, id := n }

/-- A monitor of this module is gone: the module on whose granule it stood lets it go as well (R192, log 39). -/
def disarm (s : State) (m : Monitor) : State :=
  match m.link with
  | none => s
  | some tag => if m.woken then s
    else sendFlit s (requestFlit s 4 noTag ((m.gran - 2 ^ 50) * 64) 64 (natLe 1 codeDisarm ++ natLe 2 tag))

/-- Drops the monitors of this module that p picks, as a re-arming or a pre-emption does (R192). -/
def dropMonitors (s : State) (p : Monitor → Bool) : State :=
  let gone (m : Monitor) : Bool := m.peer.isNone && p m
  (s.monitors.filter gone).foldl disarm { s with monitors := s.monitors.filter (!gone ·) }

/-- Arms the cell's monitor on a granule, in place of any it held (R192). The request keeps the monitor's number in data, for the value
that it returns. A granule of another module, beyond every one of this module, holds its place there; link is the request's tag. -/
def armMonitor (s : State) (q : Req) (g : Nat) (link : Option Nat) : State :=
  let n := s.module.nextMon
  let s := dropMonitors (s.updReq q.id fun x => { x with data := BitVec.ofNat 64 n })
    fun m => m.die == q.die && m.rblk == q.rblk && m.cell == q.cell
  let s := s.updMod fun x => { x with nextMon := n + 1 }
  let m : Monitor := ⟨n, g, q.die, q.rblk, q.cell, q.scope, false, none, link⟩
  if link.isNone then addMonitor s m else { s with monitors := s.monitors ++ [m] }

/-! Futures (R194-R198). -/

/-- STATE of a future word. -/
def futState (w : Nat) : Nat := w / 2 ^ 62 % 4
/-- WAIT. -/
def futWait (w : Nat) : Nat := w / 2 ^ 40 % 2 ^ 22
/-- CURSOR. -/
def futCursor (w : Nat) : Nat := w % 2 ^ 40
/-- A future word from its fields; WAIT saturates (Table 12.2). -/
def mkFuture (st wait cur : Nat) : Nat := st * 2 ^ 62 + min wait (2 ^ 22 - 1) * 2 ^ 40 + cur % 2 ^ 40

/-- Reads n bytes of an object, synchronising; the fault or the number. -/
def syncRead (s : State) (md : Mode) (oid o n : Nat) (writes : Bool) : Nat × Nat × State :=
  match rmwAt s md 0 oid o n writes fun _ => none with
  | .ok bs s => (0, leNat bs, s)
  | .bad c _ _ s => (c, 0, s)

/-- Writes n bytes of an object, synchronising. -/
def syncWrite (s : State) (md : Mode) (task oid o n v : Nat) : State :=
  match syncStoreAt s md task oid o (natLe n v) with
  | .ok _ s => s
  | .bad _ _ _ s => s

/-- The records of a list from r on, in the order in which they were registered: LINK leads from the newest to the oldest, and a LINK of
0 ends the list (R196, Table 12.3). A record that cannot be reached ends the walk with its fault. -/
def futList (md : Mode) (oid : Nat) : Nat → Nat → List Nat → State → ((Nat × Nat) ⊕ List Nat) × State
  | 0, _, l, s => (.inr l, s)
  | n + 1, r, l, s =>
    if !s.wants.isEmpty then (.inr l, s)
    else match syncRead s md oid r 8 true with
      | (c, v, s) =>
        let link := v / 2 ^ 4 % 2 ^ 40 * 16
        if c != 0 then (.inl (c, r), s) else if link == 0 then (.inr (r :: l), s) else futList md oid n link (r :: l) s

/-- Records that one list can hold: their offsets are multiples of 16 below 2^40. -/
def futLimit : Nat := 2 ^ 36

/-- The list of a future word: from CURSOR on where it waits, else empty (R196). -/
def futRecords (s : State) (md : Mode) (oid w : Nat) : ((Nat × Nat) ⊕ List Nat) × State :=
  if futState w == 1 then futList md oid futLimit (futCursor w) [] s else (.inr [], s)

/-- A record's packet as a packet to accept, with the tags of its five capabilities as stored (R271, R287); or a fault. -/
def readPacket (s : State) (md : Mode) (oid o : Nat) : (Nat ⊕ (BitVec 2048 × List Bool)) × State :=
  match loadAt s md oid o 256 false with
  | .bad c _ _ s => (.inl c, s)
  | .ok bs s =>
    (.inr (BitVec.ofNat 2048 (leNat bs),
      [128, 112, 96, 80, 64].map fun b => (spotOf s md oid (o + b) false).elim false (unitTag s md)), s)

/-- The continuation buffer of a die is full (R276). -/
def State.contsFull (s : State) (d : Nat) : Bool := decide (Config.continuationBuffer ≤ (s.die d).launch.conts.length)

/-- Hands a continuation's packet to the launch unit of a die (R287). -/
def handPacket (s : State) (d : Nat) (p : BitVec 2048) (tags : List Bool) (edge : Nat × List Nat) : State :=
  s.updDie d fun x => { x with launch := { x.launch with conts := x.launch.conts ++
    [⟨p, tags, false, fieldNat p 24 8, none, some edge, 0, 0⟩] } }

/-- The actor of an errand. -/
def errandFocus (n : Nat) : Focus := { Focus.none with port := 67, id := n }

/-- What comes of the decrement of a JOIN. -/
inductive Joined where
  | done (s : State)
  /-- Nothing has been done yet: a page is absent, the continuation buffer is full (R276), or another module has still to answer. -/
  | wait (s : State)
  /-- A read at this offset has met an error that its retry does not mend (R309). -/
  | lost (ofs : Nat) (s : State)

/-- A record that cannot be reached: it waits for its page, but for an error that no retry mends. -/
def Joined.ofCode (code ofs : Nat) (s : State) : Joined := if code == fcLasting && s.wants.isEmpty then .lost ofs s else .wait s

/-- JOIN of a record is counted down: the decrement to 0 hands the packet to the launch unit of the die that made the access (R195,
R287). -/
def joinStep (s : State) (md : Mode) (task oid r : Nat) (edge : Nat × List Nat) : Joined :=
  let hand (s : State) (f : State → State) : Joined :=
    match readPacket s md oid (r + 64) with
    | (.inl c, s) => .ofCode c (r + 64) s
    | (.inr (p, tags), s) => .done (f (handPacket s md.die p tags edge))
  match remoteOf s md oid (r + 8) true with
  | some pa =>
    let w : Want := .sync pa 8 codeJoin 4 0 0
    match s.answer w with
    | none => .wait (if s.contsFull md.die then s else s.want w)
    | some a => if leNat a.bytes == 1 then hand s id else .done s
  | none =>
    match syncRead s md oid (r + 8) 8 true with
    | (c, n, s) =>
      if c != 0 then .ofCode c (r + 8) s
      else if n == 1 then
        if s.contsFull md.die then .wait s else hand s fun s => syncWrite s md task oid (r + 8) 8 0
      else .done (if n == 0 then s else syncWrite s md task oid (r + 8) 8 (n - 1))

/-- An errand that is not done yet stays. -/
def addErrand (s : State) (e : Errand) : State :=
  { s with errands := s.errands ++ [(s.module.nextErrand, e)], module := { s.module with nextErrand := s.module.nextErrand + 1 } }

/-- Removes an errand. -/
def dropErrand (s : State) (n : Nat) : State := { s with errands := s.errands.filter (·.1 != n) }

/-- How the hardware reaches a record for a task: at the launch unit's tile, synchronising (R195). -/
def recordMode (d : Nat) : Mode :=
  { die := d, blk := 256, l1 := false, plain := none, stash := false, keepTags := false, buf := [] }

/-- JOIN of a record, counted down at once where everything lies on this module; else as an errand. -/
def joinDown (s : State) (md : Mode) (task oid r : Nat) (edge : Nat × List Nat) : State :=
  let later : State := addErrand s (.join md.die task oid r edge)
  match joinStep { s with wants := [] } { md with l1 := false, plain := none } task oid r edge with
  | .done t => if t.wants.isEmpty then { t with wants := s.wants } else later
  | .wait _ => later
  | .lost .. => later

/-- The JOINs of records, with what the step lacks of other modules to read them. -/
def joinsOf (md : Mode) (oid : Nat) : List Nat → State → List Nat × State
  | [], s => ([], s)
  | r :: rs, s =>
    let (_, n, s) := syncRead s md oid (r + 8) 8 true
    let (l, s) := joinsOf md oid rs s
    (n :: l, s)

/-- Some decrement would take a JOIN to 0 while the continuation buffer is full: the access waits, in the state given (R276). -/
def joinWaits (s : State) (md : Mode) (oid : Nat) (rs : List Nat) : Option State :=
  if !s.contsFull md.die then none
  else
    let (l, t) := joinsOf md oid rs s
    if !t.wants.isEmpty then some t else if l.contains 1 then some s else none

/-- The fault of the first record whose JOIN, or whose packet where JOIN is 1, cannot be reached (R195, R297). -/
def recordFault (s : State) (md : Mode) (oid : Nat) (rs : List Nat) : Option (Nat × Nat) :=
  rs.findSome? fun r =>
    match syncRead s md oid (r + 8) 8 true with
    | (c, n, _) =>
      if c != 0 then some (c, r + 8)
      else if n == 1 && (remoteOf s md oid (r + 8) true).isNone then
        match loadAt s { md with l1 := false, plain := none } oid (r + 64) 256 false with
        | .bad c x _ _ => some (c, x)
        | .ok _ _ => none
      else none

/-- The snapshot of a task, as an edge carries it (R171). -/
def State.edgeOf (s : State) (q : Nat) : Nat × List Nat := let t := s.racer q; (t.m, t.acq ++ [t.seq])

/-- The snapshot that the resolution left in the granule's release record, or the fallback (R195). -/
def releaseEdge (s : State) (a : Nat) : Nat × List Nat :=
  match getRelease s (homeDie a) (a / 64) with
  | some r => (r.m, r.acq ++ [r.seq])
  | none => (s.module.nextSeq, [])

/-- The transition of FUTRES on the word at o, already read as w, with the records of its list in order (R196); also the resolution
of a COPY (R255). -/
def resolveFuture (s : State) (md : Mode) (task oid o w x : Nat) (faulted : Bool) (l : List Nat) : State :=
  let s := syncWrite s md task oid o 8 (mkFuture (if faulted then 3 else 2) (futWait w) x)
  let s := match addrOf s md oid o true with
    | some a => putRelease s (homeDie a) (a / 64) (s.racer task) scopeModule md.die
    | none => s
  l.foldl (fun s r => joinDown s md task oid r (s.edgeOf task)) s

/-- An operand offset of FUTRES and FUTREG, and the offset that CURSOR holds: 16-aligned, 16 bytes of it within K's bounds, and one that
CURSOR can hold (R194). -/
def futOffsetOk (k : Cap) (o : Nat) : Bool := o % 16 == 0 && k.base ≤ o && o + 16 ≤ k.top && o < 2 ^ 40

/-- FUTREG on a word of this module (R196). -/
def futRegister (s : State) (q : Req) (md : Mode) (task w : Nat) : State :=
  let oid := q.cap.oid
  let st := futState w
  let r := q.data.toNat
  let done (s : State) : State := performed s q fun x => { x with value := BitVec.ofNat 64 w }
  match syncRead s md oid r 16 true with
  | (c, _, s) =>
    if c != 0 then reqFault s q c r 0
    else if 2 ≤ st then
      match recordFault s md oid [r] with
      | some (c, x) => reqFault s q c x 0
      | none =>
        match joinWaits s md oid [r] with
        | some t => t
        | none =>
          let edge := match addrOf s md oid q.ofs true with | some a => releaseEdge s a | none => (s.module.nextSeq, [])
          let s := joinDown s md task oid r edge
          done (syncWrite s md task oid q.ofs 8 (mkFuture st (futWait w + 1) (futCursor w)))
    else if st == 1 && !futOffsetOk q.cap (futCursor w) then reqFault s q fcBounds q.ofs 0
    else
      let s := syncWrite s md task oid r 8 (if st == 1 then futCursor w else 0)
      done (syncWrite s md task oid q.ofs 8 (mkFuture 1 (futWait w + 1) r))

/-- The resolution of a word of this module: its list is walked, and every record reached, before anything changes (R196, R276, R297).
fault says what a code at an offset does, done what follows. -/
def futResolve (s : State) (md : Mode) (k : Cap) (task o w x : Nat) (faulted : Bool) (fault : State → Nat → Nat → State)
    (done : State → State) : State :=
  if futState w == 1 && !futOffsetOk k (futCursor w) then fault s fcBounds o
  else match futRecords s md k.oid w with
    | (.inl (c, r), s) => fault s c r
    | (.inr l, s) =>
      match recordFault s md k.oid l with
      | some (c, r) => fault s c r
      | none => match joinWaits s md k.oid l with
        | some t => t
        | none => done (resolveFuture s md task k.oid o w x faulted l)

/-- A future form at home on this module (R196). -/
def futureHere (s : State) (q : Req) : State :=
  let md := q.mode s
  let task := q.seq s
  let oid := q.cap.oid
  match syncRead s md oid q.ofs 8 (q.kind != .futget) with
  | (c, w, s) =>
    let done (s : State) : State := performed s q fun x => { x with value := BitVec.ofNat 64 w }
    if c != 0 then reqFault s q c q.ofs 0
    else match q.kind with
      | .futnew => done (if futState w == 1 then s else syncWrite s md task oid q.ofs 8 0)
      | .futget => done (match addrOf s md oid q.ofs false with
          | some a => acquireEdge s (homeDie a) (a / 64) task scopeModule q.die
          | none => s)
      | .futreg => futRegister s q md task w
      | _ =>
        if 2 ≤ futState w then reqFault s { q with acc := { q.acc with base := w } } fcTwice q.ofs 0
        else futResolve s md q.cap task q.ofs w q.data.toNat (q.form == 1) (fun s c x => reqFault s q c x 0) done

/-- Second operand of a future form to another module: the place of FUTREG's record, the fault flag of FUTRES (log 39). -/
def futOperand (s : State) (q : Req) : W64 :=
  match q.kind with
  | .futreg => (match spotOf s (q.mode s) q.cap.oid q.data.toNat true with
    | some (.at a) => BitVec.ofNat 64 (s.module.nrid.toNat * 2 ^ 44 + a)
    | some (.far a) => BitVec.ofNat 64 a
    | _ => 0)
  | _ => BitVec.ofNat 64 (q.form % 2)

/-- What comes before a future form changes a word of another module: the word is read and, as for one of this module, the offset that
CURSOR holds is checked and every record that it will count down reached. Some state: the form faults or waits in it (R194, R196,
R276, R297). -/
def farBefore (s : State) (md : Mode) (k : Cap) (reg : Option Nat) (w o : Nat) (fault : State → Nat → Nat → State) : Option State :=
  let rs : ((Nat × Nat) ⊕ List Nat) × State := match reg with
    | some r => if 2 ≤ futState w then (.inr [r], s) else (match syncRead s md k.oid r 16 true with
      | (c, _, s) => (if c != 0 then .inl (c, r) else .inr [], s))
    | none => futRecords s md k.oid w
  if !s.wants.isEmpty then some s
  else if futState w == 1 && !futOffsetOk k (futCursor w) then some (fault s fcBounds o)
  else if !rs.2.wants.isEmpty then some rs.2
  else match rs with
    | (.inl (c, r), s) => some (fault s c r)
    | (.inr l, s) =>
      match recordFault s md k.oid l with
      | some (c, r) => some (fault s c r)
      | none => joinWaits s md k.oid l

/-- A word of another module as the step sees it. -/
def State.farWord (s : State) (a : Nat) : Nat := leNat ((List.range 8).map fun i => s.farByte (a + i))

/-- A future form on another module: the word changes there; this module counts its records down (R196, R287, log 39). -/
def futureFar (s : State) (q : Req) (pa : Nat) : State :=
  let md := q.mode s
  let task := q.seq s
  let oid := q.cap.oid
  let before : Option State := match q.kind with
    | .futreg | .futres =>
      let s := needFar s pa 8
      farBefore s md q.cap (if q.kind == .futreg then some q.data.toNat else none) (s.farWord pa) q.ofs fun s c x => reqFault s q c x 0
    | _ => none
  match before with
  | some t => t
  | none => performFar s q pa (futOperand s q) fun s w _ =>
    let done (s : State) : State := performed s q fun x => { x with value := BitVec.ofNat 64 w }
    match q.kind with
    | .futget => done (farAcquire s task)
    | .futreg => done (if 2 ≤ futState w then joinDown s md task oid q.data.toNat (s.module.nextSeq, []) else s)
    | .futres =>
      if 2 ≤ futState w then reqFault s { q with acc := { q.acc with base := w } } fcTwice q.ofs 0
      else if futState w == 1 then done (addErrand s (.records q.die task oid (futCursor w) (s.edgeOf task)))
      else done s
    | _ => done s

/-- A future form (R196). -/
def performFuture (s : State) (q : Req) : State :=
  match remoteOf s (q.mode s) q.cap.oid q.ofs (q.kind != .futget) with
  | some pa => futureFar s q pa
  | none => futureHere s q

/-- A key record (R152): the sixteen bytes; in log mode a record of zeros is first filled with a fresh key. -/
def performKey (s : State) (q : Req) : State :=
  let md := q.mode s
  match loadAt s md q.cap.oid q.ofs 16 false with
  | .bad c o t s => reqFault s q c o t
  | .ok bs s =>
    let done (s : State) (k : Nat) : State := performed s q fun x => { x with capValue := ⟨BitVec.ofNat 128 k, false⟩ }
    if leNat bs != 0 || q.form == 2 then done s (leNat bs)
    else
      let k := (Config.freshKey s.module.nextKey).toNat
      match storeAt s md q.cap.oid q.ofs (natLe 16 k) false with
      | .bad c o t s => reqFault s q c o t
      | .ok _ s => done (s.updMod fun m => { m with nextKey := m.nextKey + 1 }) k

/-- What a release waits for: stores of the region issued earlier with a colour of the mask, and earlier accesses of its own
cell, complete at its scope (R176, R189, R190, R197). -/
def releaseReady (s : State) (q : Req) : Bool :=
  !q.rel || s.reqs.all fun x =>
    !(x.die == q.die && x.rblk == q.rblk && x.id < q.id) || x.scout ||
    ((match x.kind with
      | .store | .capStore | .strel | .atom =>
        !(q.mask.testBit x.colour) || q.scope == 0 || (q.scope == 1 && x.accepted)
      | _ => true) &&
     (x.cell != q.cell || x.complete q.scope))

/-- A write that its tile has accepted toward home, and behind which later requests of the block stay (R175). -/
def ReqKind.writes (k : ReqKind) : Bool :=
  match k with
  | .store | .capStore | .strel | .atom | .futnew | .futreg | .futres => true
  | _ => false

/-- Its turn at its tile: no earlier request of the cell, and no earlier write of its block, is still to be performed (R175,
R181). -/
def turnReady (s : State) (q : Req) : Bool :=
  s.reqs.all fun x =>
    !(x.die == q.die && x.rblk == q.rblk && x.id < q.id) || x.stage == .performed ||
    !(x.cell == q.cell || (x.kind.writes && x.stage != .faulted && x.blk s == q.blk s))

/-- Performs a request at its memory tile. -/
def performReq (s : State) (q : Req) : State :=
  match q.kind with
  | .load => performLoad s q
  | .capLoad => performCapLoad s q
  | .store => performStore s q
  | .capStore => performCapStore s q
  | .tile => performTile s q
  | .prefetch => performPrefetch s q
  | .atom => performSync s q true (fun old => atomNew q.form q.ty old q.data q.data2) fun s _ _ => s
  | .ldacq => performSync s q false (fun _ => none) fun s _ _ => s
  | .strel => performSync s q true (fun _ => some q.data.toNat) fun s _ _ => s
  | .monw => performSync s q false (fun _ => none) fun s g n => armMonitor s q g n
  | .futnew | .futres | .futreg | .futget => performFuture s q
  | .keyRead => performKey s q

/-- A request whose writes are on their way to another module is outstanding until they are acknowledged (R175, R315). -/
def awaitWrites (n : Nat) (s : State) : State :=
  if s.asking s.focus then s.updReq n fun x => if x.stage == .performed then { x with stage := .remote } else x else s

/-- MEMORY_TILE_REQUEST: the request in focus arrives at its memory tile, no earlier than the cycle after its issue, is
translated, checked and performed at home (R164, R166, R167, R173). -/
def execMemoryTileRequest (s : State) : Out :=
  match s.req s.focus.id with
  | none => .fault .noActor
  | some q =>
    if q.stage == .queued && q.issued < s.now q.die && releaseReady s q && turnReady s q then
      .next (awaitWrites q.id (settle s (performReq s q)))
    else .next s

/-! Landing and acknowledgement. -/

/-- Fills the results that wait for a request: a key gives two words, a MONW value its monitor (R27, R152, R181, R193). -/
def fillResults (q : Req) : List Result → Nat → List Result
  | [], _ => []
  | k :: rest, i =>
    if k.req == q.id then
      let v : W64 := if q.kind == .keyRead then BitVec.ofNat 64 (q.capValue.bits.toNat / 2 ^ (64 * i)) else q.value
      let tok := if q.void then .voidVal
        else { k.tok with pay := v, hid := if q.kind == .monw then .mon q.data.toNat else k.tok.hid }
      { k with tok := tok, ready := true } :: fillResults q rest (i + 1)
    else k :: fillResults q rest i

/-- Removes one entry of a pending register. -/
def unpend (l : List Nat) (code : Nat) : List Nat := l.erase code

/-- Writes a return into its register, whole (R29). -/
def landReg (y : CellRt) (q : Req) : CellRt :=
  if q.rdst == 0 || q.void then { y with pending := if q.rdst == 0 then y.pending else unpend y.pending q.rdst }
  else
    let y := { y with pending := unpend y.pending q.rdst }
    if q.kind == .capLoad then { y with k := y.k.set (q.rdst - 0x10) q.capValue } else y.setReg q.rdst q.value

/-- Is a request one that returns something to its cell. -/
def Req.returns (q : Req) : Bool :=
  match q.kind with
  | .store | .capStore | .strel | .prefetch => false
  | _ => true

/-- LANDING_BUFFER_WRITE: the return of the request in focus is written whole, in one cycle (R29); an acquire's L1 effect comes
before its value is sent (R175, R189, R190, R197); the returns of a frozen cell's later requests are discarded (R297). -/
def execLandingBufferWrite (s : State) : Out :=
  match s.req s.focus.id with
  | none => .fault .noActor
  | some q =>
    if q.stage != .performed || !q.returns then .next s
    else match s.region q.die q.rblk with
      | none => .next (s.dropReq q.id)
      | some r =>
        let gone : Bool := match (r.cell q.cell).rt.faultReq with | some f => decide (f ≤ q.id) | none => false
        if gone then .next (s.dropReq q.id)
        else
          let s := if q.acq && 2 ≤ q.scope then invalidateL1 s r else s
          let s := s.updRegion q.die q.rblk fun r =>
            let r := r.updRt q.cell fun y => landReg { y with results := fillResults q y.results 0 } q
            let r := if q.kind == .tile then
                r.updRt q.form fun y => { y with tl := if q.void then y.tl else q.tileValue, pending := unpend y.pending 64 }
              else r
            r.actBy q.cell (s.now q.die)
          .next (s.dropReq q.id)

/-- STORE_ACK: the home tile acknowledges the write in focus, which is outstanding no longer (R175, R181). -/
def execStoreAck (s : State) : Out :=
  match s.req s.focus.id with
  | none => .fault .noActor
  | some q =>
    if q.stage != .performed || q.returns then .next s
    else .next ((s.updRegion q.die q.rblk fun r => r.actBy q.cell (s.now q.die)).dropReq q.id)

/-- DONE_TOKEN: a memory cell sends the done token that is due (R182). -/
def execDoneToken (s : State) : Out :=
  match s.region s.focus.die s.focus.rblk with
  | none => .fault .noActor
  | some r => if r.live then .next (sendDone s r s.focus.cell (s.now s.focus.die)) else .next s

/-- TAG_SWEEP: every tag whose SEQ lies 2^22 or more below G becomes SYNC (R172). -/
def execTagSweep (s : State) : Out :=
  let g := s.watermark
  let old (t : W32) : Bool :=
    let d := (g + 2 ^ 24 - fieldNat t 8 24) % 2 ^ 24
    2 ^ 22 ≤ d && d ≤ 2 ^ 23
  .next { s with accTags := s.accTags.foldl (fun l gt =>
    if old gt.2 then setTag l gt.1 (mkTag tagSync (fieldNat gt.2 8 24)) else l) s.accTags }

end Sys2Proof.Machine
end

