-- ==== Sys2Proof/Machine/Route.lean ====
section
/-! DEFINITION. The memory accesses of a region controller (R201): words of argument objects, of the spill area and of the
route image, checked under R158, translated under R164 and performed at home. An instruction that lacks bytes of another module
is executed afresh once they are there (R315). -/

namespace Sys2Proof.Machine

/-- Result of a controller access: the value, or a state in which the instruction does not complete now. -/
inductive CAcc where
  | ok (v : W64) (s : State)
  | stop (s : State)

/-- The controller's accesses bypass every L1 and are plain accesses of its task (R201). -/
def ctlMode (s : State) (r : Region) : Mode :=
  { die := r.die, blk := r.rblk, l1 := false, plain := some (s.racer r.seq), stash := false, keepTags := false, buf := [] }

/-- A controller access that fails R158 at the controller (R201). -/
def ctlRefused (s : State) (r : Region) (code : Nat) (store : Bool) (k : Cap) (o rights : Nat) : State :=
  freeze s r code srcCtl (ctlAccess r store k.oid o rights).words

/-- A controller access that faults at its memory tile: a page fault freezes the controller (R297), RACE enters the vector
(R174), any other code freezes the region (R300). -/
def ctlFault (s : State) (r : Region) (code : Nat) (store : Bool) (k : Cap) (o rights : Nat) (tag : W32) : State :=
  let a := { ctlAccess r store k.oid o rights with tstate := if code == fcRace then fieldNat tag 0 2 else 0 }
  if code == fcAbsent || code == fcProt || code == fcCow then
    let s := post s r.place code srcCtl false 0 a.words
    let s := s.updRegion r.die r.rblk fun r => { r with ctl := .fault }
    if r.frozen == .no then openWindow s r.seq (s.now r.die) else s
  else if code == fcRace then vectorFault s r code r.pc srcTile (fieldNat tag 8 24) a.words
  else if code == fcLasting then
    accessFails (s.updRegion r.die r.rblk fun r => { r with ctl := .fault }) r.place srcTile k.oid o a.words
  else freeze s r code srcTile a.words

/-- Reads n bytes, at most 8, at offset o through capability k (R158, R164, R201). -/
def ctlRead (s : State) (r : Region) (k : Cap) (o : Int) (n rights : Nat) : CAcc :=
  match capCheck k rights o n with
  | some code => .stop (ctlRefused s r code false k (faultOfs k code o n) rights)
  | none =>
    match loadAt s (ctlMode s r) k.oid o.toNat n false with
    | .ok bs s => .ok (BitVec.ofNat 64 (leNat bs)) s
    | .bad code x tag s => .stop (ctlFault s r code false k x rights tag)

/-- Writes the low n bytes of a value, at most 8, at offset o through capability k (R158, R164, R201). -/
def ctlWrite (s : State) (r : Region) (k : Cap) (o : Int) (n : Nat) (v : W64) (rights : Nat) : CAcc :=
  match capCheck k rights o n with
  | some code => .stop (ctlRefused s r code true k (faultOfs k code o n) rights)
  | none =>
    match storeAt s (ctlMode s r) k.oid o.toNat (natLe n v.toNat) false with
    | .ok _ s => .ok v s
    | .bad code x tag s => .stop (ctlFault s r code true k x rights tag)

/-- Reads words of 8 bytes from offset o up; none where an access stops. -/
def ctlReads (s : State) (r : Region) (k : Cap) (o : Int) (rights : Nat) : Nat → Option (List W64) × State
  | 0 => (some [], s)
  | n + 1 =>
    match ctlRead s r k o 8 rights with
    | .stop s => (none, s)
    | .ok v s =>
      match ctlReads s r k (o + 8) rights n with
      | (some vs, s) => (some (v :: vs), s)
      | x => x

/-- Writes words of 8 bytes from offset o up; none where an access stops. -/
def ctlWrites (s : State) (r : Region) (k : Cap) (o : Int) (rights : Nat) : List W64 → Option Unit × State
  | [] => (some (), s)
  | v :: vs =>
    match ctlWrite s r k o 8 v rights with
    | .stop s => (none, s)
    | .ok _ s => ctlWrites s r k (o + 8) rights vs

/-- Route capability of a task (R201, R273). -/
def State.routeOf (s : State) (q : Nat) : Cap := match s.task q with | some t => t.route | none => .none

/-- Object offset of byte o of the route image: offsets count from the header (R273). -/
def imageOfs (k : Cap) (o : Int) : Int := (k.cursor : Int) + o

/-- Reads n bytes at byte o of the route image (R201). -/
def routeRead (s : State) (r : Region) (o : Int) (n : Nat) : CAcc :=
  let k := s.routeOf r.seq
  ctlRead s r k (imageOfs k o) n rConfig

/-- The instruction word at pc as it stands in memory, for a record (Table 22.4). -/
def State.wordAt (s : State) (r : Region) (pc : Nat) : Nat :=
  let k := s.routeOf r.seq
  leNat ((List.range 8).map fun i =>
    match spotOf s (ctlMode s r) k.oid (k.cursor + pc + i) false with
    | some (.at a) => memRead s.mem a
    | some (.far a) => s.farByte a
    | _ => unlistedByte)

/-- ILLEGAL_OP raised by the instruction at pc, precisely (R101). -/
def trapIllegal (s : State) (r : Region) : State := illegalOp s r (s.wordAt r r.pc)

/-- The instruction completes: the next one may issue n cycles from now, at pc (R201). -/
def ctlGo (s : State) (d b pc n : Nat) (f : Region → Region) : State :=
  let t := s.now d
  s.updRegion d b fun r => { f r with pc := pc, ctl := .ready (t + n) }

/-- The instruction completes and the next one in line follows in the next cycle (R201). -/
def ctlNext (s : State) (r : Region) (f : Region → Region) : State := ctlGo s r.die r.rblk (r.pc + 8) 1 f

/-- The controller in focus, ready to execute its instruction. -/
def ctlTurn (s : State) (f : Region → Out) : Out :=
  match s.region s.focus.die s.focus.rblk with
  | none => .fault .noActor
  | some r => f r

/-- The same for an instruction with memory accesses, which may need other modules (R315). -/
def ctlMem (s : State) (f : Region → Out) : Out := settleOut s (ctlTurn s f)

/-- Fetch of the instruction at pc (R201): the word, or a state in which none is executed now. -/
def fetchCtl (s : State) (r : Region) : CAcc := routeRead s r r.pc 8

end Sys2Proof.Machine
end

