-- ==== Sys2Proof/Machine/Drain.lean ====
section
/-! DEFINITION. Island commands and matrix islands as the rest of the machine sees them: the fields of a command (R102), slots and
tiles, the records of engine faults (R104, R246), the merge of accumulator entries (R82), and the effect of an MDRAIN (R242), which an
abort lets a drain in progress complete (R247). -/

namespace Sys2Proof.Machine

/-- EOP of a command. -/
def Cmd.eop (c : Cmd) : Nat := fieldNat c.words.w0 56 8

/-- Region number that marks a command detached from its region: an XFER that outlives an abort (R266). -/
def detached : Nat := 256

/-! Commands. -/

namespace Cmd

/-- Field of word 0. -/
def f0 (c : Cmd) (lo len : Nat) : Nat := fieldNat c.words.w0 lo len
/-- Field of word 1. -/
def f1 (c : Cmd) (lo len : Nat) : Nat := fieldNat c.words.w1 lo len
/-- A matrix command. -/
def isMatrix (c : Cmd) : Bool := c.target == 2
/-- MMA or MMAS. -/
def isMul (c : Cmd) : Bool := c.eop == 0x10 || c.eop == 0x11
/-- MLOAD. -/
def isLoad (c : Cmd) : Bool := c.eop == 0x12
/-- K of MMA and MMAS. -/
def steps (c : Cmd) : Nat := c.f0 16 16
/-- DPORT of MLOAD. -/
def dport (c : Cmd) : Nat := c.f0 46 2
/-- ROLE of MLOAD. -/
def role (c : Cmd) : Nat := c.f0 44 2
/-- ACC of MMA, MMAS, MDRAIN and NORM. -/
def accTile (c : Cmd) : Nat := c.f0 36 4
/-- CLR of MDRAIN and NORM. -/
def clr (c : Cmd) : Bool := c.words.w0.getLsbD 35
/-- DONE: every command but MMA. -/
def done (c : Cmd) : Bool := c.eop != 0x10 && c.words.w1.getLsbD 31
/-- DCELL. -/
def dcell (c : Cmd) : Nat := c.f1 16 14
/-- DPORT of the done token. -/
def doneport (c : Cmd) : Nat := c.f1 14 2
/-- Tiles of AMASK. -/
def amask (c : Cmd) : List Nat := (List.range 16).filter fun t => c.words.w0.getLsbD t
/-- Slots of MCLAIM and MRELEASE. -/
def claimSlots (c : Cmd) : List Nat := (List.range (c.f0 38 10)).map (· + c.f0 48 8)
/-- a(s) (R240). -/
def aSlot (c : Cmd) (s : Nat) : Nat := (c.f0 48 8 + s) % 256
/-- b(s) of MMA, and the two B slots of MMAS (R240, R241). -/
def bSlots (c : Cmd) (s : Nat) : List Nat :=
  if c.eop == 0x10 then [(c.f0 40 8 + s) % 256] else [(c.f0 40 8 + 2 * s) % 256, (c.f0 40 8 + 2 * s + 1) % 256]
/-- Metadata slot of a step whose A class has extent kt (R241). -/
def metaSlot (c : Cmd) (kt s : Nat) : Nat := (c.f1 56 8 + s / (512 / kt)) % 256
/-- The region of a command. -/
def place (c : Cmd) : Where := if c.rblk == detached then ⟨c.die, 0, c.seq, true⟩ else ⟨c.die, c.rblk, c.seq, false⟩
/-- Race values of a command (R173). -/
def racer (c : Cmd) : Racer := ⟨c.seq, c.m, c.acq⟩
/-- It works on one island port of one region with another command. -/
def samePort (a b : Cmd) : Bool :=
  a.die == b.die && a.target == b.target && a.isl == b.isl && a.rblk == b.rblk && a.port == b.port
/-- On one island. -/
def sameIsland (a b : Cmd) : Bool := a.die == b.die && a.target == b.target && a.isl == b.isl

end Cmd

/-! Matrix islands. -/

/-- An island of a die. -/
def Die.island (x : Die) (i : Nat) : MIsland := lookD x.matrix i .empty

/-- Changes an island. -/
def updIsland (s : State) (d i : Nat) (f : MIsland → MIsland) : State :=
  s.updDie d fun x => { x with matrix := putAsc x.matrix i (f (x.island i)) }

/-- A slot. -/
def MIsland.slot (x : MIsland) (n : Nat) : Slot := lookD x.slots n .empty
/-- A tile. -/
def MIsland.tile (x : MIsland) (n : Nat) : Tile := lookD x.tiles n .empty
/-- Puts a slot. -/
def MIsland.setSlot (x : MIsland) (n : Nat) (v : Slot) : MIsland :=
  { x with slots := if v = .empty then del x.slots n else putAsc x.slots n v }
/-- Puts a tile. -/
def MIsland.setTile (x : MIsland) (n : Nat) (v : Tile) : MIsland :=
  { x with tiles := if v = .empty then del x.tiles n else putAsc x.tiles n v }
/-- A tile restarted as unset and zero, still held (R242, R243). -/
def Tile.restart (t : Tile) : Tile := { t with anchor := none, ents := [] }

/-- A finite zero entry. -/
def Entry.zero : Entry := ⟨0, .fin⟩

/-- Classes combine (R80). -/
def Cls.join (a b : Cls) : Cls :=
  match a, b with
  | .fin, x => x
  | x, .fin => x
  | .pinf, .pinf => .pinf
  | .ninf, .ninf => .ninf
  | _, _ => .nan

/-- Merges two entries (R82). -/
def Entry.merge (x y : Entry) : Entry := ⟨x.t + y.t, x.cls.join y.cls⟩

/-- An entry of a tile. -/
def Tile.ent (t : Tile) (i : Nat) : Entry := lookD t.ents i .zero

/-- Entries that are not finite zero, from a function of the index. -/
def entList (f : Nat → Entry) : List (Nat × Entry) :=
  (List.range 4096).filterMap fun i => let x := f i; if x = .zero then none else some (i, x)

/-- Failing step of a fault ahead of the first step. -/
def noStep : Nat := 2 ^ 64 - 1

/-- Words 2 to 7 of an engine record (Table 22.4). -/
def engineWords (isl port detail w0 w1 step : Nat) : List Nat := [isl + port <<< 8, detail, w0, w1, step, 0]

/-- Codes that reach the trap vector at the BELAY (R206). -/
def vectorCode (code : Nat) : Bool := [fcRace, fcSparse, fcAnchor, fcTwice, fcStash].contains code

/-- Posts an island's record and notes the fault for the BELAY. -/
def engineRecord (s : State) (p : Where) (target code tseq : Nat) (ws : List Nat) : State :=
  let src := if target == 2 then srcMatrix else srcStreamer
  engineFault (post s p code src (vectorCode code) tseq ws) p.die p.rblk
    ⟨code, vectorCode code, s.now p.die, faultRank code src (ws.headD 0) (ws.getD 1 0), src, tseq, ws⟩

/-- Both tiles are held and the source is set (R242). -/
def drainOk (s : State) (c : Cmd) : Bool :=
  let src := ((s.die c.die).island c.isl).tile c.accTile
  let dst := ((s.die c.die).island (c.f1 58 6)).tile (c.f1 54 4)
  src.owner == c.seq && dst.owner == c.seq && src.anchor.isSome

/-- Merges a source tile into a target of the same anchor, or into an unset one (R242). -/
def Tile.mergeFrom (dst src : Tile) : Tile :=
  match dst.anchor with
  | none => { dst with anchor := src.anchor, ents := src.ents }
  | some _ => { dst with ents := entList fun i => (dst.ent i).merge (src.ent i) }

/-- What an MDRAIN does at its target (R242): a fault code with its DETAIL, or the state with the tiles merged. -/
def drainMerge (s : State) (c : Cmd) : (Nat × Nat) ⊕ State :=
  let src := ((s.die c.die).island c.isl).tile c.accTile
  let dst := ((s.die c.die).island (c.f1 58 6)).tile (c.f1 54 4)
  if !drainOk s c then .inl (fcEngine, 0)
  else if dst.anchor.isSome && dst.anchor != src.anchor then
    .inl (fcAnchor, (src.anchor.getD 0).toNat + (dst.anchor.getD 0).toNat <<< 16)
  else
    let s := updIsland s c.die (c.f1 58 6) fun x => x.setTile (c.f1 54 4) (dst.mergeFrom src)
    .inr (if c.clr then updIsland s c.die c.isl fun x => x.setTile c.accTile src.restart else s)

/-- An abort lets an MDRAIN in progress complete, its fault's record included (R247, Table 15.6). The multiplications, whose steps
change tiles alone, end with the claims. -/
def drainAborted (s : State) (c : Cmd) : State :=
  match drainMerge s c with
  | .inl (code, detail) =>
    engineRecord s c.place c.target code 0 (engineWords c.isl c.port detail c.words.w0.toNat c.words.w1.toNat 0)
  | .inr s => s

/-- The MDRAINs of a region that are in progress, in the order in which they started. -/
def drainsOf (s : State) (r : Region) : List Cmd :=
  let cs := s.cmds.filter fun c => c.die == r.die && c.rblk == r.rblk && c.target == 2 && c.eop == 0x15 && c.begun && c.stage == .running
  cs.foldl (fun l c => l.takeWhile (fun x => decide (x.ticket < c.ticket)) ++ [c] ++ l.dropWhile fun x => decide (x.ticket < c.ticket)) []

end Sys2Proof.Machine
end

