-- ==== Sys2Proof/Machine/Tasks.lean ====
section
/-! DEFINITION. The life of a task outside its controllers: stopping its regions (R298), releasing its claims (R237, R247), the
completion record (R274), the end of a task and its return to a queue (R275, R276, R303). -/

namespace Sys2Proof.Machine

/-- A committed XFER (R264). -/
def Cmd.isXfer (c : Cmd) : Bool := c.eop == 0x27 && c.begun && c.stage == .running

/-- Far granules a region's stores hold (R52), with those granted to a JOIN that has still to attach its store (R53). -/
def Region.farGranules (r : Region) : Nat :=
  r.stores.foldl (fun n st => if st.far then n + st.granules else n)
    (match r.ctl with | .join st _ => if st.far then st.granules else 0 | _ => 0)

/-- A region's far granules go back to the die's pool (R52). -/
def freeStores (s : State) (r : Region) : State :=
  s.updDie r.die fun d => { d with poolUsed := d.poolUsed - r.farGranules }

/-- What the controller and the cells of a region wait for of other modules goes with it. -/
def dropTraffic (s : State) (r : Region) : State :=
  let mine (f : Focus) : Bool := f.die == r.die && f.rblk == r.rblk && (f.port == 0 || f.port == cellPort)
  { s with asks := s.asks.filter fun a => !mine a.who, words := s.words.filter fun a => !mine a.who }

/-- A region stops and returns to the distributor: its requests and buffered stores, tokens on island links, monitors and reorder
stores go; an MDRAIN in progress completes and a committed XFER runs on detached, its other commands stop (R247, R266, R298). -/
def stopRegion (s : State) (r : Region) : State :=
  let mine (d b : Nat) : Bool := d == r.die && b == r.rblk
  let s := dropTraffic (freeStores ((drainsOf s r).foldl drainAborted s) r) r
  let s := dropMonitors s fun m => mine m.die m.rblk
  { s with regions := s.regions.filter fun x => !mine x.die x.rblk,
           reqs := s.reqs.filter fun q => !mine q.die q.rblk,
           iports := s.iports.filter fun i => !mine i.die i.rblk,
           cmds := (s.cmds.filter fun c => !mine c.die c.rblk || c.isXfer).map fun c =>
             if mine c.die c.rblk then { c with rblk := detached } else c }

/-- Regions of a task. -/
def State.regionsOf (s : State) (q : Nat) : List Region := s.regions.filter (·.seq == q)

/-- Every region of a task stops. -/
def stopRegions (s : State) (q : Nat) : State := (s.regionsOf q).foldl stopRegion s

/-- A matrix island without a task's claims: its slots and tiles are zero and free (R237). -/
def MIsland.free (x : MIsland) (q : Nat) : MIsland :=
  { x with slots := x.slots.filter (·.2.owner != q), tiles := x.tiles.filter (·.2.owner != q) }

/-- Releases every claim of a task on a die (R237, R298). -/
def releaseClaims (s : State) (d q : Nat) : State :=
  s.updDie d fun x => { x with matrix := x.matrix.map fun m => (m.1, m.2.free q) }

/-- Stops a task's regions and releases its claims and stores (R298, steps 1 to 3). -/
def abortTask (s : State) (q : Nat) : State :=
  match s.task q with
  | some t => releaseClaims (stopRegions s q) t.die q
  | none => s

/-- A completion record as a number of 256 bits (Table 20.4). -/
def doneRecord (status : W64) (seq : Nat) (failed : Bool) (fcode : Nat) : Nat :=
  status.toNat + (seq % 2 ^ 24) <<< 64 + 1 <<< 88 + boolNat failed <<< 89 + (fcode % 256) <<< 96

/-- Block number under which the launch unit of a die translates. -/
def launchBlk : Nat := 256

/-- How the launch unit accesses memory: at home, synchronising or exempt (R178). -/
def launchMode (d : Nat) : Mode :=
  { die := d, blk := launchBlk, l1 := false, plain := none, stash := false, keepTags := false, buf := [] }

/-- Launch layout of a record (Table 22.4). -/
def launchWords (head kick stamp reads step : Nat) : List Nat :=
  [head % 2 ^ 16 + (kick % 2 ^ 16) <<< 16 + (stamp % 2 ^ 16) <<< 32 + (reads % 128) <<< 48, step, 0, 0, 0, 0]

/-- Does at once what needs no answer of another module; else it becomes an errand (R315). -/
def nowOrErrand (s : State) (f : State → State) (e : Errand) : State :=
  let t := f { s with wants := [] }
  if t.wants.isEmpty then { t with wants := s.wants } else addErrand s e

/-! Lasting errors of accesses (R3, R309). -/

/-- Address of the page descriptor of page number p of an extent (R162). -/
def pageEntry (x : BitVec 128) (p : Nat) : Nat := fieldNat x 8 56 + 16 * p

/-- The page of the descriptor at g is retired: RET is set by an atomic write at home, and no tile keeps a translation to it (R309). -/
def retireEntry (s : State) (g : Nat) : State :=
  let s := needPhys s g 16
  let s := pokePhys s g (natLe 16 (physNat s g 16 ||| 16)) 0
  { s with dies := s.dies.map fun y => { y with xlates := y.xlates.filter fun e => pageEntry e.ext e.page != g } }

/-- The page that holds an offset of an object is retired (R309). -/
def retireStep (s : State) (oid o : Nat) : State :=
  let a := s.module.otb.toNat + 32 * oid
  let s := needPhys s a 32
  let d := BitVec.ofNat 256 (physNat s a 32)
  match findExtent (fieldNat d 200 56) o (fieldNat d 184 16) [] s with
  | (.inl _, s) => s
  | (.inr (x, _), s) => retireEntry s (pageEntry x ((o - extXofs x) / pageSize (fieldNat x 6 2)))

/-- The same, at once or as an errand. -/
def retirePage (s : State) (d oid o : Nat) : State := nowOrErrand s (fun s => retireStep s oid o) (.retire d oid o)

/-- Page descriptors of an extent that hold a physical address (R162). -/
def extentEntries (s : State) (x : BitVec 128) (pa : Nat) : List Nat :=
  ((List.range (fieldNat x 64 20)).map (pageEntry x)).filter fun g =>
    let e := BitVec.ofNat 128 (physNat s g 16)
    e.getLsbD 7 && fieldNat e 72 56 ≤ pa && pa < fieldNat e 72 56 + pageSize (fieldNat x 6 2)

/-- Page descriptors of the object table, as far as it lies on this module, that hold a physical address (R161, R162). -/
def pageOwners (s : State) (pa : Nat) : List Nat :=
  (List.range s.module.otlen.toNat).flatMap fun oid =>
    let d := BitVec.ofNat 256 (physNat s (s.module.otb.toNat + 32 * oid) 32)
    if !descValid d || d.getLsbD 11 then []
    else (List.range (fieldNat d 184 16)).flatMap fun i =>
      extentEntries s (BitVec.ofNat 128 (physNat s (fieldNat d 200 56 + 16 * i) 16)) pa

/-- Every page over a physical address is retired: an access that names no object has met the error (R309, log 44). -/
def retireFrame (s : State) (pa : Nat) : State := (pageOwners s pa).foldl retireEntry s

/-- The access record of a unit that is no cell, with a physical address for the offset where no object is named (R292, log 44). -/
def unitAccess (wr : Bool) (oid ofs : Nat) : Access := ⟨0, 0, boolNat wr, 255, false, oid, ofs % 2 ^ 44, 0, 0, 0, [], 0⟩

/-- A read of this module by physical address that its retry does not mend: its record, and the page retired (R3, R309). -/
def frameLost (s : State) (p : Where) (src a : Nat) : State :=
  retireFrame (post s p fcLasting src false 0 (unitAccess false 0 a).words) (s.module.nrid.toNat * 2 ^ 44 + a)

/-- A read of an object by a task's launch unit that its retry does not mend (R3, R309). -/
def launchLost (s : State) (d seq oid o : Nat) : State :=
  retirePage (post s ⟨d, 0, seq, true⟩ fcLasting srcLaunch false 0 (unitAccess false oid o).words) d oid o

/-- Writes the completion record of a task through DONECAP at its cursor, or posts a record to the system fault queue where DONECAP is
unusable (R272, R274). -/
def recordStep (s : State) (d seq : Nat) (k : Cap) (status : W64) (failed : Bool) (fcode : Nat) (ws : List Nat) : State :=
  let unusable (s : State) : State := post s ⟨d, 0, seq, true⟩ (if failed then fcode else fcTag) srcLaunch false 0 ws
  if (capCheck k rWrite k.cursor 32).isSome then unusable s
  else match syncStoreAt s (launchMode d) seq k.oid k.cursor (natLe 32 (doneRecord status seq failed fcode)) with
    | .ok _ s => s
    | .bad code x _ t =>
      if !t.wants.isEmpty then t else unusable (if code == fcLasting then launchLost t d seq k.oid x else t)

/-- The completion record of a task (R272, R274). -/
def finishRecord (s : State) (d seq : Nat) (k : Cap) (status : W64) (failed : Bool) (fcode : Nat) (ws : List Nat) : State :=
  nowOrErrand s (fun s => recordStep s d seq k status failed fcode ws) (.record d seq k status failed fcode ws)

/-- Writes bytes of an object for the launch unit, synchronising. -/
def writeStep (s : State) (d seq oid o : Nat) (bs : List Byte) : State :=
  match syncStoreAt s (launchMode d) seq oid o bs with
  | .ok _ s => s
  | .bad code x _ s => if code == fcLasting then launchLost s d seq oid x else s

/-- The same, at once or as an errand. -/
def launchWrite (s : State) (d seq oid o : Nat) (bs : List Byte) : State :=
  nowOrErrand s (fun s => writeStep s d seq oid o bs) (.write d seq oid o bs)

/-- An errand's step; none while it waits. One whose read meets an error that no retry mends has the page retired, and waits for the page
that takes its place (R309). -/
def errandStep (s : State) (n : Nat) (e : Errand) : Option State :=
  match e with
  | .record d seq k st failed code ws => some (dropErrand (recordStep s d seq k st failed code ws) n)
  | .write d seq oid o bs => some (dropErrand (writeStep s d seq oid o bs) n)
  | .retire _ oid o => some (dropErrand (retireStep s oid o) n)
  | .join d task oid r edge =>
    (match joinStep s (recordMode d) task oid r edge with
     | .done t => some (dropErrand t n)
     | .wait t => if t.wants.isEmpty then none else some t
     | .lost o t => some (launchLost t d task oid o))
  | .records d task oid first edge =>
    (match futList (recordMode d) oid futLimit first [] s with
     | (.inr l, t) => some (dropErrand (l.foldl (fun t r => joinDown t (recordMode d) task oid r edge) t) n)
     | (.inl (c, r), t) =>
       if !t.wants.isEmpty then some t else if c == fcLasting then some (launchLost t d task oid r) else none)

/-- Takes an errand's step (R315). -/
def runErrand (s : State) (f : Focus) : State :=
  match s.errands.find? (·.1 == f.id) with
  | none => s
  | some (n, e) =>
    let s' := { s with focus := f }
    match errandStep s' n e with
    | none => s
    | some t => { settle s' t with focus := s.focus }

/-- The task ends: its regions are gone, its claims released, its record written, its queue entry free (R274, R276, R296). -/
def endTask (s : State) (q : Nat) (status : W64) (failed : Bool) (fcode : Nat) : State :=
  match s.task q with
  | none => s
  | some t =>
    let s := abortTask s q
    let s := finishRecord s t.die q t.done status failed fcode (launchWords 0 0 (fieldNat t.packet 0 16) 0 0)
    let s := endPre s q 2
    { s with tasks := s.tasks.filter (·.seq != q) }

/-- The task goes to the tail of its queue at its base priority, with its age at 0 (R275, R303). -/
def requeueTask (s : State) (q : Nat) : State :=
  match s.task q with
  | none => s
  | some t =>
    let now := s.now t.die
    (s.updTask q fun t => { t with state := .queued, queuedAt := now, rises := 0, place := s.module.nextPlace,
                                   halted := 0, pre := .no }).updMod fun m => { m with nextPlace := m.nextPlace + 1 }

/-- What a run leaves on the task is reset before it runs again from ENTRY, with the capabilities of its launch (R299, Table 22.6:
ABORT). -/
def Task.restart (t : Task) : Task :=
  { t with args := t.args0, m := 0, acq := [], keys := [], grants := 0, stages := [], entered := false, snap := none }

/-- A task is aborted and requeued (R303). -/
def abortRequeue (s : State) (q : Nat) : State :=
  requeueTask ((abortTask s q).updTask q Task.restart) q

/-- Entries of the wait list of a die (R298). -/
def State.waitCount (s : State) (d : Nat) : Nat := (s.tasks.filter fun t => t.die == d && t.state == .waiting).length

/-- A task is aborted by a page fault and placed on the residency wait list; a full list kills it (R298). -/
def abortToWait (s : State) (q : Nat) : State :=
  match s.task q with
  | none => s
  | some t =>
    if Config.residencyList ≤ s.waitCount t.die then endTask s q 0 true fcAbsent
    else (abortTask s q).updTask q fun t => { t.restart with state := .waiting, pre := .no, halted := 0 }

end Sys2Proof.Machine
end

