-- ==== Sys2Proof/Machine/Controller.lean ====
section
/-! DEFINITION. Region controller instructions: configuring and running (R202-R207), branches and calls (R214, R215), word
instructions (R216), yielding and halting (R217, R218), traps and their handling (R219-R222). -/

namespace Sys2Proof.Machine

/-! Registers. -/

/-- A w register. -/
def Region.wreg (r : Region) (n : BitVec 4) : W64 := r.w.getD n.toNat 0
/-- Sets a w register. -/
def Region.setW (n : BitVec 4) (v : W64) (r : Region) : Region := { r with w := r.w.set n.toNat v }
/-- An i register. -/
def Region.ireg (r : Region) (n : Nat) : W32 := r.i.getD n 0
/-- Sets an i register. -/
def Region.setI (n : Nat) (v : W32) (r : Region) : Region := { r with i := r.i.set n v }
/-- Operand b: wB, or IMM32 sign-extended (R99, R216). -/
def Region.opB (r : Region) (g : FmtG) : W64 := if g.imm = 1 then g.imm32.signExtend 64 else r.wreg g.wb
/-- Argument slot of a format G instruction. -/
def slotOf (s : State) (r : Region) (g : FmtG) : Cap := s.arg r.seq g.slot.toNat

/-- Sets the RW fields of st, bits 7 to 0 (R200). -/
def Region.setSt (v : W64) (r : Region) : Region := { r with st := writeSt r.st v }

/-- Executes an instruction that needs no memory and completes in its issue cycle (R201). -/
def simpleCtl (s : State) (f : Region → Region → Region) : Out :=
  ctlTurn s fun r => .next (ctlNext s r (f r))

/-! Word instructions (R216). -/

/-- MOVW. -/
def execMovw (g : FmtG) (s : State) : Out := simpleCtl s fun r => Region.setW g.wd (r.opB g)
/-- MOVW.I. -/
def execMovwI (g : FmtG) (s : State) : Out := simpleCtl s fun r => Region.setI g.wd.toNat ((r.opB g).setWidth 32)
/-- MOVW.R. -/
def execMovwR (g : FmtG) (s : State) : Out := simpleCtl s fun r => Region.setW g.wd ((r.ireg g.wa.toNat).setWidth 64)
/-- ADDW wraps modulo 2^64. -/
def execAddw (g : FmtG) (s : State) : Out := simpleCtl s fun r => Region.setW g.wd (r.wreg g.wa + r.opB g)

/-- CMPW. -/
def execCmpw (g : FmtG) (s : State) : Out :=
  simpleCtl s fun r r' => { r' with st := compareSt r'.st (r.wreg g.wa) (r.opB g) }
/-- RDST. -/
def execRdst (g : FmtG) (s : State) : Out := simpleCtl s fun r => Region.setW g.wd r.st
/-- WRST. -/
def execWrst (g : FmtG) (s : State) : Out := simpleCtl s fun r => Region.setSt (r.opB g)
/-- RDCYC. -/
def execRdcyc (g : FmtG) (s : State) : Out := simpleCtl s fun r => Region.setW g.wd (s.die r.die).cycle

/-- Byte offset o of a memory form (R216). -/
def wordOfs (r : Region) (g : FmtG) : Nat := (r.wreg g.wa + r.opB g).toNat

/-- Words of a memory form: the checks of the whole access, its alignment among its bounds (R158, R216), then f. -/
def wordAccess (s : State) (r : Region) (g : FmtG) (n : Nat) (store : Bool) (f : Cap → Nat → Option State × State) : Out :=
  let k := slotOf s r g
  let o := wordOfs r g
  let need := if store then rWrite else rRead
  match capCheckAt k need o n 8 with
  | some c => .next (ctlRefused s r c store k (faultOfs k c o n) need)
  | none => match f k o with
    | (some s, _) => .next s
    | (none, s) => .next s

/-- Loads n words and completes with f. -/
def loadWords (g : FmtG) (s : State) (n : Nat) (f : List W64 → Region → Region) : Out :=
  ctlMem s fun r =>
    wordAccess s r g (8 * n) false fun k o =>
      match ctlReads s r k o rRead n with
      | (some vs, s) => (some (ctlGo s r.die r.rblk (r.pc + 8) 2 (f vs)), s)
      | (none, s) => (none, s)

/-- Stores words and completes. -/
def storeWords (g : FmtG) (s : State) (vs : Region → List W64) : Out :=
  ctlMem s fun r =>
    wordAccess s r g (8 * (vs r).length) true fun k o =>
      match ctlWrites s r k o rWrite (vs r) with
      | (some _, s) => (some (ctlGo s r.die r.rblk (r.pc + 8) 2 id), s)
      | (none, s) => (none, s)

/-- LDW. -/
def execLdw (g : FmtG) (s : State) : Out := loadWords g s 1 fun vs => Region.setW g.wd (vs.getD 0 0)
/-- STW. -/
def execStw (g : FmtG) (s : State) : Out := storeWords g s fun r => [r.wreg g.wd]
/-- SAVE.W. -/
def execSaveW (g : FmtG) (s : State) : Out := storeWords g s fun r => r.w
/-- SAVE.IS. -/
def execSaveIs (g : FmtG) (s : State) : Out := storeWords g s fun r => r.i.map (·.setWidth 64) ++ [r.st]
/-- RSTR.W. -/
def execRstrW (g : FmtG) (s : State) : Out := loadWords g s 16 fun vs r => { r with w := vs }
/-- RSTR.IS. -/
def execRstrIs (g : FmtG) (s : State) : Out :=
  loadWords g s 5 fun vs r => Region.setSt (vs.getD 4 0) { r with i := (vs.take 4).map (·.setWidth 32) }

/-! Branches and calls (R214, R215). -/

/-- Target of a branch: pc + 8 x OFS. An offset below the header wraps modulo 2^44, as object offsets do. -/
def branchTarget (pc : Nat) (b : FmtB) : Nat := (((pc : Int) + 8 * b.ofs.toInt) % (2 ^ 44 : Nat)).toNat

/-- Goes to a target: a taken branch adds one cycle (R201). -/
def ctlJump (s : State) (r : Region) (pc : Nat) (f : Region → Region) : State := ctlGo s r.die r.rblk pc 2 f

/-- BR. -/
def execBr (b : FmtB) (s : State) : Out := ctlTurn s fun r => .next (ctlJump s r (branchTarget r.pc b) id)

/-- BRC. -/
def execBrc (b : FmtB) (s : State) : Out :=
  ctlTurn s fun r =>
    .next (if condHolds r.st b.cc.toNat then ctlJump s r (branchTarget r.pc b) id else ctlNext s r id)

/-- LOOP. -/
def execLoop (b : FmtB) (s : State) : Out :=
  ctlTurn s fun r =>
    let v := r.wreg b.cc - 1
    .next (if v ≠ 0 then ctlJump s r (branchTarget r.pc b) (Region.setW b.cc v) else ctlNext s r (Region.setW b.cc v))

/-- SPILL_LIMIT: the spill access of frame f fails R158 on ks (R215). -/
def spillFault (s : State) (r : Region) : State :=
  vectorFault s r fcSpill r.pc srcCtl 0 [0x3FFF, s.wordAt r r.pc, r.pc, 0, 0, 0]

/-- Spill address of frame f (R215). -/
def spillOfs (r : Region) (f : Nat) : Nat := r.ks.cursor + 8 * f

/-- CALL: the innermost eight frames stay on chip (R215). -/
def execCall (b : FmtB) (s : State) : Out :=
  ctlMem s fun r =>
    let dest := branchTarget r.pc b
    let push (r : Region) : Region :=
      { r with depth := r.depth + 1, frames := (BitVec.ofNat 64 (r.pc + 8) :: r.frames).take 8 }
    if r.depth < 8 then .next (ctlJump s r dest push)
    else
      let o := spillOfs r (r.depth - 8)
      if (capCheck r.ks rWrite o 8).isSome then .next (spillFault s r)
      else match ctlWrite s r r.ks o 8 (r.frames.getD 7 0) rWrite with
        | .stop s => .next s
        | .ok _ s => .next (ctlGo s r.die r.rblk dest 3 push)

/-- RET (R215). -/
def execRet (s : State) : Out :=
  ctlMem s fun r =>
    if r.depth = 0 then .next (trapIllegal s r)
    else
      let dest := (r.frames.getD 0 0).toNat
      let pop (more : List W64) (r : Region) : Region :=
        { r with depth := r.depth - 1, frames := r.frames.drop 1 ++ more }
      if r.depth ≤ 8 then .next (ctlJump s r dest (pop []))
      else
        let o := spillOfs r (r.depth - 9)
        if (capCheck r.ks rRead o 8).isSome then .next (spillFault s r)
        else match ctlRead s r r.ks o 8 rRead with
          | .stop s => .next s
          | .ok v s => .next (ctlGo s r.die r.rblk dest 3 (pop [v]))

/-! Traps and their handling (R219-R222). -/

/-- Posts the record of a TRAP or service request, which has no code of Table 22.1: CODE 0, the instruction word. -/
def postService (s : State) (r : Region) (pc : Nat) : State := postCtl s r 0 srcCtl 0x3FFF 0 (s.wordAt r pc) pc false

/-- TRAP with a code below 0x8000: the vector, with the next instruction as restart point; in a handler the system fault
queue (R219, R220). -/
def execTrapCode (code : BitVec 16) (s : State) : Out :=
  ctlTurn s fun r =>
    let t := s.now r.die
    if r.trapd then
      let s := postService s r r.pc
      .next (s.updRegion r.die r.rblk fun r => { stopAt r (r.pc + 8) t with frozen := .violation })
    else
      .next (s.updRegion r.die r.rblk fun r => enterVector r (s.tvecOf r) code.toNat (r.pc + 8) t)

/-- TRAP with a code of 0x8000 or above: a service request; the region waits for system software and then goes on at the next
instruction (R219). -/
def execTrapService (_code : BitVec 16) (s : State) : Out :=
  ctlTurn s fun r =>
    let s := postService s r r.pc
    .next (ctlNext s r fun r => { r with frozen := .service })

/-- ERET (R221). -/
def execEret (s : State) : Out :=
  ctlTurn s fun r =>
    if !r.trapd then .next (trapIllegal s r)
    else .next (s.updRegion r.die r.rblk fun r => returnFromTrap r (s.now r.die))

/-- The region is the die's system region (R20). -/
def Region.isSystem (s : State) (r : Region) : Bool := r.rblk == (s.die r.die).sysBlock

/-- SETKS (R222). -/
def execSetks (g : FmtG) (s : State) : Out :=
  ctlTurn s fun r =>
    if !r.isSystem s then .next (trapIllegal s r)
    else
      let b := (r.wreg g.wa).toNat % 256
      match s.region r.die b with
      | some x =>
        if x.frozen != .no then
          let s := s.updRegion r.die b fun y => { y with ks := slotOf s r g }
          .next (ctlNext s r (Region.setW g.wd 1))
        else .next (ctlNext s r (Region.setW g.wd 0))
      | none => .next (ctlNext s r (Region.setW g.wd 0))

/-- Drops the oldest record of a die's queue. -/
def popFault (s : State) (d : Nat) : State :=
  s.updDie d fun x => { x with faults := { x.faults with recs := x.faults.recs.drop 1 } }

/-- The eight words of a record. -/
def recWords (b : BitVec 512) : List W64 := (List.range 8).map fun i => BitVec.ofNat 64 (b.toNat / 2 ^ (64 * i))

/-- RDFQ (R222). -/
def execRdfq (g : FmtG) (s : State) : Out :=
  ctlMem s fun r =>
    if !r.isSystem s then .next (trapIllegal s r)
    else match (s.die r.die).faults.recs with
      | [] => .next (ctlNext s r (Region.setW g.wd 0))
      | x :: _ =>
        wordAccess s r g 64 true fun k o =>
          match ctlWrites s r k o rWrite (recWords x) with
          | (some _, s) => (some (ctlGo (popFault s r.die) r.die r.rblk (r.pc + 8) 2 (Region.setW g.wd 1)), s)
          | (none, s) => (none, s)

/-- The cell trap taken at an instruction boundary: the lowest cell index first; a cause for the vector is held while a
handler runs (R220, R224). -/
def trapDue (r : Region) : Option CellTrap :=
  (r.cellTraps.filter fun k => k.illegal.isSome || !r.trapd).foldl (fun (b : Option CellTrap) k =>
    match b with
    | some x => if k.cell < x.cell then some k else b
    | none => some k) none

/-- TRAP_ENTRY: a trap recorded by a cell is taken at the instruction boundary, with the instruction not yet issued, or the
waiting BELAY or WAITC, as restart point (R220, R224). -/
def execTrapEntry (s : State) : Out :=
  ctlTurn s fun r =>
    match trapDue r with
    | none => .next s
    | some k =>
      let t := s.now r.die
      let s := s.updRegion r.die r.rblk fun r => { r with cellTraps := r.cellTraps.erase k }
      match k.illegal with
      | some p =>
        let s := postCtl s r fcIllegal srcCell k.cell p (s.wordAt r r.pc) r.pc false
        .next (s.updRegion r.die r.rblk fun r => stopAt r r.pc t)
      | none =>
        .next (s.updRegion r.die r.rblk fun r =>
          { enterVector r (s.tvecOf r) k.code r.pc t with cellsHeld := true })

/-! Configuring, running and waiting (R203-R207). -/

/-- CFG clears the sticky flags and begins to apply its commands in the next cycle (R203). -/
def execCfg (k : FmtK) (s : State) : Out :=
  ctlTurn s fun r =>
    if r.running then .next (trapIllegal s r)
    else
      let t := s.now r.die
      let run : CfgRun :=
        { off := k.off.toNat, count := k.cnt.toNat, pos := 0, base := 0, cover := .none, exts := [], at_ := t + 1, pc := r.pc }
      .next (s.updRegion r.die r.rblk fun r =>
        { r with st := clearFlags r.st, ctl := .cfg, cfg := some run, cfgAt := t,
                 cells := r.cells.map fun c =>
                   (c.1, { c.2 with cfg := { c.2.cfg with wrote := [], tokNew := List.replicate 4 false } }) })

/-- PCFG changes timing only (R204). -/
def execPcfg (_k : FmtK) (s : State) : Out := ctlTurn s fun r => .next (ctlNext s r id)

/-- Pass count of a RUN: the product of the selected i registers (R205). -/
def passCount (r : Region) (m : BitVec 4) : Nat :=
  (List.range 4).foldl (fun n d => if m.getLsbD d then n * (r.ireg d).toNat else n) 1

/-- Ports with a start mark, by cell (R205). -/
def startPorts (r : Region) : List (Nat × Nat) :=
  r.cells.flatMap fun c => ((List.range 4).filter fun p => c.2.cfg.starts.getD p false).map fun p => (c.1, p)

/-- RUN (R205). A run that follows an abort waits for the task's detached XFERs (R303). -/
def execRun (m : FmtR) (s : State) : Out :=
  ctlTurn s fun r =>
    if r.running then .next (trapIllegal s r)
    else match r.runTrap with
      | some c => .next (systemTrap s r c r.pc (s.wordAt r r.pc))
      | none =>
        let n := passCount r m.mask
        if 2 ^ 64 ≤ n then .next (trapIllegal s r)
        else if s.cmds.any fun c => c.seq == r.seq && c.rblk == detached then .next s
        else
          let t := s.now r.die
          let s := invalidateL1 s r
          .next (ctlNext s r fun r =>
            { r with running := true, runAt := t + 1, passes := n,
                     passNext := if (startPorts r).isEmpty then n else 0, lastAct := t })

/-- Slots of an input port: those of the link that feeds it, or 16 (R13). -/
def Region.portSlots (r : Region) (c p : Nat) : Nat :=
  match r.feeder c p with
  | some (x, m) => (r.cell x).cfg.slots m
  | none => 16

/-- RUN_PASS: the start tokens of the next pass go out together once every start-marked port has a free slot (R205). They are
valid in the cycle in which they are delivered (R13). -/
def execRunPass (s : State) : Out :=
  ctlTurn s fun r =>
    let t := s.now r.die
    let ps := startPorts r
    let free (cp : Nat × Nat) : Bool :=
      let y := (r.cell cp.1).rt
      let p := y.port cp.2
      y.lost || occupancy p.q p.popped p.popAt t < r.portSlots cp.1 cp.2
    if r.live && r.runAt ≤ t && r.passNext < r.passes && ps.all free then
      let k : Token := { Token.plain .ctl (BitVec.ofNat 64 r.passNext) with born := t - 1 }
      .next (s.updRegion r.die r.rblk fun r =>
        { ps.foldl (fun r cp => r.updRt cp.1 fun y => y.arrive cp.2 k) r with
          passNext := r.passNext + 1, lastAct := max r.lastAct t })
    else .next s

/-- A cell that will act without a further token: a divider that is busy, a result or quantised value not yet due, a WAITW on
its monitor (R17, R108, R125, R193). -/
def cellBusy (x : Cell) (t : Nat) : Bool :=
  !x.cfg.scout &&
  ((t < x.rt.busy && x.rt.ports.any fun p => !p.q.isEmpty) || x.rt.results.any (fun k => t < k.due) ||
   x.rt.qbuf.any (fun k => t < k.due) || x.rt.waiting.isSome)

/-- A command that a BELAY does not wait for: an MLOAD that has faulted and only consumes what is left of its stream (R104, R246). -/
def Cmd.given (c : Cmd) : Bool := c.isMatrix && c.stage == .draining

/-- Nothing of the pitch is outstanding, no cell waits for another module, and none on time alone (R17, R34, R35, R104). -/
def nothingDue (s : State) (r : Region) (t : Nat) : Bool :=
  let mine (d b : Nat) : Bool := d == r.die && b == r.rblk
  s.reqs.all (fun q => !mine q.die q.rblk || q.scout) && s.cmds.all (fun c => !mine c.die c.rblk || c.given) &&
  s.asks.all (fun a => !(mine a.who.die a.who.rblk && a.who.port == cellPort)) &&
  r.passes ≤ r.passNext && r.cells.all fun c => !cellBusy c.2 t

/-- The pitch is quiescent in cycle t: nothing acted in it and nothing is due (R17). -/
def quiescent (s : State) (r : Region) (t : Nat) : Bool := r.lastAct < t && nothingDue s r t

/-- BELAY issues and waits (R206). -/
def execBelay (s : State) : Out :=
  ctlTurn s fun r => .next (s.updRegion r.die r.rblk fun r => { r with ctl := .belay (s.now r.die) })

/-- WAITC tests at once, and waits where neither the pitch is quiescent nor its time is up (R207). -/
def execWaitc (g : FmtG) (s : State) : Out :=
  ctlTurn s fun r =>
    let t := s.now r.die
    let b := (r.opB g).toNat
    if !r.running || quiescent s r t then .next (ctlNext s r (Region.setW g.wd 1))
    else if b = 0 then .next (ctlNext s r (Region.setW g.wd 0))
    else .next (s.updRegion r.die r.rblk fun r => { r with ctl := .waitc g.wd.toNat (t + b) })

/-- WAITC_END (R207). -/
def execWaitcEnd (s : State) : Out :=
  ctlTurn s fun r =>
    match r.ctl with
    | .waitc wd dl =>
      let t := s.now r.die
      if quiescent s r t then .next (ctlNext s r (Region.setW (BitVec.ofNat 4 wd) 1))
      else if dl ≤ t then .next (ctlNext s r (Region.setW (BitVec.ofNat 4 wd) 0))
      else .next s
    | _ => .next s

/-! Yielding and halting (R217, R218). -/

/-- Priority of a queued task (R275). -/
def Task.level (t : Task) : Nat := min 7 (t.prio + t.rises)

/-- YIELD: with a save area and an equal or higher task queued for the die, the task is saved as FREEZE saves it, with the next
instruction as restart point; otherwise nothing (R217). -/
def execYieldOp (s : State) : Out :=
  ctlTurn s fun r =>
    if r.running then .next (trapIllegal s r)
    else match s.task r.seq with
      | none => .next (ctlNext s r id)
      | some t =>
        let due := s.tasks.any fun x => x.die == r.die && x.state == .queued && t.selPrio ≤ x.level
        if due && t.packet.getLsbD 52 && t.pre == .no then
          .next ((ctlNext s r id).updTask r.seq fun t => { t with pre := .freeze })
        else .next (ctlNext s r id)

/-- A request that writes. -/
def Req.isWrite (q : Req) : Bool :=
  match q.kind with
  | .load | .capLoad | .tile | .prefetch | .ldacq | .monw | .futget | .keyRead => false
  | _ => true

/-- Every write of a task has been acknowledged at SYSTEM scope, and no command of the region runs (R218). -/
def haltReady (s : State) (r : Region) : Bool :=
  s.reqs.all (fun q => !(q.isWrite && q.seq s == r.seq)) &&
  s.asks.all (fun a => !(a.who.die == r.die && a.who.rblk == r.rblk && a.what.isNone)) &&
  s.cmds.all fun c => !(c.die == r.die && c.rblk == r.rblk)

/-- FCODE of a task that a handler ends (R218). -/
def haltCode (r : Region) : Nat := let c := fieldNat r.st 16 16; if 0xFF00 ≤ c then c - 0xFF00 else 0

/-- HALT (R218): in a handler it first stops the cells and discards their requests; it waits; then the region returns, and with
the last region, or from a handler at once, the task ends (R274). -/
def execHalt (s : State) : Out :=
  ctlMem s fun r =>
    if r.running && !r.trapd then .next (trapIllegal s r)
    else
      let s := if r.running then
          let s := { s with reqs := s.reqs.filter fun q => !(q.die == r.die && q.rblk == r.rblk) }
          s.updRegion r.die r.rblk fun r => { r with running := false }
        else s
      let s := s.updRegion r.die r.rblk fun r => { r with ctl := .halt }
      if !haltReady s r then .next s
      else if r.trapd then .next (endTask s r.seq (r.wreg 0) true (haltCode r))
      else
        let s := (stopRegion s r).updTask r.seq fun t => { t with halted := t.halted + 1 }
        if (s.regionsOf r.seq).isEmpty then .next (endTask s r.seq (r.wreg 0) false 0) else .next s

end Sys2Proof.Machine
end

