-- ==== Sys2Proof/Machine/Reorder.lean ====
section
/-! DEFINITION. Reorder stores: JOIN and UNJOIN (R208-R210), their checks, period, size and space (R49-R53), and what a store
admits and issues (R54-R57). -/

namespace Sys2Proof.Machine

/-! The join descriptor (R208, Table 13.3). -/

/-- A bound word: dimension, lane level, bound. -/
structure BoundWord where
  dim : Nat
  lane : Bool
  bound : Nat
  deriving DecidableEq, Repr

/-- A join descriptor; bad where a reserved bit or a count is wrong. -/
structure JoinDesc where
  lanes : List LaneLink
  bounds : List BoundWord
  bad : Bool

/-- Reads n words of 4 bytes of the route image; none where an access stops. -/
def imageWords (s : State) (r : Region) (o : Int) : Nat → Option (List Nat) × State
  | 0 => (some [], s)
  | n + 1 =>
    match routeRead s r o 4 with
    | .stop s => (none, s)
    | .ok v s =>
      match imageWords s r (o + 4) n with
      | (some l, s) => (some (v.toNat :: l), s)
      | x => x

/-- A lane word. -/
def laneWord (w : Nat) : LaneLink := ⟨w / 2 ^ 18 % 2 ^ 14, w / 2 ^ 16 % 4, w / 4 % 2 ^ 14, w % 4⟩

/-- The descriptor from its words. -/
def joinDesc (r : Region) (ws : List Nat) : JoinDesc :=
  let w0 := ws.getD 0 0
  let l := w0 % 128
  let nb := w0 / 2 ^ 16 % 256
  let lanes := ((ws.drop 1).take l).map laneWord
  let bw := (ws.drop (1 + l)).take nb
  let ports := lanes.map fun x => (x.ccell, x.cin)
  { lanes := lanes
    bounds := bw.map fun w => ⟨w / 2 ^ 30 % 4, w.testBit 29, w % 2 ^ 16 + 1⟩
    bad := w0 / 2 ^ 24 != 0 || w0 / 2 ^ 7 % 2 ^ 9 != 0 || 12 < nb || l == 0 || 64 < l ||
           bw.any (fun w => w / 2 ^ 16 % 2 ^ 13 != 0) ||
           lanes.any (fun x => r.cellCount ≤ x.pcell || r.cellCount ≤ x.ccell) || ports.dedup.length != ports.length }

/-- Reads the descriptor at byte 4 x DESC of the image. -/
def readDesc (s : State) (r : Region) (desc : BitVec 28) : Option JoinDesc × State :=
  match imageWords s r (4 * desc.toNat) 1 with
  | (none, s) => (none, s)
  | (some ws, s) =>
    let w0 := ws.getD 0 0
    match imageWords s r (4 * desc.toNat) (1 + w0 % 128 + min 12 (w0 / 2 ^ 16 % 256)) with
    | (some ws, s) => (some (joinDesc r ws), s)
    | (none, s) => (none, s)

/-- Does a bound word name this level? -/
def BoundWord.names (b : BoundWord) (l : Level) : Bool := l.rag && l.dim == b.dim && l.lane == b.lane

/-- A map with its ragged levels at their bounds. -/
def atBounds (m : OMap) (bs : List BoundWord) : OMap :=
  m.map fun l => match bs.find? (·.names l) with | some b => { l with ext := b.bound } | none => l

/-- A bound word fits the two maps (R208). -/
def boundOk (p c : OMap) (b : BoundWord) : Bool :=
  (p.any b.names || c.any b.names) && (p.filter b.names).all (fun l => b.bound ≤ l.ext) &&
  (c.filter b.names).all fun l => b.bound == l.ext

/-- What the checks of a JOIN give: a fault code with P and G for the record, or the period and N. -/
inductive JoinCheck where
  | bad (code p g : Nat)
  | ok (pj cj : OMap) (period : Period) (n : Nat)

/-- The descriptor and the maps (R49, R208): none where they pass. -/
def mapsMatch (d : JoinDesc) (p c : OMap) : Bool :=
  let pj := atBounds p d.bounds
  let cj := atBounds c d.bounds
  !d.bad && d.bounds.all (boundOk p c) && d.lanes.length == p.lanes && d.lanes.length == c.lanes &&
  (List.range 4).all (fun i => pj.extentOf i == cj.extentOf i) && (OMap.refine pj cj).isSome

/-- Every ragged level has a bound word (R52, R208). -/
def boundsGiven (d : JoinDesc) (m : OMap) : Bool := m.all fun l => !l.rag || d.bounds.any (·.names l)

/-- The checks of JOIN.REORDER up to the size, in the order of R209. An order-table entry that is no order map counts here as one that
is unassigned (log 64; R60). -/
def joinChecks (d : JoinDesc) (p c : Option OMap) : JoinCheck :=
  match p, c with
  | some p, some c =>
    if !mapsMatch d p c then .bad fcOrder 0 0
    else if !(boundsGiven d p && boundsGiven d c) then .bad fcStoreSize 0 0
    else
      let pj := atBounds p d.bounds
      let cj := atBounds c d.bounds
      match OMap.refine pj cj with
      | none => .bad fcOrder 0 0
      | some (a, b) =>
        let x := stripOuter a b
        let per : Period := ⟨x.1, x.2⟩
        if 65536 < per.size then .bad fcPeriod per.size 0 else .ok pj cj per per.minSize
  | _, _ => .bad fcOrder 0 0

/-- Stores that a JOIN of these lanes replaces: those at its consumer ports (R49). -/
def Store.shares (st : Store) (ls : List LaneLink) : Bool :=
  st.lanes.any fun x => ls.any fun y => x.ccell == y.ccell && x.cin == y.cin

/-- Granules of a cell's local memory that near stores other than those replaced hold (R52). -/
def heldGranules (r : Region) (c : Nat) (ls : List LaneLink) : List Nat :=
  (r.stores.filter fun st => !st.far && !st.shares ls && (st.lanes.getD 0 ⟨0, 0, 0, 0⟩).ccell == c).flatMap (·.grans)

/-- Far granules of the stores that a JOIN replaces. -/
def sharedFar (r : Region) (ls : List LaneLink) : Nat :=
  (r.stores.filter fun st => st.far && st.shares ls).foldl (fun n st => n + st.granules) 0

/-- Granules of local memory below every store that the cell holds, from the top down; where they are too few, every granule that no
store holds (R52, log 55). -/
def nearGranules (held : List Nat) (g : Nat) : List Nat :=
  let all := (List.range (Config.localBytes / 64)).reverse
  let low := all.filter fun i => held.all (i < ·)
  (if g ≤ low.length then low else all.filter fun i => !held.contains i).take g

/-- Space for a store (R52): near granules from the top down, or the far pool. -/
def storeSpace (s : State) (r : Region) (ls : List LaneLink) (g : Nat) (far : Bool) : Option (List Nat × Bool) :=
  let held := heldGranules r (ls.getD 0 ⟨0, 0, 0, 0⟩).ccell ls
  if g ≤ 512 && held.length + g ≤ 512 then some (nearGranules held g, false)
  else
    let d := s.die r.die
    if far && g ≤ 1048576 && d.poolUsed - sharedFar r ls + g ≤ fieldNat d.fspool 0 32 then some ([], true) else none

/-- A JOIN fault: the record with the JOIN layout, and the controller stopped at the JOIN (R60, Table 22.4). -/
def joinFault (s : State) (r : Region) (code desc p g : Nat) : State :=
  let s := post s r.place code srcCtl false 0 [desc, p % 2 ^ 32 + (min g (2 ^ 32 - 1)) <<< 32, r.pc, 0, 0, 0]
  s.updRegion r.die r.rblk fun r => stopAt r r.pc (s.now r.die)

/-- An empty store. -/
def Store.fresh (st : Store) : Store :=
  { st with inq := st.lanes.map fun _ => .empty, held := [], admitted := 0, issued := 0, next := 0, inRun := 0, pad := 0,
            owedEor := false, hdrs := [], eot := false, stopped := false, home := false }

/-- JOIN.REORDER (R209): the store waits ceil(P / 64) cycles to be attached (R53). -/
def execJoinReorder (j : FmtJ) (s : State) : Out :=
  ctlTurn s fun r =>
    if r.running then .next (trapIllegal s r)
    else match readDesc s r j.desc with
      | (none, s) => .next s
      | (some d, s) =>
        match joinChecks d (r.order j.pord.toNat) (r.order j.cord.toNat) with
        | .bad c p g => .next (joinFault s r c j.desc.toNat p g)
        | .ok pj cj per n =>
          let w := 8 * 2 ^ j.width.toNat
          let g := ceilDiv (n * w) 512
          match storeSpace s r d.lanes g (j.far == 1) with
          | none => .next (joinFault s r fcStoreSize j.desc.toNat per.size g)
          | some (grans, far) =>
            let st : Store :=
              { lanes := d.lanes, pmap := ((r.order j.pord.toNat).getD []), cmap := ((r.order j.cord.toNat).getD []),
                pjoin := pj, cjoin := cj, period := per, width := w, granules := g, grans := grans, far := far, inq := [],
                held := [], admitted := 0, issued := 0, next := 0, inRun := 0, pad := 0, owedEor := false, hdrs := [],
                eot := false, stopped := false, home := false }
            let s := if far then s.updDie r.die fun x => { x with poolUsed := x.poolUsed + g } else s
            .next (s.updRegion r.die r.rblk fun r =>
              { r with ctl := .join st.fresh (s.now r.die + ceilDiv per.size 64) })

/-- JOIN without REORDER checks the descriptor and that the two orders are equal (R209). -/
def execJoinCheck (j : FmtJ) (s : State) : Out :=
  ctlTurn s fun r =>
    if r.running || j.far == 1 then .next (trapIllegal s r)
    else match readDesc s r j.desc with
      | (none, s) => .next s
      | (some d, s) =>
        match r.order j.pord.toNat, r.order j.cord.toNat with
        | some p, some c =>
          if d.bad || !d.bounds.all (boundOk p c) || d.lanes.length != p.lanes || !p.same c then
            .next (joinFault s r fcOrder j.desc.toNat 0 0)
          else .next (ctlNext s r id)
        | _, _ => .next (joinFault s r fcOrder j.desc.toNat 0 0)

/-- Releases the stores that share a consumer port with these lanes (R49, R210). Local memory under a near one reads as it did before the JOIN
(log 55). -/
def releaseStores (s : State) (r : Region) (ls : List LaneLink) : State :=
  let s := s.updDie r.die fun x => { x with poolUsed := x.poolUsed - sharedFar r ls }
  s.updRegion r.die r.rblk fun r => { r with stores := r.stores.filter fun st => !st.shares ls }

/-- JOIN_COMPLETE attaches the store; stores at the same consumer ports are released in that cycle (R49, R53). -/
def execJoinComplete (s : State) : Out :=
  ctlTurn s fun r =>
    match r.ctl with
    | .join st at_ =>
      if s.now r.die < at_ then .next s
      else
        let s := releaseStores s r st.lanes
        .next (ctlNext s r fun r => { r with stores := r.stores ++ [st] })
    | _ => .next s

/-- UNJOIN releases the stores at the descriptor's consumer ports and clears the producers' destination fields (R210). -/
def execUnjoin (j : FmtJ) (s : State) : Out :=
  ctlTurn s fun r =>
    if r.running || j.pord != 0 || j.cord != 0 || j.width != 0 || j.far != 0 then .next (trapIllegal s r)
    else match readDesc s r j.desc with
      | (none, s) => .next s
      | (some d, s) =>
        let s := releaseStores s r d.lanes
        .next (ctlGo s r.die r.rblk (r.pc + 8) 2 fun r =>
          d.lanes.foldl (fun r l =>
            if l.pcell < r.cellCount then
              r.updCell l.pcell fun x => { x with cfg := { x.cfg with outs := x.cfg.outs.set l.pout 0 } }
            else r) r)

/-! Admission and issue (R54-R56). -/

/-- Format that port p of an operation decodes before its first HDR: SRC for in0 of CVT and QNT, else TYPE (R48); 0 where it
has none, as in0 of DQNT. -/
def CellCfg.portFmt (x : CellCfg) (p : Nat) : Nat :=
  if p == 0 && (x.opc == 0x060 || x.opc == 0x061) then x.mods.modF 0 5
  else if p == 0 && x.opc == 0x062 then 0
  else x.mods.tyNat

/-- Reference time of the next issue (R51, R56). -/
def Store.issueAt (st : Store) : Nat := st.period.issueTime st.next st.issued

/-- At a period boundary of the producer stream (R54). -/
def Store.boundary (st : Store) : Bool := st.pad == 0 && st.admitted % st.period.cyc == 0

/-- Valid head of a lane's slots. -/
def laneHead (p : Port) (t : Nat) : Option Token :=
  match p.q with
  | k :: _ => if k.born < t then some k else none
  | [] => none

/-- A VAL that the store admits on lane i (R54): no capability or hand-over in a hidden part, and a payload that is the extension of
its low w bits. The monitor of a MONW goes with its VAL (R193). -/
def admits (r : Region) (st : Store) (i : Nat) (k : Token) : Bool :=
  let l := st.lanes.getD i ⟨0, 0, 0, 0⟩
  let ty := ((r.cell l.ccell).cfg).portFmt l.cin
  let wide := match (st.inq.getD i .empty).hdr with
    | some h => st.width < tyWidth (hdrFmt h) || (hdrScale h == 1 && st.width < 16)
    | none => false
  let v := k.pay.toNat % 2 ^ st.width
  (match k.hid with | .none => true | .mon _ => true | _ => false) &&
  (k.void || (!wide && k.pay == (if tySigned ty && v.testBit (st.width - 1) then BitVec.ofInt 64 ((v : Int) - 2 ^ st.width)
    else BitVec.ofNat 64 v)))

/-- What a vector of lane heads is to the store. -/
inductive LaneTurn where
  | wait
  | vals | eor | hdr | eot
  | bad
  deriving DecidableEq

/-- The head of lane i stands where the producer's map has it, and the store admits it (R54, R55). -/
def Store.inPlace (r : Region) (st : Store) (i : Nat) (k : Token) : Bool :=
  match k.kind with
  | .val => decide (st.inRun < st.pjoin.runLen) && admits r st i k
  | .eor => st.inRun == st.pjoin.runLen || st.pjoin.ragged
  | .hdr => st.boundary && k.pay != 0x1F
  | .eot => st.boundary && st.inRun == 0
  | _ => false

/-- Judges the lanes' heads: each in its place, and, once every lane has one, all of one kind (R24, R54, R55). -/
def Store.judge (r : Region) (st : Store) (t : Nat) : LaneTurn :=
  let heads := st.inq.map fun p => laneHead p t
  if ((List.range heads.length).zip heads).any fun x => match x.2 with | some k => !st.inPlace r x.1 k | none => false then .bad
  else match heads.mapM id with
    | none => .wait
    | some [] => .wait
    | some (k :: ks) =>
      if ks.any fun x => x.kind != k.kind then .bad
      else match k.kind with
        | .val => .vals
        | .eor => .eor
        | .hdr => .hdr
        | _ => .eot

/-- Takes every lane's head. -/
def Store.popAll (st : Store) (t : Nat) : Store :=
  { st with inq := st.inq.map (·.pop t),
            home := st.home || st.inq.any fun p => match p.q with | k :: _ => k.home | [] => false }

/-- Admits a producer vector of these elements: low bits, void flag, hidden part. -/
def Store.takeIn (st : Store) (ks : List (W64 × Bool × Hidden)) : Store :=
  { st with held := st.held ++ ((List.range ks.length).zip ks).map fun x => ⟨st.admitted, x.1, x.2.1, x.2.2.1, x.2.2.2⟩,
            admitted := st.admitted + 1 }

/-- Changes store i of a region. -/
def updStore (s : State) (r : Region) (i : Nat) (f : Store → Store) : State :=
  s.updRegion r.die r.rblk fun r => ({ r with stores := modNth r.stores i f } : Region).act (s.now r.die)

/-- A token that the store refuses is handled under R24 and names the lane-0 consumer cell, which fires on (R54, log 55). -/
def storeReject (s : State) (r : Region) (i : Nat) (st : Store) : State :=
  let l := st.lanes.getD 0 ⟨0, 0, 0, 0⟩
  s.updRegion r.die r.rblk fun r =>
    { r with stores := modNth r.stores i fun st => { st with stopped := true },
             cellTraps := r.cellTraps ++ [⟨l.ccell, 0xFF00 + fcIllegal, some l.cin⟩] }

/-- One admission, or one marker taken, in cycle t. -/
def admitStep (s : State) (r : Region) (i : Nat) (st : Store) (t : Nat) : State :=
  let ok : Bool := decide (st.admitted + 1 ≤ st.issueAt)
  if st.eot then s
  else if 0 < st.pad then
    if ok then updStore s r i fun st =>
      { st.takeIn (st.lanes.map fun _ => (0, true, .none)) with pad := st.pad - 1 }
    else s
  else match st.judge r t with
    | .wait => s
    | .bad => storeReject s r i st
    | .vals =>
      if ok then updStore s r i fun st =>
        let ks := st.inq.map fun p => match p.q with
          | k :: _ => (BitVec.ofNat 64 (k.pay.toNat % 2 ^ st.width), k.void, k.hid)
          | [] => (0, true, .none)
        { (st.popAll t).takeIn ks with inRun := st.inRun + 1 }
      else s
    | .eor => updStore s r i fun st => { st.popAll t with pad := st.pjoin.runLen - st.inRun, inRun := 0 }
    | .hdr => updStore s r i fun st =>
      let hs := st.inq.map fun p => match p.q with | k :: _ => k.pay | [] => 0
      { st.popAll t with hdrs := st.hdrs ++ [(st.admitted, hs)] }
    | .eot => updStore s r i fun st => { st.popAll t with eot := true }

/-- The store in focus: region and number. -/
def storeTurn (s : State) (f : Region → Nat → Store → Nat → State) : Out :=
  match s.region s.focus.die s.focus.rblk with
  | none => .fault .noActor
  | some r =>
    match r.stores[s.focus.id]? with
    | none => .fault .noActor
    | some st => if r.live && !st.stopped then .next (f r s.focus.id st (s.now r.die)) else .next s

/-- REORDER_STORE_ADMIT (R56). -/
def execReorderStoreAdmit (s : State) : Out := storeTurn s (admitStep s)

/-- Payload that a consumer receives for an element of width w (R54). -/
def rebuild (x : CellCfg) (p w : Nat) (v : W64) : W64 :=
  if tySigned (x.portFmt p) && v.toNat.testBit (w - 1) then BitVec.ofInt 64 ((v.toNat : Int) - 2 ^ w) else v

/-- The consumer port of lane l has room for one more token: SLOTS + 1 of its own, beside those of the producer's side (R22, log 55). -/
def laneRoom (r : Region) (t : Nat) (l : LaneLink) : Bool :=
  let y := (r.cell l.ccell).rt
  let p := y.port l.cin
  y.lost || p.q.length + (if p.popAt == t then p.popped else 0) < (r.cell l.pcell).cfg.slots l.pout

/-- Sends one token on every consumer lane: it leaves in cycle at_. -/
def sendLanes (r : Region) (st : Store) (at_ : Nat) (f : Nat → LaneLink → Token) : Region :=
  (((List.range st.lanes.length).zip st.lanes).foldl (fun r x =>
      r.updRt x.2.ccell fun y =>
        y.arrive x.2.cin { f x.1 x.2 with born := at_, home := st.home }) r).act at_

/-- One issue, or one marker sent, in cycle t: the tokens leave 2 cycles later (R53). -/
def issueStep (s : State) (r : Region) (i : Nat) (st : Store) (t : Nat) : State :=
  let at_ := t + 2
  let put (r' : Region → Region) (g : Store → Store) : State :=
    s.updRegion r.die r.rblk fun r => { r' r with stores := modNth r.stores i g }
  if !st.lanes.all (laneRoom r t) then s
  else if st.owedEor then
    put (fun r => sendLanes r st at_ fun _ _ => .plain .eor 0) fun st => { st with owedEor := false }
  else match st.hdrs with
    | (v, hs) :: rest =>
      if v == st.issued then
        put (fun r => sendLanes r st at_ fun n _ => .plain .hdr (hs.getD n 0)) fun st => { st with hdrs := rest }
      else vector s r i st at_
    | [] => vector s r i st at_
where
  /-- The next consumer vector, or the EOT after the last. -/
  vector (s : State) (r : Region) (i : Nat) (st : Store) (at_ : Nat) : State :=
    let done : Bool := st.eot && st.issued == st.admitted
    let due := st.issueAt
    if done then
      s.updRegion r.die r.rblk fun r =>
        { sendLanes r st at_ (fun _ _ => .plain .eot 0) with
          stores := modNth r.stores i fun st => { st.fresh with inq := st.inq } }
    else if due ≤ st.admitted || (st.eot && st.issued < st.admitted) then
      let src (l : Nat) : Nat × Nat := st.period.source l st.issued
      let el (l : Nat) : StoreEl :=
        (st.held.find? fun x => x.lane == (src l).1 && x.vec == (src l).2).getD ⟨0, 0, 0, true, .none⟩
      let used := (List.range st.lanes.length).map src
      s.updRegion r.die r.rblk fun r =>
        { sendLanes r st at_ (fun n l =>
            let x := el n
            if x.void then .voidVal else { Token.plain .val (rebuild (r.cell l.ccell).cfg l.cin st.width x.bits) with hid := x.hid }) with
          stores := modNth r.stores i fun st =>
            { st with held := st.held.filter fun x => !used.contains (x.lane, x.vec), issued := st.issued + 1, next := due + 1,
                      owedEor := (st.issued + 1) % st.cjoin.runLen == 0 } }
    else s

/-- REORDER_STORE_ISSUE (R56). -/
def execReorderStoreIssue (s : State) : Out := storeTurn s (issueStep s)

end Sys2Proof.Machine
end

