-- ==== Sys2Proof/Machine/Configure.lean ====
section
/-! DEFINITION. Configuration commands (R8, R9, R91-R95): what each changes, the checks made at a command, and the bookkeeping of
a CFG in progress (R94, R203). The checks at END stand in the file after this one. -/

namespace Sys2Proof.Machine

/-- The region in focus with its CFG in progress. -/
def cmdTurn (s : State) (f : Region → CfgRun → Out) : Out :=
  match s.region s.focus.die s.focus.rblk with
  | none => .fault .noActor
  | some r =>
    match r.cfg with
    | none => .fault .noActor
    | some c => f r c

/-- The configuration layout of a record (Table 22.4). -/
def configWords (c : CfgRun) (cell field : Nat) (atEnd : Bool) : List Nat :=
  [c.off % 2 ^ 28 + (c.pos % 2 ^ 20) <<< 28 + boolNat atEnd <<< 48, cell % 2 ^ 14 + (field % 64) <<< 14, c.pc, 0, 0, 0]

/-- The controller goes on after the CFG (R94, R203). -/
def cfgLeave (s : State) (r : Region) (c : CfgRun) (f : Region → Region) : State :=
  ctlGo s r.die r.rblk (c.pc + 8) 1 fun r => { f r with cfg := none }

/-- A fault at a command: it is the CFG's last, and every RUN traps until a clean CFG (R94). A command that names no
cell or field gives 0 and 0 (log 59). -/
def configFault (s : State) (r : Region) (c : CfgRun) (cell field : Nat) : State :=
  cfgLeave (post s r.place fcConfig srcCtl false 0 (configWords c cell field false)) r c fun r =>
    { r with runTrap := some fcConfig }

/-- The command is applied: it occupies n cycles (R93). -/
def cmdDone (s : State) (r : Region) (c : CfgRun) (n : Nat) (f : Region → Region) (g : CfgRun → CfgRun) : State :=
  s.updRegion r.die r.rblk fun r =>
    { f r with cfg := some { g c with pos := c.pos + 1, at_ := s.now r.die + n } }

/-- Is the command the last that the CFG counts? Only END may stand there (R9). -/
def CfgRun.isLast (c : CfgRun) : Bool := c.pos + 1 == c.count

/-- Value of a command: its prefixes, most significant first, then its own n low bits (R9). -/
def CfgRun.value (c : CfgRun) (low n : Nat) : Nat := c.exts.foldl (fun a e => a * 2 ^ 30 + e.toNat) 0 * 2 ^ n + low

/-- Width of a field; none where it is unassigned (Table 8.2). -/
def fieldWidth (f : Nat) : Option Nat :=
  if f == 0 then some 40
  else if f ≤ 4 then some 10
  else if f ≤ 8 then some 32
  else match f with
    | 9 => some 10
    | 10 => some 14
    | 11 => some 48
    | 12 => some 12
    | 13 => some 10
    | 14 => none
    | 15 => none
    | _ => if f ≤ 31 then some 64 else if f ≤ 35 then some 10
           else if f == 36 then some 70 else if f == 37 then some 38 else if f == 38 then some 70 else none

/-- A value that keeps to its field's own map (R11, R26, R94, R96, Tables 1.2, 1.3, 2.1, 8.6 to 8.9). -/
def fieldOk (cells f v : Nat) : Bool :=
  let bit (lo n : Nat) : Nat := v / 2 ^ lo % 2 ^ n
  if f == 0 then v == 0 || (decode40 (BitVec.ofNat 40 v)).isSome
  else if f ≤ 4 then
    (match bit 8 2 with | 0 => true | 1 => bit 0 8 ≤ 15 | 2 => bit 0 8 ≤ 31 | _ => false)
  else if f ≤ 8 then
    bit 8 2 == 0 &&
    (match bit 30 2 with | 0 => true | 1 => bit 16 14 < cells | 2 => bit 16 14 ≤ 47 | _ => bit 16 14 ≤ 15)
  else if f == 9 then v < 4
  else if f == 13 then bit 3 3 != 7
  else if 32 ≤ f && f ≤ 35 then v < 256
  else if f == 36 then let c := bit 0 6; (1 ≤ c && c ≤ 8) || c == 0x0E || c == 0x0F || 0x20 ≤ c
  else if f == 38 then bit 4 1 == 0
  else true

/-- Pseudo-field under which the list of commands notes a TOKEN or START to port p. -/
def portNote (p : Nat) : Nat := 64 + p

/-- Notes the position of the command that last wrote a field (R48). -/
def CellCfg.note (x : CellCfg) (f pos : Nat) : CellCfg := { x with wrote := put x.wrote f pos }

/-- A WRITE of a field (R32, R93, R95). A WRITE of field 0 clears the initial register values and every port's list and
mark. -/
def CellCfg.setField (x : CellCfg) (f v pos : Nat) : CellCfg :=
  let x := x.note f pos
  let bit (lo n : Nat) : Nat := v / 2 ^ lo % 2 ^ n
  if f == 0 then
    { x with op := BitVec.ofNat 40 v, rinit := [], sinit := [], tinit := [], toks := List.replicate 4 [],
             starts := List.replicate 4 false }
  else if f ≤ 4 then { x with ins := x.ins.set (f - 1) (BitVec.ofNat 10 v) }
  else if f ≤ 8 then { x with outs := x.outs.set (f - 5) (BitVec.ofNat 32 v) }
  else if f == 9 then { x with mode := BitVec.ofNat 10 v }
  else if f == 10 then { x with leader := BitVec.ofNat 14 v }
  else if f == 11 then { x with lanes := BitVec.ofNat 48 v }
  else if f == 12 then { x with keep := BitVec.ofNat 12 v }
  else if f == 13 then { x with memattr := BitVec.ofNat 10 v }
  else if f ≤ 31 then { x with consts := x.consts.set (f - 16) (BitVec.ofNat 64 v) }
  else if f ≤ 35 then { x with binds := x.binds.set (f - 32) (some v) }
  else if f == 36 then { x with rinit := put x.rinit (bit 0 6) (BitVec.ofNat 64 (v / 64)) }
  else if f == 37 then { x with sinit := put x.sinit (bit 0 6) (BitVec.ofNat 32 (v / 64)) }
  else { x with tinit := put x.tinit (bit 5 1 * 16 + bit 0 4) (BitVec.ofNat 64 (v / 64)) }

/-- Cells that a WRITE to cell c reaches (R91, R92); none where c does not fit its cover. -/
def writeTargets (r : Region) (run : CfgRun) (c : Nat) : Option (List Nat) :=
  match run.cover with
  | .none => some [run.base + c]
  | .rep st n => some ((List.range n).map fun m => run.base + c + m * st)
  | .mask r0 r1 c0 c1 =>
    if 61 < c then none
    else some ((List.range (r1 + 1 - r0)).flatMap fun i => (List.range (c1 + 1 - c0)).map fun j =>
      62 * ((r0 + i) * r.width + (c0 + j)) + c)

/-- Cycles of a WRITE: ceil(count / 16) under REPEAT, otherwise one (R93). -/
def CfgRun.writeCycles (c : CfgRun) : Nat := match c.cover with | .rep _ n => ceilDiv n 16 | _ => 1

/-- WRITE (R9, R92, R93, R95). -/
def execWrite (c : BitVec 14) (f : BitVec 6) (v : BitVec 10) (s : State) : Out :=
  cmdTurn s fun r run =>
    let val := run.value v.toNat 10
    let bad : Out := .next (configFault s r run (run.base + c.toNat) f.toNat)
    if run.isLast then bad
    else match fieldWidth f.toNat, writeTargets r run c.toNat with
      | some w, some ts =>
        if 2 ^ w ≤ val || ts.any (r.cellCount ≤ ·) || !fieldOk r.cellCount f.toNat val then bad
        else .next (cmdDone s r run run.writeCycles
          (fun r => ts.foldl (fun r t => r.updCell t fun x => { x with cfg := x.cfg.setField f.toNat val run.pos }) r)
          fun run => { run with exts := [], cover := .none })
      | _, _ => bad

/-- EXTEND: at most four before a WRITE or TOKEN (R9). -/
def execExtend (v : BitVec 30) (s : State) : Out :=
  cmdTurn s fun r run =>
    if run.isLast || 4 ≤ run.exts.length then .next (configFault s r run 0 0)
    else .next (cmdDone s r run 1 id fun run => { run with exts := run.exts ++ [v] })

/-- SELECT BASE: it may stand between a cover and its WRITE, ahead of the WRITE's EXTENDs (R91, R92). -/
def execSelectBase (b : BitVec 14) (s : State) : Out :=
  cmdTurn s fun r run =>
    if run.isLast || !run.exts.isEmpty then .next (configFault s r run 0 0)
    else .next (cmdDone s r run 1 id fun run => { run with base := b.toNat })

/-- A command that neither continues a value nor may stand under a cover (R9, R92). -/
def CfgRun.clear (c : CfgRun) : Bool := !c.isLast && c.exts.isEmpty && c.cover == .none

/-- SELECT REPEAT (R91). -/
def execSelectRepeat (st n : BitVec 14) (s : State) : Out :=
  cmdTurn s fun r run =>
    if !run.clear || st == 0 then .next (configFault s r run 0 0)
    else .next (cmdDone s r run 1 id fun run => { run with cover := .rep st.toNat (n.toNat + 1) })

/-- SELECT BMASK (R91). -/
def execSelectBmask (a b c d : BitVec 4) (s : State) : Out :=
  cmdTurn s fun r run =>
    if !run.clear || b.toNat < a.toNat || d.toNat < c.toNat || r.height ≤ b.toNat || r.width ≤ d.toNat then
      .next (configFault s r run 0 0)
    else .next (cmdDone s r run 1 id fun run => { run with cover := .mask a.toNat b.toNat c.toNat d.toNat })

/-- TOKEN adds an initial token; the first to a port in a CFG replaces the port's list (R9, R25, R32). -/
def execToken (k : BitVec 3) (c : BitVec 14) (p : BitVec 2) (v : BitVec 9) (s : State) : Out :=
  cmdTurn s fun r run =>
    let cell := run.base + c.toNat
    let val := run.value v.toNat 9
    if run.isLast || run.cover != .none || k == 7 || r.cellCount ≤ cell || 2 ^ 64 ≤ val then
      .next (configFault s r run cell 0)
    else
      let tok := Token.plain (Kind.ofCode k.toNat) (BitVec.ofNat 64 val)
      .next (cmdDone s r run 1
        (fun r => r.updCell cell fun x =>
          let g := x.cfg
          let old := if g.tokNew.getD p.toNat false then g.toks.getD p.toNat [] else []
          { x with cfg := { g.note (portNote p.toNat) run.pos with
                            toks := g.toks.set p.toNat (old ++ [tok]), tokNew := g.tokNew.set p.toNat true } })
        fun run => { run with exts := [] })

/-- START sets a port's start mark (R32). -/
def execStart (c : BitVec 14) (p : BitVec 2) (s : State) : Out :=
  cmdTurn s fun r run =>
    let cell := run.base + c.toNat
    if !run.clear || r.cellCount ≤ cell then .next (configFault s r run cell 0)
    else .next (cmdDone s r run 1
      (fun r => r.updCell cell fun x =>
        { x with cfg := { x.cfg.note (portNote p.toNat) run.pos with starts := x.cfg.starts.set p.toNat true } })
      id)

/-- Fetch of the next command of a CFG (R203): the word, or a state in which none is applied now. -/
def fetchCfg (s : State) (r : Region) (c : CfgRun) : CAcc := routeRead s r (4 * (c.off + c.pos)) 4

end Sys2Proof.Machine
end

