-- ==== Sys2Proof/Machine/Convert.lean ====
section
/-! DEFINITION. CVT, QNT, DQNT, CBLOAD and HDRSET (R121-R129), with the dither (R75), the noise shaping (R76) and the block
scale (R77). -/

namespace Sys2Proof.Machine

/-- The header of a hand-over stream (R244). -/
def handHdr : W64 := 0x1F

/-- Exact value of a handed-over element: S x 2^(A - 104) and its class (R83, R244). -/
def handValue (k : Token) : Option FVal :=
  match k.hid with
  | .hand a hi cls =>
    match cls with
    | .fin =>
      let x : BitVec 128 := hi ++ k.pay
      let n := x.toInt
      some (.fin (decide (n < 0)) n.natAbs (a.toInt - 104))
    | .pinf => some (.inf false)
    | .ninf => some (.inf true)
    | .nan => some (.nan false false 0x400000)
  | _ => none

/-- Exact value of a source element: a handed-over element, an integer or a pattern of a format. -/
def sourceValue (cx : Cx) (h : W64) (k : Token) : Option FVal :=
  if hdrFmt h == 0x1F then handValue k
  else if hdrFmt h ≤ 8 then some (ofIntF (intOf (hdrFmt h) k.pay))
  else some (decodeUnder cx.book h k.pay)

/-! The axis of a noise-shaping cell (R123). -/

/-- The axis data of an element: row key, row count, and whether it is the first and the last position of its run. -/
structure AxisPos where
  key : Nat
  rows : Nat
  first : Bool
  last : Bool
  deriving DecidableEq, Repr

/-- Axis data at a position; none where the order has no level on the axis (R123). -/
def axisAt (o : OMap) (axis cyc : Nat) : Option AxisPos :=
  let lc := ((o.zip (o.counters 0 (cyc % o.cycles))).filter (!·.1.lane))
  match lc.findIdx? (·.1.dim == axis) with
  | none => none
  | some i =>
    let ax := lc.filter (·.1.dim == axis)
    let inner := (lc.drop i).filter (·.1.dim != axis)
    some { key := OMap.undigits (inner.map (·.1.ext)) (inner.map (·.2)), rows := prodNat (inner.map (·.1.ext)),
           first := ax.all (·.2 == 0), last := ax.all fun x => x.2 + 1 == x.1.ext }

/-- Cycle index of a cell's position in its in0 order. -/
def posIndex (o : OMap) (y : CellRt) : Nat :=
  (if y.runPos < o.runLen then y.runIdx * o.runLen + y.runPos else (y.runIdx + 1) * o.runLen) % o.cycles

/-- A VAL advances the position (R123). -/
def advVal (o : OMap) (y : CellRt) : CellRt :=
  if y.runPos < o.runLen then { y with runPos := y.runPos + 1 } else { y with runIdx := y.runIdx + 1, runPos := 1 }

/-- An EOR closes the run (R123). -/
def advEor (y : CellRt) : CellRt := { y with runIdx := y.runIdx + 1, runPos := 0 }

/-- An EOT ends the tensor. -/
def advEot (y : CellRt) : CellRt := { y with runIdx := 0, runPos := 0 }

/-- What one element becomes: the effect, or a port whose head is refused, or a wait. -/
inductive Conv where
  | hold
  | reject (port : Nat)
  | out (e : Effect)

/-- Conversion of one element x of the stream (none: void) under RM, in sending order, with the residue ports (R73, R75-R77,
R122-R124). -/
def convertOne (cx : Cx) (k : Token) (x : Option FVal) (scale : Option Nat) : Conv :=
  let m := cx.m
  let ty := m.tyNat
  let nsh := m.rmNat == 5
  let axis := m.modF 6 2
  let sbase := m.modF 8 6
  let rsdIn := m.modF 14 1 == 1
  let rsdOut := m.modF 15 1 == 1
  let o := (cx.orderIn 0).getD OMap.unit
  let y := cx.x.rt
  let ap := if nsh then axisAt o axis (posIndex o y) else none
  let outs := cx.x.cfg.dataOuts.filter fun d => !(rsdOut && d == 1)
  let needRsd := rsdIn && (match ap with | some a => a.first | none => false)
  let rsd := cx.head 1
  if rsdIn && cx.refuses 1 [.rsd] (fun _ => false) then .reject 1
  else if needRsd && rsd.isNone then .hold
  else
    let badRsd := needRsd && (match rsd, ap with
      | some k', some a => fieldNat k'.pay 32 6 != a.key || fieldNat k'.pay 38 26 != 0
      | _, _ => false)
    if badRsd then .reject 1
    else
      let idx := match ap with | some a => sbase + a.key | none => 0
      let r0 := match ap with
        | some _ => if needRsd then (match rsd with | some k' => fieldNat k'.pay 0 32 | none => 0)
                    else (y.sreg.getD idx 0).toNat
        | none => 0
      let sc := scale.getD 127
      let scaled (v : FVal) : FVal := if scale.isSome then scaleF v (254 - sc) else v
      let res : Shaped :=
        match x with
        | none => ⟨0, r0, 0⟩
        | some v =>
          if nsh then shapeOne ty v r0 scale
          else
            let mode := if m.rmNat == 4 then .dith (ditherTau y.dpos y.phi.toNat) else rmodeOf m.rmNat
            match v with
            | .nan n _ _ =>
              if scale.isSome then ⟨defaultNaN ty n, r0, sigFlag [v]⟩
              else ⟨(deliver ty mode v).bits, r0, (deliver ty mode v).flags⟩
            | _ => ⟨(deliver ty mode (scaled v)).bits, r0, (deliver ty mode (scaled v)).flags⟩
      let pay : W64 := BitVec.ofNat 64 (if scale.isSome then res.code + sc * 256 else res.code)
      let tok : Token := match x with | none => .voidVal | some _ => .plain .val pay
      let lastRun := match ap with | some a => a.last | none => false
      let sends := outs.map (fun d => (d, tok)) ++
        (if rsdOut && lastRun then
          (if cx.x.cfg.dataOuts.contains 1 then
            [(1, Token.plain .rsd (BitVec.ofNat 64 (res.res + (match ap with | some a => a.key | none => 0) <<< 32)))]
           else [])
         else [])
      .out
        { takes := if needRsd then [1] else []
          sends := sends
          val := match x with | none => none | some _ => some pay
          rdst := match x with | none => 0 | some _ => m.rdstNat
          rdstVal := pay
          flags := res.flags
          upd := fun y =>
            let y := if ap.isSome then { y with sreg := y.sreg.set idx (BitVec.ofNat 32 res.res) } else y
            let y := { advVal o y with begun := y.begun || lastRun }
            if k.void then y else { y with dpos := (y.dpos + 1) % 32 } }

/-- What a marker changes in a converting cell, in sending order: an HDR restarts the dither position (R75), the EOR that ends
the axis runs zeroes the residues (R123), an EOT ends the tensor. -/
def convertMark (cx : Cx) (k : Token) (outHdr : W64) : Effect :=
  let m := cx.m
  let o := (cx.orderIn 0).getD OMap.unit
  let outs := cx.x.cfg.dataOuts.filter fun d => !(m.modF 15 1 == 1 && d == 1)
  let rows := match axisAt o (m.modF 6 2) 0 with | some a => a.rows | none => 0
  let sbase := m.modF 8 6
  { sends := outs.map fun d => (d, markerOf k outHdr)
    upd := fun y =>
      match k.kind with
      | .hdr => { y with phi := y.phi + 11, dpos := 0 }
      | .eor =>
        let y := if m.rmNat == 5 && y.begun then
            { y with sreg := (List.range rows).foldl (fun l i => l.set (sbase + i) 0) y.sreg, begun := false }
          else y
        advEor y
      | .eot => advEot y
      | _ => y }

/-- CVT under NSH and QNT with SCALE = 0: each token is converted in its firing cycle (R121, R122, R125). -/
def convertTurn (cx : Cx) (hdrOk : W64 → Bool) (src : Nat) : Turn :=
  if !cx.bound 0 then .idle
  else if cx.m.rdstNat != 0 && cx.pendingReg cx.m.rdstNat then .idle
  else if cx.refuses 0 markKinds hdrOk then .reject 0
  else
    match cx.head 0 with
    | none => .idle
    | some k =>
      if k.kind == .val then
        let x := if k.void then none else sourceValue cx (cx.fmtOf 0 src) k
        if !k.void && x.isNone then .reject 0
        else match convertOne cx k x none with
          | .hold => .idle
          | .reject p => .reject p
          | .out e => .act { e with takes := 0 :: e.takes }
      else .act { convertMark cx k (plainHdr cx.m.tyNat) with takes := [0] }

/-- Integer to integer: widening exact, narrowing keeps the low bits or clamps with SAT (R121). -/
def convInt (m : Mods) (src : Nat) (v : W64) : W64 :=
  let i := intOf src v
  ofInt m.tyNat (if m.modF 5 1 == 1 then clampTy m.tyNat i else i)

/-- CVT (R121). -/
def execCvt (m : Mods) (s : State) : Out :=
  let src := m.modF 0 5
  if 10 ≤ m.tyNat && 4 ≤ m.rmNat then
    cellTurn s m fun cx => convertTurn cx (hdrOnly src) src
  else
    cellTurn s m fun cx =>
      elemTurn cx [0] (fun _ => hdrOnly src) (plainHdr m.tyNat) fun os =>
        let v := opPay os 0
        let mode := rmodeOf m.rmNat
        if src ≤ 8 && m.tyNat ≤ 8 then .value (convInt m src v) 0
        else
          let x := if src ≤ 8 then ofIntF (intOf src v) else decodeF src (v.toNat % 2 ^ tyWidth src)
          if m.tyNat ≤ 8 then
            let r := toIntOp m.tyNat mode x
            .value r.1 r.2
          else
            let r := deliver m.tyNat mode x
            .value (BitVec.ofNat 64 r.bits) r.flags

/-- Headers that QNT accepts: F32, H16 or B16 with SCALE 0, and the hand-over header (R122). -/
def hdrQnt (h : W64) : Bool := h == handHdr || (hdrValid h && 9 ≤ hdrFmt h && hdrFmt h ≤ 11)

/-- The scale of a closed block over its exact values (R77). -/
def blockScale (ty : Nat) (xs : List FVal) : Nat :=
  let mx := xs.foldl (fun (a : Nat × Int) v => match v with
    | .fin _ m e => if magLt a.1 a.2 m e then (m, e) else a
    | _ => a) (0, 0)
  if mx.1 == 0 then 127 else (min 254 (max 0 (127 + ceilLogRatio ty mx.1 mx.2))).toNat

/-- Header under which a buffered element stands. -/
def bufHdr (f : Nat) : W64 := if f == 31 then handHdr else plainHdr f

/-- Closes the open block of the buffer in cycle t: its scale, and its first send two cycles on (R125). -/
def closeBlock (cx : Cx) (buf : List QItem) (t : Nat) : List QItem :=
  let isOpen (q : QItem) : Bool := q.tok.kind == .val && !q.tok.void && q.e.isNone
  let xs := (buf.filter isOpen).filterMap fun q => sourceValue cx (bufHdr q.fmt) q.tok
  let e := blockScale cx.m.tyNat xs
  buf.map fun q => if isOpen q then { q with e := some e, due := t + 2 } else q

/-- QNT with SCALE = 1: one token into the buffer and one out of it per cycle (R125). -/
def blockTurn (cx : Cx) : Turn :=
  let src := cx.m.modF 0 5
  let y := cx.x.rt
  if !cx.bound 0 then .idle
  else if cx.refuses 0 markKinds hdrQnt then .reject 0
  else
    let outHdr : W64 := BitVec.ofNat 64 (cx.m.tyNat + 32)
    let out : Conv :=
      match y.qbuf with
      | [] => .hold
      | q :: _ =>
        if q.tok.kind == .val then
          if q.tok.void then convertOne cx q.tok none (some 127)
          else match q.e with
            | some e =>
              if q.due ≤ cx.t then convertOne cx q.tok (sourceValue cx (bufHdr q.fmt) q.tok) (some e) else .hold
            | none => .hold
        else .out (convertMark cx q.tok outHdr)
    match out with
    | .reject p => .reject p
    | _ =>
      let e : Effect := match out with
        | .out e => if cx.room (e.sends.map (·.1)) then
            { e with upd := fun y => let y := e.upd y; { y with qbuf := y.qbuf.tail } } else {}
        | _ => {}
      let sent : Bool := match out with | .out e' => cx.room (e'.sends.map (·.1)) | _ => false
      match (if y.qbuf.length < 64 then cx.head 0 else none) with
      | none => if sent then .act e else .idle
      | some k =>
        let h := cx.fmtOf 0 src
        if k.kind == .val && !k.void && (sourceValue cx h k).isNone then .reject 0
        else
          .act { e with
            takes := 0 :: e.takes
            upd := fun y =>
              let y := e.upd y
              let item : QItem := ⟨k, if h == handHdr then 31 else hdrFmt h, none, cx.t⟩
              let buf := y.qbuf ++ [item]
              let n := y.phase + (if k.kind == .val && !k.void then 1 else 0)
              let close := n == 32 || k.kind == .eor || k.kind == .hdr || k.kind == .eot
              if close then { y with qbuf := closeBlock cx buf cx.t, phase := 0 } else { y with qbuf := buf, phase := n } }

/-- QNT (R122-R125). -/
def execQnt (m : Mods) (s : State) : Out :=
  cellTurn s m fun cx =>
    if m.modF 5 1 == 1 then blockTurn cx else convertTurn cx hdrQnt (m.modF 0 5)

/-- Headers that DQNT accepts (R127). -/
def hdrDqnt (h : W64) : Bool := hdrValid h && 12 ≤ hdrFmt h

/-- DQNT decodes scaled and codebook streams; a VAL before its first HDR is refused (R127). -/
def execDqnt (m : Mods) (s : State) : Out :=
  cellTurn s m fun cx =>
    if (cx.x.rt.port 0).hdr.isNone && (cx.head 0).any (·.kind == .val) then .reject 0
    else elemTurn cx [0] (fun _ => hdrDqnt) (plainHdr m.tyNat) fun os =>
      match (cx.x.rt.port 0).hdr with
      | none => .reject 0
      | some h =>
        let r := deliver m.tyNat (rmodeOf m.rmNat) (decodeUnder cx.book h (opPay os 0))
        .value (BitVec.ofNat 64 r.bits) r.flags

/-- CBLOAD writes entries of a codebook, seen from the next cycle on, and sends a CTL after the sixteenth (R128). -/
def execCbload (m : Mods) (s : State) : Out :=
  cellTurn s m fun cx =>
    if cx.refuses 0 [.val, .eor, .eot, .hdr] (hdrOnly 11) then .reject 0
    else
      match cx.head 0 with
      | none => .idle
      | some k =>
        let cb := m.modF 0 4
        match k.kind with
        | .val =>
          let j := cx.x.rt.phase
          .act
            { takes := [0]
              sends := if j == 15 then cx.toAll (.plain .ctl (BitVec.ofNat 64 cb)) else []
              upd := fun y => { y with phase := (j + 1) % 16 }
              after := fun s =>
                if k.void then s
                else s.updDie cx.r.die fun d =>
                  { d with bookDue := d.bookDue ++ [((cx.blk, cb, j), k.pay.setWidth 16)] } }
        | .eot => .act { takes := [0] }
        | _ => .act { takes := [0], upd := fun y => { y with phase := 0 } }

/-- HDRSET sends c0 as an HDR, in a cycle of its own, before the first token but EOT after pitch start, after each EOT and
after every ROWS-th EOR (R129). -/
def execHdrset (m : Mods) (s : State) : Out :=
  cellTurn s m fun cx =>
    if cx.refuses 0 markKinds hdrMove then .reject 0
    else
      match cx.head 0 with
      | none => .idle
      | some k =>
        let rows := m.modF 0 12 + 1
        match k.kind with
        | .hdr => .act { takes := [0] }
        | .eot => .act { takes := [0], sends := cx.toAll k, upd := fun y => { y with begun := false } }
        | kd =>
          if !cx.x.rt.begun then
            .act { sends := cx.toAll (.plain .hdr (cx.x.cfg.const 0)), upd := fun y => { y with begun := true, phase := 0 } }
          else
            .act
              { takes := [0]
                sends := cx.toAll k
                val := if kd == .val && !k.void then some k.pay else none
                upd := fun y =>
                  if kd == .eor then
                    (if y.phase + 1 == rows then { y with begun := false, phase := 0 } else { y with phase := y.phase + 1 })
                  else y }

end Sys2Proof.Machine
end

