-- ==== Sys2Proof/Machine/EndChecks.lean ====
section
/-! DEFINITION. END (R94): the checks over every cell that the CFG wrote (ports and destinations, modes, lanes, tokens, links and
typing, forms, islands, loops), the first failure in command order (R48), the order table that takes effect (R342) and the
start state of the pitch (R32). -/

namespace Sys2Proof.Machine

/-- A failure found at END: the named cell and field, the code, whether the field is cleared (R48). -/
structure EndFail where
  cell : Nat
  field : Nat
  code : Nat
  clear : Bool
  deriving DecidableEq, Repr

/-- A failure if the condition holds. -/
def failIf (b : Bool) (cell field code : Nat) (clear : Bool) : List EndFail := if b then [⟨cell, field, code, clear⟩] else []

/-! Orders. -/

/-- What an order index names (R45, R48, R342). -/
inductive Ref where
  | ctl
  | map (m : OMap)
  | none
  | ill
  deriving DecidableEq

/-- The order named by an index in the table in effect. -/
def Region.ref (r : Region) (i : Nat) : Ref :=
  if i == 255 then .ctl
  else match r.orders[i]? with
    | some (some m) => .map m
    | some none => .ill
    | none => .none

/-- The failure of a field whose index names no well-formed entry (R48, Table 4.5). -/
def refFail (r : Region) (i cell field : Nat) : List EndFail :=
  match r.ref i with
  | .none => [⟨cell, field, fcOrder, true⟩]
  | .ill => [⟨cell, field, fcConfig, true⟩]
  | _ => []

/-- Names a map or a control stream. -/
def Ref.good : Ref → Bool
  | .ctl => true
  | .map _ => true
  | _ => false

/-- Port p of cell c is bound by its configuration (R346). -/
def Region.linked (r : Region) (c p : Nat) : Bool :=
  let x := (r.cell c).cfg
  x.inF p != 0 || !(x.toks.getD p []).isEmpty || x.starts.getD p false || (r.feeder c p).isSome

/-- A lane number fits what its port or destination carries (R43). -/
def laneFits (lane : Nat) (used : Bool) (o : Ref) : Bool :=
  lane == 0 || (used && match o with | .map m => lane < m.lanes | .ctl => false | _ => true)

/-! What a CFG wrote. A check over one cell is made where the CFG wrote the cell; one that rests on a field of another cell also where
it wrote that field (R48, R94). -/

/-- Cells this CFG wrote. -/
def Region.dirty (r : Region) (c : Nat) : Bool := !((r.cell c).cfg).wrote.isEmpty

/-- This CFG wrote one of some fields of a cell. -/
def Region.wroteAny (r : Region) (c : Nat) (fs : List Nat) : Bool := fs.any fun f => (look ((r.cell c).cfg).wrote f).isSome

/-- A check over cell c that rests on some fields of cell e as well is made. -/
def Region.dirtyBy (r : Region) (c e : Nat) (fs : List Nat) : Bool := r.dirty c || r.wroteAny e fs

/-- A check that rests on port p of cell c and on the link that feeds it is made: the link is its producer's operation word and
destination field. -/
def Region.dirtyLink (r : Region) (c p : Nat) : Bool :=
  r.dirty c || (match r.feeder c p with | some f => r.wroteAny f.1 [0, 5 + f.2] | none => false)

/-- A check that rests on port p of cell c, and on whether a link feeds it (R346), is made. -/
def Region.dirtyPort (r : Region) (c p : Nat) : Bool :=
  if (r.cell c).cfg.inF p == 0 then r.dirtyLink c p else r.dirty c

/-- Place in command order of the command that last wrote a field: 0 where this CFG did not write it, else its position plus 1
(R48). -/
def wroteAge (r : Region) (c f : Nat) : Nat := match look ((r.cell c).cfg).wrote f with | some n => n + 1 | none => 0

/-- Lexicographic order of three numbers. -/
def before3 (a b : Nat × Nat × Nat) : Bool :=
  decide (a.1 < b.1) || (a.1 == b.1 && (decide (a.2.1 < b.2.1) || (a.2.1 == b.2.1 && decide (a.2.2 < b.2.2))))

/-- Of two cells that may not both stand in a pitch, the one written later breaks the rule: another cell that meets p was there
before cell c, by the command that wrote its operation and then by index (R48, R94). -/
def second (r : Region) (c : Nat) (p : CellCfg → Bool) : Bool :=
  r.cells.any fun e => e.1 != c && e.2.cfg.op != 0 && p e.2.cfg && r.dirtyBy c e.1 [0] &&
    before3 (wroteAge r e.1 0, e.1, 0) (wroteAge r c 0, c, 0)

/-- The operation lists no input p, which is bound all the same (R106, R179, R346). An idle cell uses none. -/
def strayInput (r : Region) (c p : Nat) : Bool :=
  let x := (r.cell c).cfg
  !x.usesIn p && (if x.op == 0 then x.inF p != 0 else r.linked c p)

/-- Ports, destinations, lanes, orders, done bits, modes and initial tokens of a cell (R26, R32, R35, R43, R94, R182). -/
def fieldFails (r : Region) (c : Nat) : List EndFail :=
  let x := (r.cell c).cfg
  let own := r.dirty c
  let ports := List.range 4
  let linkIn (p : Nat) : Bool := x.usesIn p && x.inKind p == 0 && r.linked c p
  (ports.flatMap fun p =>
    failIf (r.dirtyLink c p && strayInput r c p) c (1 + p) fcConfig false ++
    (if r.dirtyLink c p && linkIn p then refFail r (x.inIdx p) c (1 + p) else []) ++
    failIf (r.dirtyPort c p && !laneFits (x.lin p) (linkIn p) (r.ref (x.inIdx p))) c 11 fcConfig true ++
    failIf (r.dirtyLink c p && r.portSlots c p < (x.toks.getD p []).length) c (1 + p) fcConfig false ++
    failIf (r.dirtyPort c p && linkIn p && x.ctlIn p && x.inIdx p != 255) c (1 + p) fcOrder true) ++
  (ports.flatMap fun m =>
    let used : Bool := x.target m != 0
    failIf (own && x.outF m != 0 && !x.usesOut m) c (5 + m) fcConfig false ++
    (if own && used then refFail r (x.outOrder m) c (5 + m) else []) ++
    failIf (own && !laneFits (x.lout m) used (r.ref (x.outOrder m))) c 11 fcConfig true ++
    failIf (own && x.isMem && x.doneBit m && (x.target m != 1 || x.outOrder m != 255)) c (5 + m) fcConfig false ++
    failIf (r.dirtyBy c (x.tindex m) [9] && x.scout && x.target m == 1 && !((r.cell (x.tindex m)).cfg).scout) c (5 + m) fcConfig
      false) ++
  failIf (own && x.memattr != 0 && !x.isMem) c 13 fcConfig false ++
  failIf (own && x.pull && x.opc != 0x180 && x.opc != 0x182) c 9 fcConfig false ++
  failIf (own && !x.scout && x.leader != 0) c 10 fcConfig false ++
  failIf (r.dirtyBy c x.leader.toNat [9] && x.scout &&
      (r.cellCount ≤ x.leader.toNat || ((r.cell x.leader.toNat).cfg).scout)) c 10 fcConfig false ++
  failIf (own && x.scout && x.op != 0 &&
      !(x.opc ≤ 0x016 || [0x020, 0x022, 0x025, 0x026, 0x180, 0x182, 0x188].contains x.opc)) c 0 fcConfig false

/-! Typing (R47, Tables 4.4 and 10.1). -/

/-- Both are control streams, or both name one map. -/
def sameRef (a b : Ref) : Bool :=
  match a, b with
  | .ctl, .ctl => true
  | .map m, .map n => m.same n
  | _, _ => false

/-- One relation between the map of the typing input and the map of a result. -/
def mapRel (a b : Ref) (f : OMap → OMap → Bool) : Bool :=
  match a, b with
  | .map m, .map n => f m n
  | _, _ => false

/-- The result with its innermost cycle level cut to extent e (R138). -/
def cutInner (m : OMap) (e : Nat) : OMap := m.mapInner fun l => { l with ext := e }

/-- Extent or bound of the innermost cycle level; none for a map with no cycle level. -/
def innerExt (m : OMap) : Option Nat := m.innerCycle.map (·.ext)

/-- The order of a result of a form on destination m follows its input order i (Table 4.4). -/
def typedBy (x : CellCfg) (ins : List Ref) (m : Nat) (i o : Ref) : Bool :=
  let md := x.mods
  let one (a : OMap) : Bool := a.lanes == 1
  match x.opc with
  | 0x100 => mapRel i o fun a b => one a && one b && a.raggedInner.same b
  | 0x101 => merges ins o false
  | 0x102 => merges ins o true
  | 0x103 => if md.modF 0 2 == 1 then mapRel i o fun a b => one a && one b && a.raggedInner.same b else sameRef i o
  | 0x104 => mapRel i o fun a b => !a.endsInLane && ((a.appendedExt b).map fun e => decide (2 ≤ e && e ≤ 65536)).getD false
  | 0x105 => mapRel i o fun a b =>
      let n := md.modF 0 16
      !a.endsInLane && ((innerExt a).map fun e => decide (1 ≤ n && n < e) && (cutInner a (e - n)).same b).getD false
  | 0x106 => mapRel i o fun a b =>
      let n := md.modF 0 16
      !a.endsInLane && ((innerExt a).map fun e => decide (1 ≤ n && n < e) && (cutInner a n).same b).getD false
  | 0x107 => mapRel i o fun a b => !a.endsInLane && 2 ≤ ins.length && a.appends b ins.length
  | 0x108 => mapRel i o fun a b =>
      !a.endsInLane && !a.ragged && ((innerExt a).map fun e => decide (2 ≤ e && e ≤ 4 && m < e)).getD false &&
      a.removeInner.same b
  | 0x109 => mapRel i o fun a b => !a.endsInLane && a.listsSame b
  | 0x10A => mapRel i o fun a b => one a && one b && !a.endsInLane && a.raggedInner.same b
  | 0x10E => mapRel i o fun a b => !a.endsInLane && (a.mapInner fun l => { l with rag := false }).same b
  | 0x10C => if md.modF 4 1 == 1 then mapRel i o OMap.laneReduces else mapRel i o fun a b => a.removeInner.same b
  | 0x10D => mapRel i o fun a b => a.removeInner.same b
  | 0x122 => mapRel i o fun a b => (innerExt a).getD 1 ≤ 16 && a.removeInner.same b
  | 0x123 => (match o with
      | .map b => b.same [⟨0, false, false, false, 0, md.modF 0 4 + 1⟩] ||
          (match b.canon with
           | [l] => !l.lane && !l.rag && l.ext == md.modF 0 4 + 1
           | _ => false)
      | _ => false)
  | 0x026 => o != .ctl
  | 0x180 => o != .ctl
  | 0x063 => o == .ctl
  | 0x141 => o == .ctl
  | 0x18E => o == .ctl
  | 0x1F4 => o == .ctl
  | _ => if x.isEmitter then o == .ctl else sameRef i o
where
  /-- MERGE and AMERGE: one order up to the innermost cycle level's raggedness and bound, of bound at most the sum. -/
  merges (ins : List Ref) (o : Ref) (mustRag : Bool) : Bool :=
    match ins.mapM (fun i => match i with | .map a => some a | _ => none), o with
    | some (a :: as_), .map b =>
      (a :: as_).all (fun y => y.lanes == 1 && y.eraseInner == a.eraseInner) && b.lanes == 1 &&
      b.eraseInner == a.eraseInner && b.runLen ≤ ((a :: as_).map (·.runLen)).foldl (· + ·) 0 && (!mustRag || b.ragged)
    | _, _ => false

/-- Control destinations of a form: residues, and the saved counter of RND (R122, R150). -/
def ctlOut (x : CellCfg) (m : Nat) : Bool :=
  m == 1 && (x.rsdOut || (x.opc == 0x140 && x.mods.modF 11 1 == 1))

/-- Forms whose data inputs need not carry one order: MERGE and AMERGE have their own relation, and the addend of ADD128 comes
under an order of its own (R151). -/
def ownInputs (x : CellCfg) : Bool := x.opc == 0x101 || x.opc == 0x102 || x.opc == 0x142

/-- Orders a and i of two data inputs go together: one order, but for MERGE and AMERGE, where they may differ in raggedness and bound of
the innermost cycle level, and for the addend of ADD128 (R151, Table 10.1). -/
def inputsAgree (x : CellCfg) (a i : Ref) : Bool :=
  if x.opc == 0x142 then true
  else if ownInputs x then mapRel a i fun m n => m.lanes == 1 && n.lanes == 1 && m.eraseInner == n.eraseInner
  else sameRef a i

/-- Forms whose destinations carry a control stream whatever their inputs are (R128, R193, R227). -/
def alwaysCtl (x : CellCfg) : Bool := x.isEmitter || [0x063, 0x18E, 0x1F4].contains x.opc

/-- Typing failures of a cell: inputs of different orders, and destinations that break the relation; the named field is the
destination, or the input where the form sends no data (R47, R48). Table 4.4 says nothing of the several inputs of ATOM, STREL, STL, STFE,
FUTRES and FUTREG: they carry one order here too (log 65). -/
def typeFails (r : Region) (c : Nat) : List EndFail :=
  let x := (r.cell c).cfg
  if x.op == 0 || !(List.range 4).any (r.dirtyPort c) then []
  else
    let ps := x.dataIns fun p => r.linked c p
    let refs := ps.map fun p => r.ref (x.inIdx p)
    let i := match refs with | a :: _ => a | [] => .ctl
    let mixed : Bool := !ownInputs x && refs.any fun a => a.good && i.good && !sameRef a i
    let outs := x.dataOuts
    (outs.flatMap fun m =>
      let o := r.ref (x.outOrder m)
      if !o.good then []
      else if ctlOut x m then failIf (o != .ctl) c (5 + m) fcOrder true
      else
        let known : Bool := alwaysCtl x || (refs.all (·.good) && (!ps.isEmpty || x.inputs == 0 || x.ctlIn 0))
        failIf (mixed || (known && !typedBy x refs m i o)) c (5 + m) fcOrder true) ++
    (if outs.isEmpty then
      (ps.filter fun p => (r.ref (x.inIdx p)).good && i.good && !inputsAgree x (r.ref (x.inIdx p)) i).map fun p =>
        ⟨c, 1 + p, fcOrder, true⟩
     else [])

/-! Checks of single forms. -/

/-- Product of the inner extents of NSH's row key (R123). -/
def nshRows (m : OMap) (axis : Nat) : Nat :=
  match m.findIdx? fun l => l.dim == axis with
  | some k => prodNat (((m.drop (k + 1)).filter fun l => l.dim != axis && !l.lane).map (·.ext))
  | none => 0

/-- Cells of a region that hold an operation. -/
def Region.busyCells (r : Region) : List (Nat × CellCfg) := (r.cells.filter fun c => c.2.cfg.op != 0).map fun c => (c.1, c.2.cfg)

/-- Configuration checks of the forms (an unbound input field of zero is of KIND 0, log 65; R106, R112, R116, R122, R123, R129, R137, R144, R154, R183, R185, R186, R193, R226,
R227, R233). -/
def formFails (s : State) (r : Region) (c : Nat) : List EndFail :=
  let x := (r.cell c).cfg
  let m := x.mods
  let o := x.opc
  let i0 := r.ref (x.inIdx 0)
  let outs := x.dataOuts
  let own := r.dirty c
  let oneLane : Bool := outs.all fun d =>
    sameRef (r.ref (x.outOrder d)) (r.ref (x.outOrder (outs.getD 0 0))) && x.lout d == x.lout 0
  let rag (i : Ref) : Bool := match i with | .map a => a.anyRag | _ => false
  failIf (own && o != 0 && o != 0x026 && (List.range x.inputs).all (fun p => x.inKind p != 0)) c 0 fcConfig false ++
  failIf (own && (o == 0x026 || o == 0x180) && (!oneLane || outs.any fun d => rag (r.ref (x.outOrder d))))
    c (5 + outs.getD 0 0) fcConfig false ++
  failIf (own && o == 0x123 && !oneLane) c (5 + outs.getD 0 0) fcOrder true ++
  failIf (own && o == 0x181 && rag i0) c 1 fcConfig false ++
  (if x.sendsCap then (List.range 4).flatMap fun d =>
    failIf ((own && 2 ≤ x.target d) ||
        (x.target d == 1 && r.busyCells.any fun y => y.2.sendsCap && y.2.mods.rdstNat == m.rdstNat &&
          (List.range 4).any fun e => r.dirtyBy c y.1 [0, 5 + e] && y.2.target e == 1 && y.2.tindex e == x.tindex d &&
            before3 (wroteAge r y.1 (5 + e), y.1, e) (wroteAge r c (5 + d), c, d)))
      c (5 + d) fcConfig false
   else []) ++
  failIf (own && x.rsdOut && x.target 1 != 1) c 6 fcConfig false ++
  (if own && x.quant && m.rmNat == 5 then
    match i0 with
    | .map a =>
      failIf (!a.axisOk (m.modF 6 2)) c 1 fcAxis true ++ failIf (64 < m.modF 8 6 + nshRows a (m.modF 6 2)) c 0 fcConfig false
    | _ => []
   else []) ++
  failIf (own && o == 0x064 && !hdrValid (x.const 0)) c 16 fcConfig false ++
  (if own && (o == 0x105 || o == 0x106) then
    match i0 with
    | .map a => failIf (m.modF 0 16 == 0 || (innerExt a).getD 0 ≤ m.modF 0 16) c 0 fcConfig false
    | _ => []
   else []) ++
  (if o == 0x102 then outs.flatMap fun d =>
    let y := (r.cell (x.tindex d)).cfg
    let exact : Bool :=
      if x.target d == 2 then 2 ≤ x.tport d
      else x.target d == 1 && y.opc == 0x10C && y.mods.modF 4 1 == 0 && y.mods.modF 0 4 ≤ 5 && y.mods.tyNat ≤ 8
    failIf ((if x.target d == 1 then r.dirtyBy c (x.tindex d) [0] else own) && !exact) c (5 + d) fcMerge true
   else []) ++
  failIf (own && o == 0x120 && x.target 0 != 1) c 5 fcConfig false ++
  failIf (o == 0x148 && second r c (·.opc == 0x148)) c 0 fcConfig false ++
  failIf (o == 0x188 && m.modF 2 1 == 1 &&
      (let p := fieldNat (x.const 0) 0 14
       let y := (r.cell p).cfg
       r.dirtyBy c p [0] && !(y.opc == 0x180 || y.opc == 0x182))) c 16 fcConfig false ++
  failIf (o == 0x18E && r.dirtyLink c 0 && !((r.feeder c 0).map fun f => ((r.cell f.1).cfg).opc == 0x18D).getD false) c 1 fcConfig false ++
  failIf (o == 0x1F2 && second r c fun y => y.opc == 0x1F2 && y.mods.modF 0 4 == m.modF 0 4) c 0 fcConfig false ++
  failIf (own && (o == 0x1F3 || o == 0x1F4) && !r.isSystem s) c 0 fcConfig false ++
  (if x.isEmitter then
    let fwd := x.const 2
    let y := (r.cell (x.tindex 0)).cfg
    failIf (r.dirtyPort c 1 && (256 ≤ fwd.toNat || (fwd != 0) != r.linked c 1)) c 18 fcConfig false ++
    failIf (r.dirtyBy c (x.tindex 0) [0] && x.target 0 == 1 && !(y.isEmitter && x.tport 0 == 1)) c 5 fcConfig false
   else [])

/-! Links (R22, R48, R49) and islands (R231, R249). -/

/-- Links of the region: producer, destination, field values. -/
def Region.links (r : Region) : List (Nat × Nat × CellCfg) :=
  r.busyCells.flatMap fun y => ((List.range 4).filter fun m => y.2.target m != 0).map fun m => (y.1, m, y.2)

/-- Two links end at one port (R22). -/
def samePort (x : CellCfg) (m : Nat) (y : CellCfg) (n : Nat) : Bool :=
  x.target m == y.target n && x.tindex m == y.tindex n && x.tport m == y.tport n &&
  (x.target m == 1 || x.lout m == y.lout n)

/-- Position of the command that last wrote a field, or END's where this CFG did not write it (R48). -/
def wrotePos (r : Region) (c f last : Nat) : Nat := lookD ((r.cell c).cfg).wrote f last

/-- An attached store that lets the link of destination m of cell e, two orders at its ends, pass: it stands in that link, on the
lane that the link carries (R48, R208). -/
def storeServes (r : Region) (e m : Nat) (x : CellCfg) (a b : OMap) : Bool :=
  let y := (r.cell (x.tindex m)).cfg
  let w := match tyWidth (y.portFmt (x.tport m)) with | 0 => 8 | n => n
  !x.sendsCap && r.stores.any fun st =>
    st.lanes[x.lout m]? == some ⟨e, m, x.tindex m, x.tport m⟩ && st.pmap == a && st.cmap == b && st.lanes.length == a.lanes &&
    w ≤ st.width

/-- The link of destination m of cell e to a cell passes R48. -/
def linkPasses (r : Region) (e : Nat) (x : CellCfg) (m : Nat) : Bool :=
  let t := x.tindex m
  let p := x.tport m
  let y := (r.cell t).cfg
  if y.op == 0 then true
  else
    y.inKind p == 0 && x.lout m == y.lin p &&
    (match r.ref (x.outOrder m), r.ref (y.inIdx p) with
     | .ctl, .ctl => true
     | .map a, .map b => a == b || storeServes r e m x a b
     | .ctl, .map _ => false
     | .map _, .ctl => false
     | _, _ => true)

/-- Regions of a die that link to an island. -/
def linkersOf (s : State) (d target isl : Nat) : Nat :=
  (s.regions.filter fun r => r.die == d && r.links.any fun l => l.2.2.target l.2.1 == target && l.2.2.tindex l.2.1 == isl).length

/-- The link of destination m of cell c to an island keeps to its port's role (R231, R249). -/
def rolePasses (r : Region) (x : CellCfg) (m : Nat) : Bool :=
  if x.target m == 3 || x.tport m ≤ 1 then x.outOrder m == 255 && x.lout m == 0
  else
    let peers := r.links.filter fun l =>
      l.2.2.target l.2.1 == 2 && l.2.2.tindex l.2.1 == x.tindex m && l.2.2.tport l.2.1 == x.tport m
    match r.ref (x.outOrder m) with
    | .map a =>
      peers.all (fun l => sameRef (r.ref (l.2.2.outOrder l.2.1)) (.map a)) &&
      (List.range a.lanes).all (fun i => peers.any fun l => l.2.2.lout l.2.1 == i) &&
      peers.all fun l => l.2.2.lout l.2.1 < a.lanes
    | .ctl => false
    | _ => true

/-- Failures of the links of written cells, and of those at whose far end this CFG wrote the operation, the input field or the lanes. -/
def linkFails (s : State) (r : Region) : List EndFail :=
  let ls := r.links
  ls.flatMap fun l =>
    let c := l.1
    let m := l.2.1
    let x := l.2.2
    let toCell : Bool := x.target m == 1
    if !(r.dirty c || (toCell && r.wroteAny (x.tindex m) [0, 1 + x.tport m, 11])) then []
    else
      let rank (c m : Nat) : Nat × Nat × Nat := (wroteAge r c (5 + m), c, m)
      failIf (ls.any fun k => samePort x m k.2.2 k.2.1 && before3 (rank k.1 k.2.1) (rank c m)) c (5 + m) fcConfig false ++
      (if toCell then failIf (!linkPasses r c x m) c (5 + m) fcOrder true
       else
        failIf (!rolePasses r x m) c (5 + m) fcOrder true ++
        failIf (8 < linkersOf s r.die (x.target m) (x.tindex m)) c (5 + m) fcConfig false)

/-! The zero-slot loop (R37). -/

/-- Ports that a control input chooses: the data inputs of MERGE and STEER (R37). -/
def chosen (x : CellCfg) (p : Nat) : Bool := (x.opc == 0x101 && 1 ≤ p) || (x.opc == 0x100 && p == 0)

/-- Links between cells that may close a required cycle, with initial tokens and slots: (from, to, tokens, slots). -/
def requiredLinks (r : Region) : List (Nat × Nat × Nat × Nat) :=
  (r.links.filter fun l =>
    l.2.2.target l.2.1 == 1 &&
    (let y := (r.cell (l.2.2.tindex l.2.1)).cfg
     y.op != 0 && y.usesIn (l.2.2.tport l.2.1) && y.inKind (l.2.2.tport l.2.1) == 0 && !chosen y (l.2.2.tport l.2.1))).map
    fun l =>
      (l.1, l.2.2.tindex l.2.1, ((((r.cell (l.2.2.tindex l.2.1)).cfg).toks).getD (l.2.2.tport l.2.1) []).length,
       l.2.2.slots l.2.1)

/-- Takes away edges whose start no edge enters, n times; what is left holds a cycle. -/
def pruneEdges : Nat → List (Nat × Nat) → List (Nat × Nat)
  | 0, es => es
  | n + 1, es => pruneEdges n (es.filter fun e => es.any fun f => f.2 == e.1)

/-- Some directed cycle of required links holds no token, or no free slot. A cycle has T = 0 where every link of it is empty and
T = S where every link of it is full. -/
def zeroSlotLoop (r : Region) : Bool :=
  let ls := requiredLinks r
  let cyc (f : Nat × Nat × Nat × Nat → Bool) : Bool :=
    let es := (ls.filter f).map fun l => (l.1, l.2.1)
    !(pruneEdges es.length es).isEmpty
  cyc (fun l => l.2.2.1 == 0) || cyc fun l => l.2.2.2 ≤ l.2.2.1

/-! END. -/

/-- The first failure in command order: position of the last write of its field, then cell, then field; a loop last (R48). Of two that
name one field at one position the first of the list goes (log 65). -/
def firstFail (s : State) (r : Region) (last : Nat) : Option EndFail :=
  let fails := (r.cells.flatMap fun c => fieldFails r c.1 ++ typeFails r c.1 ++ formFails s r c.1) ++ linkFails s r
  let key (f : EndFail) : Nat × Nat × Nat := (wrotePos r f.cell f.field last, f.cell, f.field)
  let first := fails.foldl (fun (b : Option EndFail) f =>
    match b with
    | some g => if before3 (key f) (key g) then some f else b
    | none => some f) none
  match first with
  | some f => some f
  | none => if zeroSlotLoop r then some ⟨0, 0, fcLoop, false⟩ else none

/-- Bytes of local memory that the keep map keeps (R32, Table 8.5). -/
def keptBytes (x : CellCfg) (y : CellRt) : List (Nat × Byte) := y.lmem.filter fun b => x.keep.getLsbD (b.1 / 4096)

/-- The start state of a cell (R32): registers, bindings, kept memory, initial tokens; the dither phase starts anew (R75, log 58). -/
def startCell (args : List Cap) (c : Cell) : Cell :=
  let x := c.cfg
  let y := CellRt.reset
  let y := { y with lmem := keptBytes x c.rt, full := c.rt.full.filter fun w => x.keep.getLsbD (w / 512),
                    k := x.binds.map fun b => match b with | some n => args.getD n .none | none => .none,
                    ports := x.toks.map fun l => { Port.empty with q := l } }
  let y := x.rinit.foldl (fun y e => y.setReg e.1 e.2) y
  let y := { y with sreg := x.sinit.foldl (fun l e => l.set e.1 e.2) y.sreg }
  { c with rt := x.tinit.foldl (fun y e => if e.1 < 16 then { y with ta := y.ta.set e.1 e.2 } else { y with tl := y.tl.set (e.1 - 16) e.2 }) y }

/-- The pitch's state is rebuilt: every cell, every store emptied, the slots of the region's links at islands emptied (R32). -/
def rebuildPitch (s : State) (r : Region) : State :=
  let args := match s.task r.seq with | some t => t.args | none => []
  let s := { s with iports := s.iports.filter fun i => !(i.die == r.die && i.rblk == r.rblk) }
  s.updRegion r.die r.rblk fun r =>
    { r with cells := r.cells.map (fun c => (c.1, startCell args c.2)), stores := r.stores.map Store.fresh, passes := 0,
             passNext := 0 }

/-- Clears a named field (R48). -/
def clearField (r : Region) (f : EndFail) : Region :=
  r.updCell f.cell fun x =>
    let g := x.cfg
    if f.field == 11 then { x with cfg := { g with lanes := 0 } }
    else if f.field ≤ 4 && 1 ≤ f.field then { x with cfg := { g with ins := g.ins.set (f.field - 1) 0 } }
    else { x with cfg := { g with outs := g.outs.set (f.field - 5) 0 } }

/-- Entries of an order table from its words, seven to an entry (R45). -/
def tableOf : Nat → List Nat → List (Option OMap)
  | 0, _ => []
  | n + 1, ws => OMap.ofEntry ((ws.take 7).map (BitVec.ofNat 32 ·)) :: tableOf n (ws.drop 7)

/-- The order table at byte o of the image: a state in which the read stops, or the table, none where it faults
CONFIG_ILLEGAL (R342). -/
def readTable (s : State) (r : Region) (o : Nat) : Option (Option (List (Option OMap))) × State :=
  let k := s.routeOf r.seq
  if (capCheck k rConfig (imageOfs k o) 4).isSome then (some none, s)
  else match imageWords s r o 1 with
    | (none, s) => (none, s)
    | (some ws, s) =>
      let n := ws.getD 0 0
      if 256 ≤ n || (capCheck k rConfig (imageOfs k o) (4 + 28 * n)).isSome then (some none, s)
      else match imageWords s r (o + 4) (7 * n) with
        | (none, s) => (none, s)
        | (some ws, s) => (some (some (tableOf n ws)), s)

/-- END: the order table takes effect, the checks are made and the first failure is posted, the start state is rebuilt, and the
controller goes on (R32, R48, R94, R342). A bad order table ranks last (log 59). -/
def execCfgEnd (s : State) : Out :=
  cmdTurn s fun r run =>
    if !run.exts.isEmpty || run.cover != .none || !run.isLast then .next (configFault s r run 0 0)
    else match readTable s r (4 * (run.off + run.count)) with
      | (none, s) => .next s
      | (some table, s) =>
        let s := match table with
          | some t => s.updRegion r.die r.rblk fun r => { r with orders := t }
          | none => s
        let r := (s.region r.die r.rblk).getD r
        let fail := match firstFail s r run.pos with
          | some f => some f
          | none => if table.isNone then some ⟨0, 0, fcConfig, false⟩ else none
        let s := match fail with
          | none => s.updRegion r.die r.rblk fun r => { r with runTrap := none }
          | some f =>
            let at_ := { run with pos := if f.code == fcLoop then run.pos else wrotePos r f.cell f.field run.pos }
            let s := post s r.place f.code srcCtl false 0 (configWords at_ f.cell f.field true)
            s.updRegion r.die r.rblk fun r => { (if f.clear then clearField r f else r) with runTrap := some f.code }
        let s := rebuildPitch s r
        .next (cfgLeave s r run id)

end Sys2Proof.Machine
end

