-- ==== Sys2Proof/Machine/Launch.lean ====
section
/-! DEFINITION. Launch: sequence numbers (R171), the launch packet and its checks (R270-R273), acceptance (R272, R276), kicks
(R268, R269), continuations (R287), SPAWN and GRPL (R211, R212). -/

namespace Sys2Proof.Machine

/-! Sequence numbers (R171). -/

/-- Sequence number after q: 0 is skipped. -/
def seqNext (q : Nat) : Nat := if (q + 1) % 2 ^ 24 = 0 then 1 else (q + 1) % 2 ^ 24

/-- A number can be assigned: it lies less than 2^22 beyond G. -/
def seqFree (s : State) : Bool := (s.module.nextSeq + 2 ^ 24 - s.watermark) % 2 ^ 24 < 2 ^ 22

/-- The counter moves on. -/
def takeSeq (s : State) : State := s.updMod fun m => { m with nextSeq := seqNext m.nextSeq }

/-! Reads of the launch unit: at home, past every cache. -/

/-- Why a read of the launch unit gives nothing: what must be had of another module first, or else the fault code, with the object and
offset at which it was met. -/
structure Miss where
  wants : List Want
  code : Nat
  oid : Nat
  ofs : Nat
  deriving DecidableEq, Repr

/-- A fault that no place in memory has raised. -/
def Miss.ofCode (code : Nat) : Miss := ⟨[], code, 0, 0⟩

/-- Result of a read. -/
inductive LRead where
  | val (v : Nat)
  | bad (m : Miss)
  deriving DecidableEq, Repr

/-- n bytes, at most 8, of an object. -/
def launchWord (s : State) (d oid o n : Nat) : LRead :=
  match loadAt { s with wants := [] } (launchMode d) oid o n false with
  | .ok bs t => if t.wants.isEmpty then .val (leNat bs) else .bad ⟨t.wants, 0, 0, 0⟩
  | .bad c x _ t => .bad ⟨t.wants, c, oid, x⟩

/-- Words of n bytes from offset o up, as one number. -/
def launchWords' (s : State) (d oid : Nat) (n : Nat) : Nat → Nat → LRead
  | _, 0 => .val 0
  | o, k + 1 =>
    match launchWord s d oid o n with
    | .val v =>
      match launchWords' s d oid n (o + n) k with
      | .val w => .val (v + w * 256 ^ n)
      | x => x
    | x => x

/-- Reads k words of n bytes through a capability (R158). -/
def launchRead (s : State) (d : Nat) (c : Cap) (o n k rights : Nat) : LRead :=
  match capCheck c rights o (n * k) with
  | some code => .bad (.ofCode code)
  | none => launchWords' s d c.oid n o k

/-! The packet (R270, Table 20.2). -/

/-- A capability of a packet at bit lo. -/
def pkBits (p : BitVec 2048) (lo : Nat) : BitVec 128 := p.extractLsb' lo 128
/-- NARG. -/
def pkNarg (p : BitVec 2048) : Nat := fieldNat p 32 8
/-- PRIO. -/
def pkPrio (p : BitVec 2048) : Nat := fieldNat p 16 3
/-- QUEUE. -/
def pkQueue (p : BitVec 2048) : Nat := fieldNat p 24 8
/-- Regions, width and height. -/
def pkRegions (p : BitVec 2048) : Nat := fieldNat p 48 4 + 1
/-- Region width in blocks. -/
def pkWidth (p : BitVec 2048) : Nat := fieldNat p 40 4 + 1
/-- Region height in blocks. -/
def pkHeight (p : BitVec 2048) : Nat := fieldNat p 44 4 + 1
/-- SAVE. -/
def pkSave (p : BitVec 2048) : Bool := p.getLsbD 52
/-- i0 to i3. -/
def pkIter (p : BitVec 2048) : List W32 := (List.range 4).map fun n => p.extractLsb' (128 + 32 * n) 32
/-- Reserved bits are zero. -/
def pkClean (p : BitVec 2048) : Bool :=
  fieldNat p 1152 896 == 0 && fieldNat p 256 256 == 0 && fieldNat p 53 75 == 0 && fieldNat p 19 5 == 0

/-- The packet with other iteration registers (R212). -/
def pkWithIter (p : BitVec 2048) (i0 i1 i2 i3 : Nat) : BitVec 2048 :=
  BitVec.ofNat 2048 (p.toNat - (fieldNat p 128 128) <<< 128 + (i0 % 2 ^ 32 + i1 % 2 ^ 32 * 2 ^ 32 + i2 % 2 ^ 32 * 2 ^ 64 +
    i3 % 2 ^ 32 * 2 ^ 96) <<< 128)

/-- Where the capabilities stand: ARGT, DONECAP, SAVECAP, SPILLCAP, ROUTE, as bits of the packet. -/
def pkCaps : List Nat := [1024, 896, 768, 640, 512]

/-- A capability of a kicked packet as the launch unit tags it, or of another packet as read (R271); the fault code where it
is refused. -/
def tagCap (l : Launch) (kicked : Bool) (bits : BitVec 128) (tag : Bool) : Except Nat Cap :=
  let c : Cap := ⟨bits, tag⟩
  if kicked then
    if c.oid == 0 then .ok ⟨bits, false⟩
    else if c.wf && fieldNat l.grant 0 32 ≤ c.oid && c.oid ≤ fieldNat l.grant 32 32 &&
        c.rights &&& l.grights.toNat == c.rights then .ok ⟨bits, true⟩
    else .error fcTag
  else if tag && c.rights &&& rShare == 0 then .error fcRights
  else .ok c

/-- Capability n of a held packet, in the order of pkCaps. -/
def heldCap (l : Launch) (h : Held) (n : Nat) : Except Nat Cap :=
  tagCap l h.kicked (pkBits h.packet (pkCaps.getD n 0)) (h.tags.getD n false)

/-! Usable blocks (R20, R280). -/

/-- Blocks of a rectangle. -/
def rectBlocks (r0 c0 w h : Nat) : List Nat :=
  (List.range h).flatMap fun i => (List.range w).map fun j => 16 * (r0 + i) + c0 + j

/-- Rectangles of a shape whose blocks all meet a condition, in row-major order of their first block. -/
def rects (w h : Nat) (ok : Nat → Bool) : List (List Nat) :=
  (List.range (17 - h)).flatMap fun r0 =>
    (List.range (17 - w)).filterMap fun c0 =>
      let b := rectBlocks r0 c0 w h
      if b.all ok then some b else none

/-- The first n disjoint rectangles of a list, in its order, if there are any. -/
def packRects : List (List Nat) → Nat → List Nat → Option (List (List Nat))
  | _, 0, _ => some []
  | [], _ + 1, _ => none
  | b :: bs, n + 1, used =>
    if b.any used.contains then packRects bs (n + 1) used
    else match packRects bs n (b ++ used) with
      | some l => some (b :: l)
      | none => packRects bs (n + 1) used

/-- Blocks that may be bound on a die, whoever holds them (R280). -/
def usableBlock (x : Die) (b : Nat) : Bool := !x.badBlocks.contains b && b != x.sysBlock

/-- The die can bind n regions of a shape (R280). -/
def canBind (s : State) (d w h n : Nat) : Bool := (packRects (rects w h (usableBlock (s.die d))) n []).isSome

/-! Checks (R270-R273). -/

/-- What the checks find. -/
inductive Checked where
  /-- These must be had of another module first. -/
  | need (ws : List Want)
  /-- The launch fails: why, step of R272, DONECAP as found. -/
  | bad (m : Miss) (step : Nat) (done : Cap)
  /-- A capability lacks the share right: SPAWN and GRPL freeze (R211). -/
  | share (done : Cap)
  /-- A task, not yet numbered, and the units to tag. -/
  | good (t : Task) (tagUnits : List Chunk)

/-- Place of an aligned 16-byte unit of an object, for its tag; a unit that is not aligned has none (log 30). -/
def unitAt (s : State) (d oid o : Nat) : Option Chunk := if o % 16 == 0 then spotOf s (launchMode d) oid o false else none

/-- Reads the argument table (R201, R270, R271). -/
def readArgs (s : State) (d : Nat) (h : Held) (k : Cap) : Nat → Nat → Except Miss (List Cap)
  | _, 0 => .ok []
  | o, n + 1 =>
    match launchRead s d k o 8 2 rRead with
    | .bad m => .error m
    | .val v =>
      let tag := (unitAt s d k.oid o).elim false (unitTag s (launchMode d))
      match tagCap (s.die d).launch h.kicked (BitVec.ofNat 128 v) tag with
      | .error c => .error (.ofCode c)
      | .ok c =>
        match readArgs s d h k (o + 16) n with
        | .ok l => .ok (c :: l)
        | e => e

/-- Reads an order table of n entries (R342): an ill-formed entry is none. -/
def readOrders (s : State) (d : Nat) (k : Cap) : Nat → Nat → Except Miss (List (Option OMap))
  | _, 0 => .ok []
  | o, n + 1 =>
    match launchRead s d k o 4 7 rConfig with
    | .bad m => .error m
    | .val v =>
      match readOrders s d k (o + 28) n with
      | .ok l => .ok (OMap.ofEntry ((List.range 7).map fun i => BitVec.ofNat 32 (v / 2 ^ (32 * i))) :: l)
      | e => e

/-- Header fields that R273 checks. -/
def headerOk (v : Nat) (k : Cap) : Bool :=
  let e := v % 2 ^ 32
  let tv := v / 2 ^ 32 % 2 ^ 32
  let ot := v / 2 ^ 64 % 2 ^ 32
  let n := v / 2 ^ 96 % 256
  v / 2 ^ 104 % 2 ^ 24 == 0 && v / 2 ^ 168 == 0 && e % 8 == 0 && 64 ≤ e && tv % 8 == 0 && 64 ≤ tv && ot % 4 == 0 &&
  (n == 0 || (k.base ≤ k.cursor + ot && k.cursor + ot + 28 * n ≤ k.top))

/-- Refusal of a capability. -/
def Checked.ofCap (kicked : Bool) (code step : Nat) (done : Cap) : Checked :=
  if !kicked && code == fcRights then .share done else .bad (.ofCode code) step done

/-- A failed read. -/
def Checked.ofRead (m : Miss) (step : Nat) (done : Cap) : Checked :=
  if !m.wants.isEmpty then .need m.wants else .bad m step done

/-- A failed read of the argument table, whose capabilities may lack the share right. -/
def Checked.ofArgs (h : Held) (m : Miss) (step : Nat) (done : Cap) : Checked :=
  if m.wants.isEmpty && m.code == fcRights then .ofCap h.kicked m.code step done else .ofRead m step done

/-- Units of memory that the launch unit tags: those of the packet in its ring and of the argument table (R159, R271). -/
def tagUnits (s : State) (d : Nat) (h : Held) (caps : List Cap) (k : Cap) (args : List Cap) : List Chunk :=
  if !h.kicked then []
  else
    ((pkCaps.zip caps).filterMap fun pc => if pc.2.tag then placeOf s (h.pa + pc.1 / 8) else none) ++
    ((List.range args.length).filterMap fun i =>
      if (args.getD i .none).tag then unitAt s d k.oid (k.cursor + 16 * i) else none)

/-- A capability was refused for its share right. -/
def refusedShare : Except Nat Cap → Bool
  | .error c => c == fcRights
  | .ok _ => false

/-- Some tagged capability of a packet that no kick brought, or of its argument table as far as it can be read, lacks the share right
(R211, R271). -/
def shareLack (s : State) (d : Nat) (h : Held) : List Want ⊕ Bool :=
  let cap := heldCap (s.die d).launch h
  if [4, 3, 2, 0].any fun n => refusedShare (cap n) then .inr true
  else match cap 0 with
    | .error _ => .inr false
    | .ok argt =>
      if (capCheck argt rRead argt.cursor (16 * pkNarg h.packet)).isSome then .inr false
      else match readArgs s d h argt argt.cursor (pkNarg h.packet) with
        | .ok _ => .inr false
        | .error m => if m.wants.isEmpty then .inr (m.code == fcRights) else .inl m.wants

/-- The checks of R272, steps 2 and 3, with the field checks of R270 ahead of them. Capabilities are looked at in the order
DONECAP, ROUTE, SPILLCAP, SAVECAP, ARGT, then the table. -/
def checkPacket (s : State) (d : Nat) (h : Held) : Checked :=
  let p := h.packet
  let l := (s.die d).launch
  let cap := heldCap l h
  match cap 1 with
  | .error c => .ofCap h.kicked c 2 .none
  | .ok done =>
    if !pkClean p then (match shareLack s d h with
      | .inl ws => .need ws
      | .inr lack => if lack && !h.kicked then .share done else .bad (.ofCode fcConfig) 1 done)
    else match cap 4, cap 3, cap 2, cap 0 with
      | .error c, _, _, _ => .ofCap h.kicked c 2 done
      | _, .error c, _, _ => .ofCap h.kicked c 2 done
      | _, _, .error c, _ => .ofCap h.kicked c 2 done
      | _, _, _, .error c => .ofCap h.kicked c 2 done
      | .ok route, .ok spill, .ok save, .ok argt =>
        match (if pkNarg p == 0 then none else capCheck argt rRead argt.cursor (16 * pkNarg p)) with
        | some c => .bad (.ofCode c) 2 done
        | none =>
          match readArgs s d h argt argt.cursor (pkNarg p) with
          | .error m => .ofArgs h m 2 done
          | .ok args =>
            match launchRead s d route route.cursor 8 8 rConfig with
            | .bad m => .ofRead m 2 done
            | .val v =>
              if !headerOk v route then .bad (.ofCode fcConfig) 2 done
              else match readOrders s d route (route.cursor + v / 2 ^ 64 % 2 ^ 32) (v / 2 ^ 96 % 256) with
                | .error m => .ofRead m 2 done
                | .ok orders =>
                  let size := v / 2 ^ 128 % 2 ^ 40
                  match (if pkSave p then capCheck save (rRead ||| rWrite) save.cursor (pkRegions p * size) else none) with
                  | some c => .bad (.ofCode c) 3 done
                  | none =>
                    if !canBind s d (pkWidth p) (pkHeight p) (pkRegions p) then .bad (.ofCode fcConfig) 3 done
                    else .good
                      { seq := 0, die := d, state := .queued, packet := p, args := args, args0 := args, done := done, save := save,
                        spill := if spill.oid == 0 then .none else spill, route := route, entry := v % 2 ^ 32,
                        tvec := v / 2 ^ 32 % 2 ^ 32, saveSize := size, orders := orders, queue := h.queue, prio := pkPrio p,
                        queuedAt := s.now d, place := s.module.nextPlace, selPrio := 0, m := 0, acq := [], edge := h.edge,
                        rises := 0, keys := [], grants := 0, halted := 0, stages := [], entered := false, pre := .no,
                        snap := none }
                      (tagUnits s d h [argt, done, save, spill, route] argt args)

/-! Acceptance (R272, R276). -/

/-- Entries of a queue that are taken (R276). -/
def State.queueCount (s : State) (d q : Nat) : Nat := (s.tasks.filter fun t => t.die == d && t.queue == q).length

/-- The queue has a free entry. -/
def queueRoom (s : State) (d q : Nat) : Bool := s.queueCount d q < Config.taskQueueSize

/-- Enqueues a task under its number. -/
def enqueue (s : State) (t : Task) (seq : Nat) (us : List Chunk) : State :=
  let s := us.foldl (fun s c => setUnitTag s (launchMode t.die) c true) s
  { s with tasks := s.tasks ++ [{ t with seq := seq, place := s.module.nextPlace, queuedAt := s.now t.die }],
           module := { s.module with nextPlace := s.module.nextPlace + 1 } }

/-- A failed launch: the completion record, or the record in the fault queue (R272). A read that its retry does not mend has its own
record, and its page is retired (R3, R309). -/
def failLaunch (s : State) (d : Nat) (h : Held) (seq : Nat) (m : Miss) (step : Nat) (done : Cap) : State :=
  let s := if m.code == fcLasting then launchLost s d seq m.oid m.ofs else s
  finishRecord s d seq done 0 true m.code
    (launchWords h.head (if h.kicked then fieldNat h.packet 0 16 else 0) (fieldNat h.packet 0 16)
      (if h.kicked then (s.die d).launch.reads else 0) step)

/-- What comes of a packet that holds a sequence number. -/
inductive Accepted where
  | wait (s : State)
  /-- Dealt with; and whether a task was enqueued. -/
  | done (s : State) (enqueued : Bool)
  | share (s : State)

/-- Accepts a packet under a number already assigned. -/
def acceptAs (s : State) (d : Nat) (h : Held) (seq : Nat) : Accepted :=
  match checkPacket s d h with
  | .need ws => .wait { s with wants := s.wants ++ ws }
  | .share done => if h.kicked then .done (failLaunch s d h seq (.ofCode fcRights) 2 done) false else .share s
  | .bad m step done => .done (failLaunch s d h seq m step done) false
  | .good t us =>
    if !queueRoom s d h.queue then .wait s
    else
      let s := if h.kicked then needPhys s h.pa 256 else s
      .done (enqueue s t seq us) true

/-! Kicks (R268, R269). -/

/-- Changes the launch unit of a die. -/
def State.updLaunch (s : State) (d : Nat) (f : Launch → Launch) : State := s.updDie d fun x => { x with launch := f x.launch }

/-- Physical address of the packet at HEAD. -/
def headAt (l : Launch) : Nat := fieldNat l.lqbase 8 48 * 256 + 256 * l.head.toNat

/-- The packet at HEAD, as memory stands: 256 bytes at a physical address. -/
def headPacket (s : State) (l : Launch) : BitVec 2048 := BitVec.ofNat 2048 (physNat s (headAt l) 256)

/-- Posts LAUNCH_STALE for the kick at the head of the FIFO and discards it (R269). -/
def staleKick (s : State) (d kick stamp reads : Nat) : State :=
  let l := (s.die d).launch
  let s := post s (Where.die' d) fcStale srcLaunch false 0 (launchWords l.head.toNat kick stamp reads 0)
  s.updLaunch d fun l => { l with kicks := l.kicks.drop 1, reads := 0 }

/-- A packet that its retry does not mend: the record, the page retired, and the kick is discarded with HEAD unchanged (R3, R309, log 30). -/
def lostKick (s : State) (d : Nat) : State :=
  let l := (s.die d).launch
  let a := paLocal (headAt l)
  let bad := ((granules a 256).find? s.bad.contains).getD 0
  (frameLost s (Where.die' d) srcLaunch (max a (64 * bad))).updLaunch d fun l => { l with kicks := l.kicks.drop 1, reads := 0 }

/-- One read of the packet at HEAD for the kick at the head of the FIFO (R269). -/
def readHead (s : State) (d : Nat) (k : BitVec 16) : State :=
  let l := (s.die d).launch
  let s := needPhys s (headAt l) 256
  let p := headPacket s l
  let n := l.reads + 1
  if s.failing (headAt l) 256 then lostKick s d
  else if fieldNat p 0 16 == k.toNat then
    let h : Held := ⟨p, [false, false, false, false, false], true, pkQueue p, none, none, l.head.toNat, headAt l⟩
    s.updLaunch d fun l => { l with kicks := l.kicks.drop 1, held := some h, reads := n }
  else if n < Config.maxReads then
    s.updLaunch d fun l => { l with reads := n, nextRead := s.now d + Config.rereadCycles }
  else staleKick s d k.toNat (fieldNat p 0 16) n

/-- KICK: the launch unit takes the oldest kick and reads the packet at HEAD (R269). -/
def execKick (s : State) : Out :=
  settleOut s <|
  let d := s.focus.die
  let l := (s.die d).launch
  match l.held, l.kicks with
  | none, k :: _ =>
    if l.reads != 0 then .next s
    else if l.lqn == 0 then .next (staleKick s d k.toNat 0 0)
    else .next (readHead s d k)
  | _, _ => .next s

/-- LAUNCH_REREAD: the next read of a packet whose stamp did not match (R269). -/
def execLaunchReread (s : State) : Out :=
  settleOut s <|
  let d := s.focus.die
  let l := (s.die d).launch
  match l.held, l.kicks with
  | none, k :: _ => if l.reads != 0 && l.nextRead ≤ s.now d then .next (readHead s d k) else .next s
  | _, _ => .next s

/-- The launch unit has dealt with its held packet: HEAD moves on (R269). -/
def advanceHead (s : State) (d : Nat) : State :=
  s.updLaunch d fun l =>
    { l with held := none, reads := 0,
             head := if l.lqn == 0 then 0 else BitVec.ofNat 16 ((l.head.toNat + 1) % l.lqn.toNat) }

/-- PACKET_ACCEPT: the kicked packet is numbered, checked and enqueued, or its launch fails (R272, R276). -/
def execPacketAccept (s : State) : Out :=
  settleOut s <|
  let d := s.focus.die
  match (s.die d).launch.held with
  | none => .next s
  | some h =>
    match h.seq with
    | none =>
      if !seqFree s then .next s
      else
        let q := s.module.nextSeq
        .next ((takeSeq s).updLaunch d fun l => { l with held := some { h with seq := some q } })
    | some q =>
      match acceptAs s d h q with
      | .wait s => .next s
      | .share s => .next s
      | .done s _ => .next (advanceHead s d)

/-- CONTINUATION_ENQUEUE: the oldest continuation packet is numbered, checked and enqueued once its queue has room (R276,
R287). -/
def execContinuationEnqueue (s : State) : Out :=
  settleOut s <|
  let d := s.focus.die
  match (s.die d).launch.conts with
  | [] => .next s
  | h :: rest =>
    match h.seq with
    | none =>
      if !seqFree s then .next s
      else
        let q := s.module.nextSeq
        .next ((takeSeq s).updLaunch d fun l => { l with conts := { h with seq := some q } :: rest })
    | some q =>
      let gone (s : State) : State := s.updLaunch d fun l => { l with conts := l.conts.drop 1 }
      match acceptAs s d h q with
      | .wait s => .next s
      | .done s _ => .next (gone s)
      | .share s => .next (gone (failLaunch s d h q (.ofCode fcRights) 2
          (match heldCap (s.die d).launch h 1 with | .ok c => c | .error _ => .none)))

/-- LQ_CONFIG_WRITE: LQBASE or LQCTL (R268); a reserved bit set makes the write no write. -/
def execLqConfigWrite (num : BitVec 16) (v : BitVec 64) (s : State) : Out :=
  let d := s.focus.die
  if num == 0x0200 then
    if fieldNat v 56 8 != 0 || fieldNat v 0 8 != 0 then .next s
    else .next (s.updLaunch d fun l => { l with lqbase := v, head := 0 })
  else if fieldNat v 40 24 != 0 then .next s
  else .next (s.updLaunch d fun l =>
    { l with grights := v.extractLsb' 32 8, lqn := v.extractLsb' 0 16, head := 0 })

/-! SPAWN and GRPL (R211, R212). -/

/-- The instruction has enqueued its packets: wd receives the number or the count. -/
def spawnDone (s : State) (r : Region) (wd : Nat) (v : Nat) : State :=
  ctlNext s r (Region.setW (BitVec.ofNat 4 wd) (BitVec.ofNat 64 v))

/-- The region freezes for a packet capability without the share right (R211). -/
def spawnFreeze (s : State) (r : Region) (oid ofs : Nat) : State :=
  let s := s.updRegion r.die r.rblk fun r => { r with ctl := .ready (s.now r.die) }
  freeze s r fcRights srcCtl (ctlAccess r false oid ofs rShare).words

/-- Tags of a packet's capabilities as stored (R271). -/
def packetTags (s : State) (r : Region) (oid o : Nat) : List Bool :=
  pkCaps.map fun lo =>
    (o + lo / 8) % 16 == 0 && (spotOf s (ctlMode s r) oid (o + lo / 8) false).elim false (unitTag s (ctlMode s r))

/-- A packet as SPAWN and GRPL hand it on, with the task's snapshot. -/
def spawnHeld (s : State) (r : Region) (p : BitVec 2048) (tags : List Bool) (queue : Nat) : Held :=
  ⟨p, tags, false, queue, none, some (s.edgeOf r.seq), 0, 0⟩

/-- The instruction waits where it stands. -/
def spawnWait (s : State) (r : Region) (x : SpawnRun) : State := s.updRegion r.die r.rblk fun r => { r with ctl := .spawn x }

/-- The packets left of a SPAWN or GRPL are accepted in order; each waits for a sequence number and a free entry. What the instruction
read when it issued stands (R211, R212, R226). -/
def spawnStep (s : State) (r : Region) (x : SpawnRun) (spawn : Bool) (count : Nat) : List (BitVec 2048) → State
  | [] => spawnDone s r x.wd count
  | p :: rest =>
    let stay : SpawnRun := { x with left := p :: rest, count := count }
    if !(seqFree s && queueRoom s r.die x.queue) then spawnWait s r stay
    else
      let q := s.module.nextSeq
      match acceptAs s r.die (spawnHeld s r p x.tags x.queue) q with
      | .wait s => spawnWait s r stay
      | .share s => spawnFreeze s r x.oid x.ofs
      | .done s enq =>
        let s := takeSeq s
        if spawn then spawnDone s r x.wd q else spawnStep s r x spawn (if enq then count + 1 else count) rest

/-- Reads the packet of SPAWN or GRPL at offset wa of the slot's object, and goes on with f (R158, R211). -/
def withPacket (s : State) (r : Region) (g : FmtG) (f : BitVec 2048 → State → State) : State :=
  let k := slotOf s r g
  let o := (r.wreg g.wa).toNat
  match capCheck k rRead o 256 with
  | some c => ctlRefused s r c false k (faultOfs k c o 256) rRead
  | none =>
    match ctlReads s r k o rRead 32 with
    | (none, s) => s
    | (some vs, s) => f (BitVec.ofNat 2048 (vs.foldr (fun v n => v.toNat + n * 2 ^ 64) 0)) s

/-- A SPAWN or GRPL that has read its packets: to a queue, with the tags of the capabilities at wa. -/
def spawnRun (s : State) (r : Region) (g : FmtG) (queue : Nat) (ps : List (BitVec 2048)) : SpawnRun :=
  let k := slotOf s r g
  let o := (r.wreg g.wa).toNat
  ⟨g.wd.toNat, ps, packetTags s r k.oid o, queue, 0, k.oid, o⟩

/-- SPAWN (R211). -/
def execSpawn (g : FmtG) (s : State) : Out :=
  ctlMem s fun r =>
    let b := (r.opB g).toNat
    match r.ctl with
    | .spawn x => .next (spawnStep s r x true x.count x.left)
    | _ =>
      if 256 ≤ b then .next (trapIllegal s r)
      else .next (withPacket s r g fun p s => spawnStep s r (spawnRun s r g b [p]) true 0 [p])

/-- Tiles of one group (R212). -/
def groupTiles (p : BitVec 2048) (g r base : Nat) : List (BitVec 2048) :=
  (List.range ((r + 63) / 64)).map fun t => pkWithIter p g t (min 64 (r - 64 * t)) (base + 64 * t)

/-- Packets of a grouped launch, in order (R212). -/
def groupPackets (p : BitVec 2048) : Nat → Nat → List Nat → List (BitVec 2048)
  | _, _, [] => []
  | g, base, r :: rs => groupTiles p g r base ++ groupPackets p (g + 1) (base + r) rs

/-- Reads n words of 4 bytes of the slot's object. -/
def readN32 (s : State) (r : Region) (k : Cap) (o : Nat) : Nat → Option (List Nat) × State
  | 0 => (some [], s)
  | n + 1 =>
    match ctlRead s r k o 4 rRead with
    | .stop s => (none, s)
    | .ok v s =>
      match readN32 s r k (o + 4) n with
      | (some l, s) => (some (v.toNat :: l), s)
      | x => x

/-- GRPL (R212). -/
def execGrpl (g : FmtG) (s : State) : Out :=
  ctlMem s fun r =>
    match r.ctl with
    | .spawn x => .next (spawnStep s r x false x.count x.left)
    | _ =>
      .next (withPacket s r g fun p s =>
        let k := slotOf s r g
        let o := (r.opB g).toNat
        match readN32 s r k o 1 with
        | (none, s) => s
        | (some c, s) =>
          if 65536 < c.getD 0 0 then trapIllegal s r
          else match readN32 s r k (o + 4) (c.getD 0 0) with
            | (none, s) => s
            | (some rows, s) =>
              if 2 ^ 32 ≤ rows.foldl (· + ·) 0 then trapIllegal s r
              else
                let ps := groupPackets p 0 0 rows
                spawnStep s r (spawnRun s r g (pkQueue p) ps) false 0 ps)

end Sys2Proof.Machine
end

