-- ==== Sys2Proof/Machine/Sched.lean ====
section
/-! DEFINITION. Queues, selection and binding (R275-R280): priorities and their ageing, the distributor's choice, the regions
of a task, and the restoring of a frozen one (R307). -/

namespace Sys2Proof.Machine

/-! Priorities (R275, R278). -/

/-- TPRIO: the base priority of a task; its age stands (R278). A reserved bit set, or a task that is not known, makes the write
no write. -/
def execTprio (v : BitVec 64) (s : State) : Out :=
  if fieldNat v 27 37 != 0 then .next s
  else .next (s.updTask (fieldNat v 0 24) fun t => { t with prio := fieldNat v 24 3 })

/-- AGE_PROMOTE: a queued task's priority rises by one level for each 2^20 cycles of waiting (R275). -/
def execAgePromote (s : State) : Out :=
  match s.task s.focus.id with
  | none => .fault .noActor
  | some t =>
    if t.state == .queued && t.rises < (s.now t.die - t.queuedAt) / 2 ^ 20 then
      .next (s.updTask t.seq fun t => { t with rises := t.rises + 1 })
    else .next s

/-! Selection (R277). -/

/-- Head of a queue of a die: its queued task that came first. -/
def queueHead (s : State) (d q : Nat) : Option Task :=
  (s.tasks.filter fun t => t.die == d && t.queue == q && t.state == .queued).foldl
    (fun b t => match b with
      | some x => if t.place < x.place then some t else b
      | none => some t) none

/-- Heads of the queues of a die, in ascending queue number. -/
def heads (s : State) (d : Nat) : List Task := (List.range 256).filterMap (queueHead s d)

/-- The head that is selected: the highest priority, then the first queue after the last one served at it (R277). -/
def pickTask (hs : List Task) (served : List Nat) : Option Task :=
  let top := hs.foldl (fun p t => max p t.level) 0
  let at_ := hs.filter (·.level == top)
  match at_.find? fun t => served.getD top 255 < t.queue with
  | some t => some t
  | none => at_.head?

/-- A task of the die is selected. -/
def selectedTask (s : State) (d : Nat) : Option Task := s.tasks.find? fun t => t.die == d && t.state == .selected

/-- TASK_SELECT: the distributor, holding no selected task, selects a queue head (R277). -/
def execTaskSelect (s : State) : Out :=
  let d := s.focus.die
  match selectedTask s d with
  | some _ => .next s
  | none =>
    match pickTask (heads s d) (s.die d).launch.served with
    | none => .next s
    | some t =>
      let s := s.updLaunch d fun l => { l with served := l.served.set t.level t.queue }
      .next (s.updTask t.seq fun t => { t with state := .selected, selPrio := t.level })

/-! Binding (R279). -/

/-- Regions that a task binds: those of its snapshot, or NREG + 1. -/
def Task.regionCount (t : Task) : Nat :=
  match t.snap with
  | some sn => sn.regions.length
  | none => pkRegions t.packet

/-- Inserts a rectangle by its key. -/
def insertRect (n : Nat) (b : List Nat) : List (List Nat) → List (List Nat)
  | [] => [b]
  | x :: r =>
    if Config.placeKey n (b.getD 0 0) < Config.placeKey n (x.getD 0 0) then b :: x :: r else x :: insertRect n b r

/-- The distributor's order of choice at binding number n (R279): a free value. -/
def orderRects (n : Nat) : List (List Nat) → List (List Nat)
  | [] => []
  | b :: bs => insertRect n b (orderRects n bs)

/-- Blocks free for a binding: usable, and in no resident region. -/
def freeBlock (s : State) (d b : Nat) : Bool :=
  usableBlock (s.die d) b && s.regions.all fun r => r.die != d || !r.blocks.contains b

/-- Ascending order of the rectangles chosen, by controller block. -/
def ascRects (l : List (List Nat)) : List (List Nat) :=
  (List.range 256).filterMap fun b => l.find? fun x => x.head? == some b

/-- The rectangles of a binding, by region number (R279). -/
def chooseRects (s : State) (t : Task) : Option (List (List Nat)) :=
  (packRects (orderRects s.module.nextFree (rects (pkWidth t.packet) (pkHeight t.packet) (freeBlock s t.die)))
    t.regionCount []).map ascRects

/-- A region of a task that starts at its ENTRY (R199, R279). -/
def freshRegion (t : Task) (num rblk now : Nat) : Region :=
  { die := t.die, rblk := rblk, width := pkWidth t.packet, height := pkHeight t.packet, seq := t.seq, num := num,
    pc := t.entry, w := BitVec.ofNat 64 num :: List.replicate 15 0, i := pkIter t.packet, ks := t.spill, st := 0, depth := 0,
    frames := [], ctl := .ready (now + 1), frozen := .no, cellsHeld := false, cells := [], running := false, runAt := 0,
    passes := 0, passNext := 0, lastAct := now, cfg := none, runTrap := none, orders := t.orders, stores := [],
    cellTraps := [], engFaults := [], freeList := [], stage := none, brkDue := none, ctlw := [],
    cfgAt := now, held := false }

/-- Applies codebook writes, the last to an entry standing (R128). -/
def Die.applyBooks (x : Die) : Die :=
  { x with bookDue := [], books := x.bookDue.foldl (fun l e => if e.2 = 0 then del l e.1 else put l e.1 e.2) x.books }

/-- Codebooks of a region's blocks are zero when it is formed, for which the spec gives no value (log 53; R65), and its tiles' counters
start anew (R229). -/
def clearBooks (s : State) (d : Nat) (bs : List Nat) : State :=
  s.updDie d fun x => { x with books := x.books.filter fun e => !bs.contains e.1.1,
                               bookDue := x.bookDue.filter fun e => !bs.contains e.1.1,
                               hits := x.hits.filter fun e => !bs.contains e.1,
                               misses := x.misses.filter fun e => !bs.contains e.1 }

/-- The task is bound: m := G and the edge it carries, then its regions (R171, R279). -/
def bindFresh (s : State) (t : Task) (bs : List (List Nat)) : State :=
  let now := s.now t.die
  let rs := (List.range bs.length).map fun n => freshRegion t n ((bs.getD n []).getD 0 0) now
  let s := clearBooks s t.die bs.flatten
  let g := s.watermark
  let s := s.updTask t.seq fun t => { t with state := .bound, m := g, acq := [] }
  let s := match t.edge with
    | some e => takeSnapshot s t.seq e
    | none => s
  { s with regions := s.regions ++ rs }

/-! Restoring a snapshot (R307). -/

/-- A port with its tokens valid at once. -/
def Port.thaw (p : Port) : Port :=
  { p with q := p.q.map fun k => { k with born := 0 }, popped := 0, popAt := 0, swpAt := 0 }

/-- A cell's state with everything due at once: no time of the snapshot means anything on another die. -/
def CellRt.thaw (y : CellRt) : CellRt :=
  { y with ports := y.ports.map Port.thaw, fired := 0, busy := 0, eotAt := 0,
           results := y.results.map fun k => { k with due := 0 }, qbuf := y.qbuf.map fun k => { k with due := 0 } }

/-- A store likewise. -/
def Store.thaw (st : Store) : Store := { st with inq := st.inq.map Port.thaw }

/-- A waiting BELAY, WAITC or HALT is its own restart point (R305). -/
def Ctl.thaw (c : Ctl) (now : Nat) : Ctl :=
  match c with
  | .spawn x => .spawn x
  | .stage => .stage
  | _ => .ready (now + 1)

/-- A saved region on the blocks it is given. -/
def Region.thaw (r : Region) (d rblk now : Nat) : Region :=
  { r with die := d, rblk := rblk, held := false, ctl := r.ctl.thaw now, runAt := now, lastAct := now, cfgAt := now,
           cells := r.cells.map fun c => (c.1, { c.2 with rt := c.2.rt.thaw }), stores := r.stores.map Store.thaw }

/-- The slots and tiles that a snapshot claims are free on the die, and its far stores fit the pool (R247, R307). -/
def canRestore (s : State) (t : Task) (sn : Snapshot) : Bool :=
  let x := s.die t.die
  sn.slots.all (fun e => (lookD (lookD x.matrix e.1 .empty).slots e.2.1 .empty).owner == 0) &&
  sn.tiles.all (fun e => (lookD (lookD x.matrix e.1 .empty).tiles e.2.1 .empty).owner == 0) &&
  x.poolUsed + (sn.regions.map Region.farGranules).foldl (· + ·) 0 ≤ fieldNat x.fspool 0 32

/-- Puts saved slots and tiles into their islands (R247). -/
def restoreIslands (x : Die) (sn : Snapshot) : Die :=
  let m := sn.slots.foldl (fun m e =>
    let i := lookD m e.1 .empty
    putAsc m e.1 { i with slots := putAsc i.slots e.2.1 e.2.2 }) x.matrix
  { x with matrix := sn.tiles.foldl (fun m e =>
      let i := lookD m e.1 .empty
      putAsc m e.1 { i with tiles := putAsc i.tiles e.2.1 e.2.2 }) m,
           poolUsed := x.poolUsed + (sn.regions.map Region.farGranules).foldl (· + ·) 0 }

/-- SEQ, DIE and HELD of a save area header (Table 22.7): its last 32 bytes hold them in bits 0 to 28. -/
def headerTail (seq d : Nat) (held : Bool) : List Byte := natLe 32 (seq % 2 ^ 24 + d <<< 24 + boolNat held <<< 28)

/-- Writes the header tails of a task's save areas (R306). The eight LIVE entries lie in the low 256 bits, of which SEQ and the
fields above it take none. -/
def writeHeaders (s : State) (t : Task) (held : Bool) (nums : List Nat) : State :=
  nums.foldl (fun s n =>
    launchWrite s t.die t.seq t.save.oid (t.save.cursor + n * t.saveSize + 32) (headerTail t.seq t.die held)) s

/-- A frozen task is bound again and restored (R171, R307). -/
def bindRestored (s : State) (t : Task) (sn : Snapshot) (bs : List (List Nat)) : State :=
  let now := s.now t.die
  let place (n : Nat) : Nat := (bs.getD n []).getD 0 0
  let old := sn.regions.map (·.rblk)
  let newBlk (b : Nat) : Nat := place (old.findIdx (· == b))
  let rs := (List.range sn.regions.length).filterMap fun n => (sn.regions[n]?).map fun r => r.thaw t.die (place n) now
  let s := clearBooks s t.die bs.flatten
  let s := s.updDie t.die fun x =>
    let x := restoreIslands x sn
    { x with books := x.books ++ sn.books.filterMap fun e =>
        (rs[e.1.1]?).map fun r => ((r.block e.1.2.1, e.1.2.2.1, e.1.2.2.2), e.2) }
  let s := writeHeaders s t false (sn.regions.map (·.num))
  let g := s.watermark
  let s := s.updTask t.seq fun t =>
    { t with state := .bound, snap := none, m := g, acq := t.acq.filter fun q => !seqBelow g q }
  { s with regions := s.regions ++ rs,
           cmds := s.cmds ++ sn.cmds.map fun c =>
             { c with die := t.die, rblk := newBlk c.rblk, decodedAt := 0, due := 0,
                      stage := if c.stage == .parked then .decoded else c.stage },
           iports := s.iports ++ sn.iports.map fun i =>
             { i with die := t.die, rblk := newBlk i.rblk, q := i.q.map fun k => { k with born := 0 }, popped := 0, popAt := 0 } }

/-- TASK_BIND: the selected task takes regions once they can be formed (R279, R307). -/
def execTaskBind (s : State) : Out :=
  match selectedTask s s.focus.die with
  | none => .next s
  | some t =>
    match chooseRects s t with
    | none => .next s
    | some bs =>
      let next (s : State) : State := s.updMod fun m => { m with nextFree := m.nextFree + 1 }
      match t.snap with
      | none => .next (next (bindFresh s t bs))
      | some sn => if canRestore s t sn then .next (next (bindRestored s t sn bs)) else .next s

/-- The task can no longer be bound on its die (R280). -/
def unbindable (s : State) (t : Task) : Bool :=
  !canBind s t.die (pkWidth t.packet) (pkHeight t.packet) t.regionCount

/-- TASK_DROP_UNBINDABLE: a queued or selected task that the die can never bind ends as a failed launch (R280). -/
def execTaskDropUnbindable (s : State) : Out :=
  match s.task s.focus.id with
  | none => .fault .noActor
  | some t =>
    if (t.state == .queued || t.state == .selected) && unbindable s t then .next (endTask s t.seq 0 true fcConfig)
    else .next s

end Sys2Proof.Machine
end

