-- ==== Sys2Proof/Machine/Islands.lean ====
section
/-! DEFINITION. Islands: their control ports (R102, R231, R249), return links (R232), the decoding of a command and its faults
(R104, R246, R253), the order of commands (R235, R249), their start and their completion (R234, R235). -/

namespace Sys2Proof.Machine

/-- Slots and tiles that a matrix command touches (R235). -/
structure Touch where
  reads : List Nat
  writes : List Nat
  tiles : List Nat
  deriving DecidableEq, Repr

/-- What a matrix command touches, kt the extent of its A operands' class, which fixes the metadata slots of an MMAS (R241). -/
def Cmd.touch (c : Cmd) (kt : Nat) : Touch :=
  let ks := List.range (min c.steps 256)
  match c.eop with
  | 0x10 => ⟨ks.map c.aSlot ++ ks.flatMap c.bSlots, [], [c.accTile]⟩
  | 0x11 => ⟨ks.map c.aSlot ++ ks.flatMap c.bSlots ++ (List.range (min c.steps 512)).map (c.metaSlot kt), [], [c.accTile]⟩
  | 0x12 => if c.role == 3 then ⟨[], [], [c.f0 40 4]⟩ else ⟨[], [c.f0 48 8], []⟩
  | 0x13 => ⟨[], c.claimSlots, c.amask⟩
  | 0x14 => ⟨[], c.claimSlots, c.amask⟩
  | 0x15 => ⟨[], [], c.accTile :: (if c.f1 58 6 == c.isl then [c.f1 54 4] else [])⟩
  | _ => ⟨[], [], [c.accTile]⟩

/-- Two commands conflict (R235). -/
def Touch.conflict (a b : Touch) : Bool :=
  a.writes.any (fun x => b.writes.contains x || b.reads.contains x) || b.writes.any a.reads.contains ||
  a.tiles.any b.tiles.contains

/-- Kt of a format (Table 15.1); 0 for a format of no class. -/
def classKt (fmt : Nat) : Nat :=
  match fmt with
  | 10 | 11 => 64
  | 12 | 13 => 128
  | 14 => 256
  | _ => 0

/-! Return links (R232). -/

/-- A port may receive a stream of an order, or a control stream, on a lane (R232). -/
def returnOk (r : Region) (cell port : Nat) (o : Option OMap) (lane : Nat) : Bool :=
  let x := (r.cell cell).cfg
  cell < r.cellCount && x.inKind port == 0 && (r.feeder cell port).isNone && x.lin port == lane &&
  (match o with
   | none => x.inIdx port == 255
   | some m => match r.order (x.inIdx port) with
     | some a => m.same a
     | none => false)

/-- A return link has 16 slots (R232). -/
def returnRoom (r : Region) (cell port t : Nat) : Bool :=
  let y := (r.cell cell).rt
  let p := y.port port
  y.lost || occupancy p.q p.popped p.popAt t < 16

/-- Sends a token on a return link in cycle t. -/
def returnTok (r : Region) (cell port t : Nat) (k : Token) : Region :=
  (r.updRt cell fun y => y.arrive port { k with born := t }).act t

/-- The order that NORM sends (R243): its lane count is 2^n. -/
def normOrder (n : Nat) : OMap :=
  let l := 2 ^ n
  if n == 6 then [⟨0, false, false, false, 0, 64⟩, ⟨1, true, false, false, 0, 64⟩]
  else if n == 0 then [⟨0, false, false, false, 0, 64⟩, ⟨1, false, false, false, 0, 64⟩]
  else [⟨0, false, false, false, 0, 64⟩, ⟨1, false, false, false, 1, 64 / l⟩, ⟨1, true, false, false, 0, l⟩]

/-- Receiving ports of a NORM: cell and lane. -/
def Cmd.normCells (c : Cmd) : List (Nat × Nat) := (List.range (2 ^ c.f0 31 3)).map fun j => (c.f0 17 14 + j, j)

/-! Records and faults (R104, R246, R253). -/

/-- A command stops acting: dropped, or, for an MLOAD that has started, consuming through its EOT (R238). -/
def dropFailed (s : State) (c : Cmd) : State :=
  let s := s.updRegion c.die c.rblk (Region.act (s.now c.die))
  if c.isLoad then s.updCmd c.id fun x => { x with stage := .draining, begun := true } else s.dropCmd c.id

/-- A command faults with a code of its own (Table 22.4). -/
def failCmd (s : State) (c : Cmd) (code detail step : Nat) : State :=
  dropFailed (engineRecord s c.place c.target code 0
    (engineWords c.isl c.port detail c.words.w0.toNat c.words.w1.toNat step)) c

/-- The command has done its last; it counts as complete in this cycle (R235). -/
def finishCmd (s : State) (c : Cmd) : State :=
  let t := s.now c.die
  (s.updRegion c.die c.rblk (Region.act t)).updCmd c.id fun x => { x with stage := .complete, due := t }

/-! The control ports (R102, R104, R231). -/

/-- Some port of an island is frozen for a region (R253). -/
def islandFrozen (s : State) (d target isl b : Nat) : Bool :=
  s.iports.any fun i => i.die == d && i.target == target && i.isl == isl && i.rblk == b && i.frozen

/-- Changes an island port. -/
def updIPort (s : State) (d target isl b port lane : Nat) (f : IPort → IPort) : State :=
  { s with iports := s.iports.map fun i => if i.is d target isl b port lane then f i else i }

/-- Takes the head of an island port in cycle t. -/
def IPort.pop (i : IPort) (t : Nat) : IPort :=
  { i with q := i.q.drop 1, popped := (if i.popAt == t then i.popped else 0) + 1, popAt := t }

/-- Valid head of an island port. -/
def IPort.head (i : IPort) (t : Nat) : Option Token :=
  match i.q with
  | k :: _ => if k.born < t then some k else none
  | [] => none

/-- A link of the region from an AMERGE feeds a data port (R137). -/
def amergeFed (r : Region) (isl port : Nat) : Bool :=
  r.links.any fun l => l.2.2.target l.2.1 == 2 && l.2.2.tindex l.2.1 == isl && l.2.2.tport l.2.1 == port && l.2.2.opc == 0x102

/-- The checks of a command's own fields, made when it is decoded (R104, R232, R234, R235, R242, R243). MODE of a streamer command is
checked with its parameter block (R252). -/
def decodeOk (r : Region) (c : Cmd) : Bool :=
  (if c.target == 2 then (decode128 c.words.w0 c.words.w1).isSome && 0x10 ≤ c.eop && c.eop ≤ 0x16
   else c.words.streamFields && 0x20 ≤ c.eop && c.eop ≤ 0x27) &&
  (!c.done || returnOk r c.dcell c.doneport none 0) &&
  (c.eop != 0x15 || !(c.f1 58 6 == c.isl && c.f1 54 4 == c.accTile)) &&
  (c.eop != 0x16 || (c.f0 17 14 + 2 ^ c.f0 31 3 ≤ r.cellCount &&
    c.normCells.all fun x => returnOk r x.1 (c.f0 15 2) (some (normOrder (c.f0 31 3))) x.2))

/-- Entries of a codebook of a block (R65). -/
def bookEntries (x : Die) (blk n : Nat) : List Nat := (List.range 16).map fun j => (lookD x.books (blk, n, j) 0).toNat

/-- A command of two words, as it is decoded. -/
def newCmd (s : State) (r : Region) (target isl port cell : Nat) (w0 w1 : W64) : Cmd :=
  let q := s.racer r.seq
  { id := s.module.nextCmd, die := r.die, target := target, isl := isl, rblk := r.rblk, seq := r.seq, port := port,
    cell := cell, words := ⟨w0, w1⟩, stage := .decoded, decodedAt := s.now r.die, ticket := 0, due := 0, m := q.m, acq := q.acq,
    begun := false, hdr := none, lanes := [], buf := [], scales := [], reading := none, item := 0, params := [],
    book := bookEntries (s.die r.die) (r.blockOf cell) (fieldNat w0 34 4), acc := [] }

/-- Adds a command. -/
def addCmd (s : State) (c : Cmd) : State :=
  { s with cmds := s.cmds ++ [c], module := { s.module with nextCmd := s.module.nextCmd + 1 } }

/-- A pair of words is complete: the command is decoded (R102, R233). An MLOAD that fails a check of its own fields, or that an AMERGE
feeds without ROLE 3, faults here and still consumes through its EOT, where it names a data port (R137, R235, Table 15.5). -/
def decodeCmd (s : State) (r : Region) (target isl port cell : Nat) (w0 w1 : W64) : State :=
  let c := newCmd s r target isl port cell w0 w1
  if !decodeOk r c || (c.isMatrix && c.isLoad && c.role != 3 && amergeFed r isl c.dport) then
    let s := engineRecord s r.place target fcEngine 0 (engineWords isl port 0 w0.toNat w1.toNat noStep)
    if c.isMatrix && c.isLoad && 2 ≤ c.dport then addCmd s { c with stage := .draining, begun := true, ticket := c.id } else s
  else addCmd s c

/-- The turn of a control port: it takes one token, pairs words and decodes (R102); a token other than CTL is discarded with a
word 0 that waits (R104). -/
def portTurn (s : State) (f : Focus) : State :=
  let d := f.die
  let b := f.rblk
  match s.region d b, s.iports.find? (·.is d f.id f.isl b f.port 0) with
  | some r, some i =>
    let t := s.now d
    if r.held || islandFrozen s d f.id f.isl b then s
    else match i.head t with
      | none => s
      | some k =>
        let put (w : Option (W64 × Nat)) : State :=
          (updIPort s d f.id f.isl b f.port 0 fun i => { i.pop t with word0 := w }).updRegion d b (Region.act t)
        if k.kind != .ctl then
          engineRecord (put none) r.place f.id fcEngine 0
            (engineWords f.isl f.port (k.kind.code + 8) (match i.word0 with | some w => w.1.toNat | none => 0) 0 noStep)
        else match i.word0 with
          | none => put (some (k.pay, match k.hid with | .emit c => c | _ => 0))
          | some (w0, cell) => decodeCmd (put none) r f.id f.isl f.port cell w0 k.pay
  | _, _ => s

/-! Start and completion (R234, R235, R249). -/

/-- The actor of a command. -/
def cmdFocus (n : Nat) : Focus := { Focus.none with port := 65, id := n }

/-- A command that others no longer wait for in cycle t: complete, its writes on other modules acknowledged (R252). -/
def Cmd.finished (s : State) (c : Cmd) (t : Nat) : Bool := c.stage == .complete && c.due < t && !s.asking (cmdFocus c.id)

/-- The class extent by which a command's metadata slots count (R235, R241): that of its first A slot, or the widest while an earlier
command of its port has that slot still to load. -/
def touchKt (s : State) (c : Cmd) : Nat :=
  let a := c.aSlot 0
  let kt := classKt (((s.die c.die).island c.isl).slot a).fmt
  if kt == 0 || s.cmds.any fun x => x.samePort c && x.id < c.id && x.isLoad && x.role != 3 && x.f0 48 8 == a && x.stage != .draining
    && x.stage != .complete then 256 else kt

/-- A decoded command waits for no earlier one of its port (R235, R249). An MLOAD that faulted and only consumes its stream is in
conflict with nothing (R235, R246). -/
def cmdReady (s : State) (c : Cmd) (t : Nat) : Bool :=
  c.stage == .decoded && c.decodedAt < t &&
  s.cmds.all fun x =>
    !(x.samePort c && x.id < c.id) || x.finished s t ||
    (c.isMatrix && (x.stage == .draining || !((x.touch (touchKt s x)).conflict (c.touch (touchKt s c)))))

/-- The array takes the command that was decoded earliest; then the lower region, then the lower port (R235). -/
def arrayFirst (a b : Cmd) : Bool :=
  decide (a.decodedAt < b.decodedAt) ||
  (a.decodedAt == b.decodedAt && (decide (a.rblk < b.rblk) || (a.rblk == b.rblk && decide (a.port < b.port))))

/-- The array is free for a multiplication. -/
def arrayFree (s : State) (c : Cmd) (t : Nat) : Bool :=
  s.cmds.all fun x =>
    !(x.sameIsland c && x.isMul && x.id != c.id) ||
    (x.stage != .running && !(cmdReady s x t && arrayFirst x c))

/-- A region stopped by a FREEZE starts no matrix command (R247). -/
def startHeld (s : State) (c : Cmd) : Bool :=
  c.isMatrix && (match s.region c.die c.rblk with | some r => r.held | none => true)

/-- ENGINE_COMMAND_START: the command in focus starts (R235, R249). -/
def execEngineCommandStart (s : State) : Out :=
  match s.cmd s.focus.id with
  | none => .fault .noActor
  | some c =>
    let t := s.now c.die
    if cmdReady s c t && !startHeld s c && !islandFrozen s c.die c.target c.isl c.rblk && (!c.isMul || arrayFree s c t) then
      let s := s.updCmd c.id fun x =>
        { x with stage := .running, ticket := s.module.nextCmd, due := if c.isMul && c.begun then t + 63 else t }
      .next (s.updMod fun m => { m with nextCmd := m.nextCmd + 1 })
    else .next s

/-- ENGINE_COMMAND_COMPLETE: a complete command leaves; its done token follows in the cycle after its completion, once the
receiving port has a free slot (R232, R234). A streamer's done token has MODULE scope or DOMAIN scope (R252). -/
def execEngineCommandComplete (s : State) : Out :=
  match s.cmd s.focus.id with
  | none => .fault .noActor
  | some c =>
    let t := s.now c.die
    if !c.finished s t then .next s
    else if !c.done then .next (s.dropCmd c.id)
    else match s.region c.die c.rblk with
      | none => .next (s.dropCmd c.id)
      | some r =>
        if returnRoom r c.dcell c.doneport t then
          .next ((s.updRegion c.die c.rblk fun r => returnTok r c.dcell c.doneport t (.doneTok (if c.isMatrix then 0 else 4))).dropCmd c.id)
        else .next s

/-- The command in focus, whose words the step carries, for its meaning: it acts while it runs and is due, once it has what it needs of
other modules (R315). -/
def engineTurn (w : EngWords) (s : State) (f : Cmd → State) : Out :=
  match s.cmd s.focus.id with
  | none => .fault .noActor
  | some c =>
    if c.words != w then .fault .noActor
    else if c.stage == .running && c.due ≤ s.now c.die then .next (settle s (f c))
    else .next s

end Sys2Proof.Machine
end

