-- ==== Sys2Proof/Machine/Streamer.lean ====
section
/-! DEFINITION. The streamer island: parameter blocks (R251), checks, steps and faults (R252, R253), and the commands COPY (R254,
R255), CHAIN (R256), STASH and RESTORE (R257-R260). -/

namespace Sys2Proof.Machine

/-! Accesses of an island (R252). -/

/-- Result of a part of a command: a value, or a state in which the command does not go on now. -/
inductive ERes (α : Type) where
  | ok (v : α) (s : State)
  | stop (s : State)

/-- One part after another. -/
def ERes.bind {α β : Type} (x : ERes α) (f : α → State → ERes β) : ERes β :=
  match x with
  | .ok v s => f v s
  | .stop s => .stop s

/-- How a command accesses memory: at home, plain accesses of its task (R252); an XFER that outlives its task is exempt. -/
def Cmd.mode (c : Cmd) (stash keep : Bool) : Mode :=
  { die := c.die, blk := 512 + 64 * c.target + c.isl, l1 := false, plain := if c.rblk == detached then none else some c.racer,
    stash := stash, keepTags := keep, buf := [] }

/-- Words 2 to 7 of an engine access fault (R293). -/
def engineAccess (c : Cmd) (write : Bool) (oid ofs rights tstate : Nat) (step : Nat) : List Nat :=
  let a : Access := ⟨c.isl, c.port, if write then 7 else 6, 255, false, oid, ofs % 2 ^ 44, rights, tstate, 0, [], 0⟩
  a.words.take 2 ++ [c.words.w0.toNat, c.words.w1.toNat, step, 0]

/-- Freezes the island's ports for a command's region (R253). -/
def freezePorts (s : State) (c : Cmd) : State :=
  { s with iports := s.iports.map fun i =>
      if i.die == c.die && i.target == c.target && i.isl == c.isl && i.rblk == c.rblk then { i with frozen := true } else i }

/-- A command whose range check fails: its island's ports freeze, and their release discards it (R252, R253). -/
def engineRefused (s : State) (c : Cmd) (write : Bool) (code oid ofs rights : Nat) : State :=
  freezePorts ((post s c.place code srcStreamer false 0 (engineAccess c write oid ofs rights 0 noStep)).updCmd c.id fun x =>
    { x with stage := .draining }) c

/-- A fault of a command's access (R174, R253, R297, R300): a page fault opens the window, RACE waits for the BELAY, an error that its
retry does not mend ends the task; any other code freezes the ports, and the step is made afresh when they are released (R296). -/
def engineBad (s : State) (c : Cmd) (write : Bool) (code oid ofs rights : Nat) (tag : W32) (step : Nat) : State :=
  let t := s.now c.die
  let ws := engineAccess c write oid ofs rights (if code == fcRace then fieldNat tag 0 2 else 0) step
  if code == fcAbsent || code == fcProt || code == fcCow then
    let s := (post s c.place code srcStreamer false 0 ws).updCmd c.id fun x => { x with stage := .parked }
    match s.region c.die c.rblk with
    | some r => if r.frozen == .no then openWindow s c.seq t else s
    | none => s
  else if code == fcRace then dropFailed (engineRecord s c.place c.target code (fieldNat tag 8 24) ws) c
  else if code == fcLasting then
    accessFails (s.updCmd c.id fun x => { x with stage := .parked }) c.place srcStreamer oid ofs ws
  else freezePorts (post s c.place code srcStreamer false 0 ws) c

/-- Reads n bytes of an object at offset o (R252). -/
def engineRead (c : Cmd) (md : Mode) (oid o n rights step : Nat) (s : State) : ERes (List Byte) :=
  match loadAt s md oid o n false with
  | .ok bs s => .ok bs s
  | .bad code x tag s => .stop (engineBad s c false code oid x rights tag step)

/-- Writes bytes of an object at offset o (R252). -/
def engineWrite (c : Cmd) (md : Mode) (oid o : Nat) (bs : List Byte) (rights step : Nat) (s : State) : ERes Unit :=
  match storeAt s md oid o bs false with
  | .ok _ s => .ok () s
  | .bad code x tag s => .stop (engineBad s c true code oid x rights tag step)

/-! Phases of a command (R252). -/

namespace Cmd

/-- MODE. -/
def modeF (c : Cmd) : Nat := c.f0 32 8
/-- Word Pn of the parameter block. -/
def par (c : Cmd) (n : Nat) : W64 := c.params.getD n 0
/-- Field of Pn. -/
def pf (c : Cmd) (n lo len : Nat) : Nat := fieldNat (c.par n) lo len
/-- Words n to 7 of the parameter block are zero. -/
def parZero (c : Cmd) (n : Nat) : Bool := (List.range 8).all fun i => i < n || c.par i == 0
/-- Bits of Pn from lo up are zero. -/
def parTop (c : Cmd) (n lo : Nat) : Bool := (c.par n).toNat / 2 ^ lo == 0
/-- Source capability. -/
def src (c : Cmd) (s : State) : Cap := s.arg c.seq (c.f0 48 8)
/-- Destination capability. -/
def dst (c : Cmd) (s : State) : Cap := s.arg c.seq (c.f0 40 8)
/-- Object offset of the source range. -/
def srcAt (c : Cmd) (s : State) : Nat := (c.src s).cursor + c.f0 0 32
/-- Object offset of the destination range. -/
def dstAt (c : Cmd) (s : State) : Nat := (c.dst s).cursor + c.f1 32 32

end Cmd

/-- A capability range that a command touches, with the rights it needs and its alignment. -/
structure CapRange where
  cap : Cap
  lo : Nat
  size : Nat
  need : Nat
  align : Nat
  write : Bool

/-- Checks ranges in order (R158, R252); alignment is a matter of bounds, and a range of no bytes has none that lies outside. -/
def checkRanges (s : State) (c : Cmd) : List CapRange → ERes Unit
  | [] => .ok () s
  | x :: xs =>
    match capCheckAt x.cap x.need (if x.size == 0 then x.cap.base else x.lo) x.size x.align with
    | some code => .stop (engineRefused s c x.write code x.cap.oid (faultOfs x.cap code x.lo x.size) x.need)
    | none => checkRanges s c xs

/-- What a command does: its own parameter checks, the ranges it touches, its checks on memory, what they leave in the command
and the cycles they add, and its steps: whether a step is the last, the cycles to the next, and the command after it. -/
structure Streamed where
  ok : State → Region → Cmd → Bool
  ranges : State → Cmd → List CapRange
  check : State → Cmd → ERes Cmd
  extra : State → Cmd → Nat := fun _ _ => 0
  step : State → Cmd → ERes (Bool × Nat × Cmd)

/-- Notes that the command acted. -/
def engineActs (s : State) (c : Cmd) : State := s.updRegion c.die c.rblk (Region.act (s.now c.die))

/-- Reads the parameter block (R251). -/
def readParams (s : State) (c : Cmd) : ERes (List W64) :=
  let k := s.routeOf c.seq
  let o := k.cursor + 64 * c.f1 0 14
  (checkRanges s c [⟨k, o, 64, rConfig, 1, false⟩]).bind fun _ s =>
    (engineRead c (c.mode false false) k.oid o 64 rConfig noStep s).bind fun bs s =>
      .ok ((List.range 8).map fun i => BitVec.ofNat 64 (leNat ((bs.drop (8 * i)).take 8))) s

/-- Keeps a command as a phase leaves it, to act again n cycles from now. -/
def keepCmd (s : State) (c : Cmd) (n : Nat) : State :=
  engineActs (s.updCmd c.id fun _ => { c with due := s.now c.die + n }) c

/-- The turn of a streamer command: parameter block, range and command checks, then one step at a time (R252, R265). -/
def streamTurn (w : EngWords) (s : State) (x : Streamed) : Out :=
  engineTurn w s fun c =>
    if islandFrozen s c.die c.target c.isl c.rblk then s
    else if c.begun then
      match x.step s c with
      | .stop s => s
      | .ok (last, n, c') s =>
        let c' := { c' with item := c.item + 1 }
        if last then finishCmd (keepCmd s c' 0) c' else keepCmd s c' n
    else match s.region c.die c.rblk with
      | none => s
      | some r =>
        if c.params.isEmpty then
          match readParams s c with
          | .stop s => s
          | .ok ps s =>
            let c' := { c with params := ps }
            if x.ok s r c' then keepCmd s c' 1 else failCmd s c fcEngine 0 noStep
        else
          match (checkRanges s c (x.ranges s c)).bind fun _ s => x.check s c with
          | .stop s => s
          | .ok c' s => keepCmd s { c' with begun := true } (2 + x.extra s c')

/-- A command with no checks beyond its ranges. -/
def noCheck (s : State) (c : Cmd) : ERes Cmd := .ok c s

/-- A command whose MODE is none of its values: its block is read, then it faults (R104, R252). -/
def badMode : Streamed where
  ok _ _ _ := false
  ranges _ _ := []
  check := noCheck
  step s _ := .stop s

/-- Two ranges of one object overlap. -/
def overlaps (k : Cap) (a n : Nat) (k' : Cap) (b m : Nat) : Bool := k.oid == k'.oid && a < b + m && b < a + n

/-- Cycles of a step that moves n bytes (Table 16.7). -/
def byteCost (n : Nat) : Nat := max 1 ((n + 63) / 64)

/-! COPY (R254, R255). -/

/-- RESF. -/
def Cmd.resf (c : Cmd) : Bool := c.modeF % 2 == 1
/-- Future capability of a COPY. -/
def Cmd.futCap (c : Cmd) (s : State) : Cap := s.arg c.seq (c.pf 1 32 8)
/-- Object offset of the future word. -/
def Cmd.futAt (c : Cmd) (s : State) : Nat := (c.futCap s).cursor + c.pf 1 0 32

/-- Both ranges start 16-aligned: units keep their tags (R254). -/
def copyTags (s : State) (c : Cmd) : Bool := c.srcAt s % 16 == 0 && c.dstAt s % 16 == 0

/-- Tags of the units that a step reads, as it may write them: of whole units, under the share right (R159, R254). -/
def sourceTags (s : State) (c : Cmd) (o n : Nat) : List Bool :=
  let md := c.mode false true
  let share := (c.src s).rights &&& rShare == rShare
  (List.range ((n + 15) / 16)).map fun i =>
    share && 16 * i + 16 ≤ n && (spotOf s md (c.src s).oid (c.srcAt s + o + 16 * i) false).elim false (unitTag s md)

/-- Sets or clears the tags of the units that a step wrote (R254). -/
def copyUnits (s : State) (c : Cmd) (o : Nat) (tags : List Bool) : State :=
  let md := c.mode false true
  (List.range tags.length).foldl (fun s i =>
    match spotOf s md (c.dst s).oid (c.dstAt s + o + 16 * i) true with
    | none => s
    | some a => setUnitTag s md a (tags.getD i false)) s

/-- The resolution of a COPY's future, its last step (R196, R255): on another module the word changes there, and this die's launch unit
counts the records down (R287); both ways the command waits while the continuation buffer is full (R276). -/
def copyResolve (s : State) (c : Cmd) : State :=
  let md := c.mode false false
  let k := c.futCap s
  let o := c.futAt s
  let x := c.pf 2 0 40
  let need := rRead ||| rWrite ||| rAtomic
  let bad (s : State) (code at_ : Nat) : State := engineBad s c true code k.oid at_ need 0 c.item
  let done (s : State) : State := let c' := { c with item := c.item + 1 }; finishCmd (keepCmd s c' 0) c'
  match remoteOf s md k.oid o true with
  | some pa =>
    let s := needFar s pa 8
    (match farBefore s md k none (s.farWord pa) o bad with
     | some t => t
     | none =>
       let w : Want := .sync pa 8 13 4 (BitVec.ofNat 64 x) 0
       match s.answer w with
       | none => s.want w
       | some a =>
         let v := leNat a.bytes
         if 2 ≤ futState v then failCmd s c fcTwice 0 c.item
         else if futState v == 1 then done (addErrand s (.records c.die c.seq k.oid (futCursor v) (s.edgeOf c.seq)))
         else done s)
  | none =>
    match syncRead s md k.oid o 8 true with
    | (code, w, s) =>
      if code != 0 then bad s code o
      else if 2 ≤ futState w then failCmd s c fcTwice 0 c.item
      else futResolve s md k c.seq o w x false bad done

/-- COPY's parameters, ranges and steps. -/
def copyOp : Streamed where
  ok s _ c :=
    let n := (c.par 0).toNat
    c.parZero 3 && 1 ≤ n && n < 2 ^ 32 && c.parTop 1 40 && c.parTop 2 40 && (!c.resf || c.pf 2 0 40 % 16 == 0) &&
    !overlaps (c.src s) (c.srcAt s) n (c.dst s) (c.dstAt s) n
  ranges s c :=
    let n := (c.par 0).toNat
    [⟨c.src s, c.srcAt s, n, rRead, 1, false⟩, ⟨c.dst s, c.dstAt s, n, rWrite, 1, true⟩] ++
    (if c.resf then
      [⟨c.futCap s, c.futAt s, 8, rRead ||| rWrite ||| rAtomic, 8, true⟩, ⟨c.futCap s, c.pf 2 0 40, 16, 0, 1, false⟩]
     else [])
  check := noCheck
  step s c :=
    let len := (c.par 0).toNat
    let o := 64 * c.item
    if len ≤ o then .stop (copyResolve s c)
    else
      let n := min 64 (len - o)
      let keep := copyTags s c
      (engineRead c (c.mode false false) (c.src s).oid (c.srcAt s + o) n rRead c.item s).bind fun bs s =>
        let tags := sourceTags s c o n
        (engineWrite c (c.mode false keep) (c.dst s).oid (c.dstAt s + o) bs rWrite c.item s).bind fun _ s =>
          let s := if keep then copyUnits s c o tags else s
          .ok (len ≤ o + n && !c.resf, 1, c) s

/-- COPY (R254). -/
def execCopy (w : EngWords) (s : State) : Out := streamTurn w s copyOp

/-! CHAIN (R256). -/

/-- STYPE. -/
def Cmd.stype (c : Cmd) : Nat := c.pf 1 0 5
/-- DTYPE. -/
def Cmd.dtype (c : Cmd) : Nat := c.pf 1 8 5
/-- NOPS. -/
def Cmd.nops (c : Cmd) : Nat := c.pf 1 16 3 + 1
/-- Op word i. -/
def Cmd.opWord (c : Cmd) (i : Nat) : Nat := c.pf (2 + i / 4) (16 * (i % 4)) 16
/-- Constant i: an F32 pattern. -/
def Cmd.chainConst (c : Cmd) (i : Nat) : Nat := c.pf (4 + i / 2) (32 * (i % 2)) 32

/-- Operation op of an F32 pattern with constant k, as the cell form with RM 0 gives it (Table 16.5). -/
def chainOp (op v k : Nat) : Rounded :=
  let x := decodeF 9 v
  let y := decodeF 9 k
  match op with
  | 1 => faddOp 9 .rne x y
  | 2 => faddOp 9 .rne x (y.flipNum true)
  | 3 => fmulOp 9 .rne x y
  | 4 => fminmaxOp 9 .rne false x y
  | 5 => fminmaxOp 9 .rne true x y
  | 6 => ⟨v % 2 ^ 31, noFlag⟩
  | 7 => ⟨v ^^^ 2 ^ 31, noFlag⟩
  | 8 => approxOp .rcp 9 .rne x
  | 9 => approxOp .rsq 9 .rne x
  | 10 => approxOp .exp2 9 .rne x
  | _ => approxOp .log2 9 .rne x

/-- The operations of a chain on an F32 pattern, with the flags so far. -/
def chainOps (c : Cmd) : List Nat → Rounded → Rounded
  | [], r => r
  | i :: is, r =>
    let x := chainOp (c.opWord i / 2 ^ 12) r.bits (c.chainConst (c.opWord i / 2 ^ 9 % 8))
    chainOps c is ⟨x.bits, r.flags ||| x.flags⟩

/-- One element of a chain: the pattern of DTYPE and the flags (R256). -/
def chainElem (c : Cmd) (v : Nat) : Rounded :=
  let x : Rounded := if c.stype == 9 then ⟨v, noFlag⟩ else deliver 9 .rne (decodeF c.stype v)
  let y := chainOps c (List.range c.nops) x
  let z := deliver c.dtype (rmodeOf (c.modeF % 4)) (decodeF 9 y.bits)
  ⟨z.bits, y.flags ||| z.flags⟩

/-- Flags of a command go to st of its region (R71). -/
def engineFlags (s : State) (c : Cmd) (f : FlagBits) : State := s.updRegion c.die c.rblk fun r => orFlags r f

/-- CHAIN's parameters, ranges and steps. -/
def chainSteps : Streamed where
  ok s _ c :=
    let n := c.pf 0 0 32
    let a := n * tyBytes c.stype
    let b := n * tyBytes c.dtype
    let opOk (i : Nat) : Bool :=
      let o := c.opWord i
      if i < c.nops then 1 ≤ o / 2 ^ 12 && o / 2 ^ 12 ≤ 11 && o % 2 ^ 9 == 0 else o == 0
    c.parTop 0 32 && c.parTop 1 19 && c.pf 1 5 3 == 0 && c.pf 1 13 3 == 0 && tyFloat c.stype && tyFloat c.dtype &&
    (List.range 8).all opOk &&
    (!overlaps (c.src s) (c.srcAt s) a (c.dst s) (c.dstAt s) b ||
      (c.f0 0 32 == c.f1 32 32 && tyBytes c.stype == tyBytes c.dtype))
  ranges s c :=
    [⟨c.src s, c.srcAt s, c.pf 0 0 32 * tyBytes c.stype, rRead, 1, false⟩,
     ⟨c.dst s, c.dstAt s, c.pf 0 0 32 * tyBytes c.dtype, rWrite, 1, true⟩]
  check := noCheck
  step s c :=
    let n := c.pf 0 0 32
    let e := c.item
    if n ≤ e then .ok (true, 1, c) s
    else
      let a := tyBytes c.stype
      let b := tyBytes c.dtype
      (engineRead c (c.mode false false) (c.src s).oid (c.srcAt s + e * a) a rRead e s).bind fun bs s =>
        let r := chainElem c (leNat bs)
        (engineWrite c (c.mode false false) (c.dst s).oid (c.dstAt s + e * b) (natLe b r.bits) rWrite e s).bind fun _ s =>
          .ok (n ≤ e + 1, 1, c) (engineFlags s c r.flags)

/-- CHAIN (R256). -/
def execChain (w : EngWords) (s : State) : Out := streamTurn w s chainSteps

/-! STASH and RESTORE (R257-R260). -/

/-- W. -/
def Cmd.stW (c : Cmd) : Nat := c.modeF % 16
/-- Element type of the source: F32 or B16. -/
def Cmd.stTy (c : Cmd) : Nat := if c.modeF / 16 % 2 == 1 then 11 else 9
/-- The order ORD of a command's region. -/
def Cmd.stOrder (c : Cmd) (s : State) : OMap :=
  match s.region c.die c.rblk with | some r => (r.order (c.pf 0 0 8)).getD [] | none => []
/-- Elements of the tensor. -/
def tensorSize (m : OMap) : Nat := prodNat ((List.range 4).map m.extentOf)
/-- Blocks of a tensor. -/
def stashBlocks (m : OMap) : Nat := (tensorSize m + 31) / 32
/-- Bytes of a block. -/
def Cmd.blockBytes (c : Cmd) : Nat := 4 + 4 * c.stW
/-- Record capability. -/
def Cmd.recCap (c : Cmd) (s : State) : Cap := s.arg c.seq (c.pf 1 32 8)
/-- Object offset of the stash record. -/
def Cmd.recAt (c : Cmd) (s : State) : Nat := (c.recCap s).cursor + c.pf 1 0 32

/-- Parameters of STASH and RESTORE; the last is the offset of the region, which must be 0 (R257, R258). -/
def stashOk (r : Region) (c : Cmd) (regionOfs : Nat) : Bool :=
  c.parZero 2 && c.parTop 0 8 && c.parTop 1 40 && (c.stTy == 9 || c.stW != 15) && regionOfs == 0 &&
  (match r.order (c.pf 0 0 8) with
   | none => false
   | some m => !m.anyRag && (m.lanes == 1 || m.cycles % 32 == 0) && tensorSize m ≤ 2 ^ 32)

/-- Bytes of the region of a capability: from its cursor up to its top (R258). -/
def regionBytes (k : Cap) : Nat := k.top - k.cursor

/-- The region's length must be that of the blocks (R258). -/
def stashSize (s : State) (c : Cmd) (k : Cap) : ERes Unit :=
  if regionBytes k == stashBlocks (c.stOrder s) * c.blockBytes then .ok () s
  else .stop (failCmd s c fcStash (regionBytes k) noStep)

/-- Dense element index of element e of the stream order (R257). -/
def denseIndex (m : OMap) (e : Nat) : Nat :=
  let x := m.coords (e / m.cycles) (e % m.cycles)
  ((x.getD 0 0 * m.extentOf 1 + x.getD 1 0) * m.extentOf 2 + x.getD 2 0) * m.extentOf 3 + x.getD 3 0

/-- RNE(x / 2^k) of a finite value, as an integer. -/
def quotRne (neg : Bool) (m : Nat) (e k : Int) : Int := signedM neg (roundUnits .rne neg m e k).1

/-- A value is in range: finite and of magnitude below 2^127 (R85). -/
def stashIn (v : FVal) : Bool := match v with | .fin _ m e => magLt m e 1 127 | _ => false

/-- An in-range value fits a code of width w at step 2^k (R85). -/
def stashFits (w : Nat) (k : Int) (v : FVal) : Bool :=
  match v with
  | .fin n m e =>
    let q := quotRne n m e k
    decide (-((2 ^ (w - 1) : Nat) : Int) ≤ q) && decide (q ≤ ((2 ^ (w - 1) : Nat) : Int) - 1)
  | _ => true

/-- XE of a block (R85). -/
def stashXE (w : Nat) (xs : List FVal) : Nat :=
  ((List.range 256).find? fun x => xs.all fun v => !stashIn v || stashFits w (stashStep x 0 w) v).getD 255

/-- D of a sub-block (R85). -/
def stashD (w xe : Nat) (minstep : Int) (xs : List FVal) : Nat :=
  (((List.range 8).reverse).find? fun d =>
    decide (minstep ≤ stashStep xe d w) && xs.all fun v => !stashIn v || stashFits w (stashStep xe d w) v).getD 0

/-- Code of an element, and whether it raises NV (R85). -/
def stashCodeOf (w : Nat) (k : Int) (v : FVal) : Int × Bool :=
  let q : Int := (2 ^ (w - 1) : Nat)
  match v with
  | .nan .. => (0, true)
  | .inf n => (if n then -(q - 1) else q - 1, true)
  | .fin n m e => if stashIn v then (quotRne n m e k, false) else (if n then -(q - 1) else q - 1, true)

/-- The bytes of a block of 32 values, and whether NV is raised (R84, R85). -/
def stashEncode (w ty : Nat) (xs : List FVal) : List Byte × Bool :=
  let xe := stashXE w xs
  let minstep : Int := if ty == 9 then -149 else -133
  let ds := (List.range 4).map fun b => stashD w xe minstep ((xs.drop (8 * b)).take 8)
  let cs := (List.range 32).map fun i =>
    stashCodeOf w (stashStep xe (ds.getD (i / 8) 0) w) (xs.getD i (.fin false 0 0))
  let head := xe + ds.getD 0 0 * 2 ^ 8 + ds.getD 1 0 * 2 ^ 11 + ds.getD 2 0 * 2 ^ 14 + ds.getD 3 0 * 2 ^ 17 + w * 2 ^ 20
  let codes := cs.foldr (fun (x : Int × Bool) (acc : Nat) => (x.1 % (2 ^ w : Nat)).toNat + acc * 2 ^ w) 0
  (natLe (4 + 4 * w) (head + codes * 2 ^ 32), cs.any (·.2))

/-- Reads elements of the dense range, in the order of a list of element indexes. -/
def readElems (c : Cmd) (s : State) (k : Cap) (base z : Nat) : List Nat → ERes (List Nat)
  | [] => .ok [] s
  | e :: es =>
    (engineRead c (c.mode false false) k.oid (base + e * z) z rRead c.item s).bind fun bs s =>
      (readElems c s k base z es).bind fun vs s => .ok (leNat bs :: vs) s

/-- Writes elements of the dense range. -/
def writeElems (c : Cmd) (s : State) (k : Cap) (base z : Nat) : List (Nat × Nat) → ERes Unit
  | [] => .ok () s
  | (e, v) :: es =>
    (engineWrite c (c.mode false false) k.oid (base + e * z) (natLe z v) rWrite c.item s).bind fun _ s =>
      writeElems c s k base z es

/-- Stream positions of block b that lie below N. -/
def blockElems (m : OMap) (b : Nat) : List Nat := (List.range 32).map (· + 32 * b) |>.filter (· < tensorSize m)

/-- The stash record (Table 16.6). -/
def stashRecord (c : Cmd) (m : OMap) : Nat :=
  leNat (m.canon.toEntry.flatMap fun w => natLe 4 w.toNat) + (boolNat (c.stTy == 11)) * 2 ^ 232 + c.stW * 2 ^ 233

/-- STASH's parameters, ranges, checks and steps. -/
def stashSteps : Streamed where
  ok _ r c := stashOk r c (c.f1 32 32)
  ranges s c :=
    let k := c.dst s
    [⟨c.src s, c.srcAt s, tensorSize (c.stOrder s) * tyBytes c.stTy, rRead, 1, false⟩,
     ⟨k, k.cursor, regionBytes k, rStash ||| rWrite, 1, true⟩, ⟨c.recCap s, c.recAt s, 32, rWrite, 16, true⟩]
  check s c := (stashSize s c (c.dst s)).bind fun _ s => .ok c s
  extra _ c := byteCost (32 * tyBytes c.stTy) - 1
  step s c :=
    let m := c.stOrder s
    let b := c.item
    if stashBlocks m ≤ b then
      (engineWrite c (c.mode false false) (c.recCap s).oid (c.recAt s) (natLe 32 (stashRecord c m)) rWrite b s).bind fun _ s =>
        .ok (true, 1, c) s
    else
      let z := tyBytes c.stTy
      (readElems c s (c.src s) (c.srcAt s) z ((blockElems m b).map (denseIndex m))).bind fun vs s =>
        let r := stashEncode c.stW c.stTy (vs.map (decodeF c.stTy))
        let k := c.dst s
        (engineWrite c (c.mode true false) k.oid (k.cursor + c.blockBytes * b) r.1 (rStash ||| rWrite) b s).bind fun _ s =>
          .ok (false, byteCost (32 * z), c) (engineFlags s c (if r.2 then flagNV else noFlag))

/-- STASH (R259). -/
def execStash (w : EngWords) (s : State) : Out := streamTurn w s stashSteps

/-- The headers of n blocks from block b on (R260). -/
def restoreHeads (c : Cmd) (s : State) (k : Cap) (b : Nat) : Nat → ERes (List Nat)
  | 0 => .ok [] s
  | n + 1 =>
    (engineRead c (c.mode true false) k.oid (k.cursor + c.blockBytes * b) 4 (rStash ||| rRead) noStep s).bind fun bs s =>
      (restoreHeads c s k (b + 1) n).bind fun l s => .ok (leNat bs :: l) s

/-- RESTORE reads the record and every block header, and then checks: the record's ORDER, its W and SRC, every header (R260). -/
def restoreCheck (s : State) (c : Cmd) : ERes Cmd :=
  let m := c.stOrder s
  (stashSize s c (c.src s)).bind fun _ s =>
    (engineRead c (c.mode false false) (c.recCap s).oid (c.recAt s) 32 rRead noStep s).bind fun bs s =>
      (restoreHeads c s (c.src s) 0 (stashBlocks m)).bind fun heads s =>
        let v := leNat bs
        if v % 2 ^ 224 != stashRecord c m % 2 ^ 224 then .stop (failCmd s c fcOrder 0 noStep)
        else if v / 2 ^ 232 % 32 != stashRecord c m / 2 ^ 232 % 32 || heads.any (stashBad · c.stW) then
          .stop (failCmd s c fcEngine 0 noStep)
        else .ok c s

/-- RESTORE's parameters, ranges, checks and steps. -/
def restoreSteps : Streamed where
  ok _ r c := stashOk r c (c.f0 0 32)
  ranges s c :=
    let k := c.src s
    [⟨c.dst s, c.dstAt s, tensorSize (c.stOrder s) * tyBytes c.stTy, rWrite, 1, true⟩,
     ⟨k, k.cursor, regionBytes k, rStash ||| rRead, 1, false⟩, ⟨c.recCap s, c.recAt s, 32, rRead, 16, false⟩]
  check := restoreCheck
  extra s c := (tensorSize (c.stOrder s) + 511) / 512 + byteCost (32 * tyBytes c.stTy) - 1
  step s c :=
    let m := c.stOrder s
    let b := c.item
    let k := c.src s
    if stashBlocks m ≤ b then .ok (true, 1, c) s
    else
      (engineRead c (c.mode true false) k.oid (k.cursor + c.blockBytes * b) c.blockBytes (rStash ||| rRead) b s).bind fun bs s =>
        let z := tyBytes c.stTy
        let es := (blockElems m b).map fun e => (denseIndex m e, stashDecode (leNat bs) c.stW (e % 32) c.stTy)
        (writeElems c s (c.dst s) (c.dstAt s) z es).bind fun _ s => .ok (stashBlocks m ≤ b + 1, byteCost (32 * z), c) s

/-- RESTORE (R260). -/
def execRestore (w : EngWords) (s : State) : Out := streamTurn w s restoreSteps

end Sys2Proof.Machine
end

