-- ==== Sys2Proof/Machine/Faults.lean ====
section
/-! DEFINITION. System software's part in faults: FQPOP and MCTL (R294-R296), page-fault windows (R298), pre-emption and
snapshots (R302-R306), lasting and transient errors (R248, R267, R309). -/

namespace Sys2Proof.Machine

/-! FQPOP (R294, R295). -/

/-- A run of n bytes at a physical address is memory of this module. -/
def physBacked (s : State) (a n : Nat) : Bool :=
  s.isLocal a && localBacked s.module (paLocal a) && localBacked s.module (paLocal a + n - 1)

/-- The writes of a step go out for its actor; a request that waits for them is performed once none is unacknowledged (R227). -/
def sendFor (s : State) : State :=
  let s := s.flush s.focus
  if s.focus.port == (reqFocus 0).port && !s.asking s.focus then
    s.updReq s.focus.id fun x => if x.stage == .remote then { x with stage := .performed } else x
  else s

/-- FQPOP: the oldest record goes to the address, which is 64-aligned, on this module or another; otherwise nothing happens (Table
22.5). -/
def execFqpop (v : BitVec 64) (s : State) : Out :=
  let d := s.focus.die
  let a := v.toNat
  match (s.die d).faults.recs with
  | [] => .next (sendFor s)
  | x :: _ =>
    .next (sendFor (if a % 64 != 0 || 2 ^ 56 ≤ a || !s.isBacked a then s
      else pokePhys (popFault s d) a (natLe 64 x.toNat) 0))

/-! MCTL (R296). -/

/-- Task that MCTL names. -/
def mctlSeq (v : W64) : Nat := fieldNat v 16 24
/-- MKIND. -/
def mctlKind (v : W64) : Nat := fieldNat v 14 2
/-- MINDEX. -/
def mctlIndex (v : W64) : Nat := fieldNat v 0 14
/-- Its reserved bits are zero. -/
def mctlClean (v : W64) : Bool := fieldNat v 48 14 == 0

/-- The frozen region that MCTL names. -/
def mctlRegion (s : State) (d : Nat) (v : W64) : Option Region :=
  match s.region d (mctlIndex v) with
  | some r => if r.seq == mctlSeq v && r.frozen != .no then some r else none
  | none => none

/-- Frozen island ports that MCTL names. -/
def mctlPorts (s : State) (d : Nat) (v : W64) (i : IPort) : Bool :=
  i.die == d && i.target == mctlKind v + 1 && i.isl == mctlIndex v && i.frozen &&
  (match s.region d i.rblk with | some r => r.seq == mctlSeq v | none => false)

/-- A page fault of the region is recorded and its window has not opened (R300). -/
def faultWaits (s : State) (r : Region) : Bool :=
  r.ctl == .fault || r.cells.any (fun c => c.2.rt.faultReq.isSome) ||
  s.cmds.any fun c => c.die == r.die && c.rblk == r.rblk && c.target == 3 && c.stage == .parked

/-- A frozen region resumes: refused requests are made afresh, and a page fault recorded meanwhile opens its window (R296,
R300). -/
def releaseRegion (s : State) (r : Region) : State :=
  let t := s.now r.die
  let s := s.updRegion r.die r.rblk fun r => { r with frozen := .no, brkDue := none, lastAct := t }
  let s := { s with reqs := s.reqs.map fun q =>
    if q.die == r.die && q.rblk == r.rblk && q.stage == .faulted then { q with stage := .queued } else q }
  if faultWaits s r then openWindow s r.seq t else s

/-- Released ports discard a command whose range check froze them; one whose step did goes on with that step, its checks made afresh (R253,
R296). -/
def releasePorts (s : State) (d : Nat) (v : W64) : State :=
  let hit (b : Nat) : Bool := s.iports.any fun i => mctlPorts s d v i && i.rblk == b
  { s with cmds := s.cmds.filter fun c =>
             !(c.die == d && c.target == mctlKind v + 1 && c.isl == mctlIndex v && hit c.rblk && c.stage == .draining),
           iports := s.iports.map fun i => if mctlPorts s d v i then { i with frozen := false } else i }

/-- MCTL release (R296). -/
def execMctlRelease (v : BitVec 64) (s : State) : Out :=
  let d := s.focus.die
  if !mctlClean v then .next s
  else match mctlKind v with
    | 0 => match mctlRegion s d v with
      | some r => .next (releaseRegion s r)
      | none => .next s
    | 3 => .next (s.updMod fun m => { m with hostFrozen := false })
    | _ => .next (releasePorts s d v)

/-- An input is a request of the host port. -/
def isHostReq (e : Event) : Bool :=
  match e with
  | .run _ (.hostBar0Access ..) => true
  | .run _ (.hostHdmAccess ..) => true
  | _ => false

/-- An input is a read of the host port. -/
def isHostRead (e : Event) : Bool :=
  match e with
  | .run _ (.hostBar0Access w _ _ _) => !w
  | .run _ (.hostHdmAccess w _ _ _) => !w
  | _ => false

/-- The host port discards what it holds, answering each read, and resumes (R296). -/
def killHost (s : State) : State :=
  { s with inputs := s.inputs.filter fun e => !isHostReq e,
           replies := s.replies ++ (s.inputs.filter isHostRead).map fun _ => .unsupported,
           module := { s.module with hostFrozen := false } }

/-- MCTL kill: the task ends as failed with FCODE, or the host port discards its requests (R296). -/
def execMctlKill (v : BitVec 64) (s : State) : Out :=
  let d := s.focus.die
  let kill (s : State) : State := endTask (endPre s (mctlSeq v) 0) (mctlSeq v) 0 true (fieldNat v 40 8)
  if !mctlClean v then .next s
  else match mctlKind v with
    | 0 => .next (if (mctlRegion s d v).isSome then kill s else s)
    | 3 => .next (if s.module.hostFrozen then killHost s else s)
    | _ => .next (if s.iports.any (mctlPorts s d v) then kill s else s)

/-- MCTL resume: a task on the residency wait list goes back to its queue (R296, R299). -/
def execMctlResume (v : BitVec 64) (s : State) : Out :=
  if !mctlClean v then .next s
  else match s.task (mctlSeq v) with
    | some t => .next (if t.die == s.focus.die && t.state == .waiting then requeueTask s t.seq else s)
    | none => .next s

/-! Page-fault windows (R298). -/

/-- Some cell of the task fired in this cycle. -/
def firedNow (s : State) (q t : Nat) : Bool :=
  (s.regionsOf q).any fun r => r.cells.any fun c => c.2.rt.fired == t + 1

/-- PAGE_FAULT_WINDOW_CLOSE: a cycle has passed in which no cell of the task fired, or 4,096 cycles (R298). -/
def execPageFaultWindowClose (s : State) : Out :=
  match s.task s.focus.id with
  | none => .fault .noActor
  | some t =>
    match t.state with
    | .window opened =>
      let now := s.now t.die
      if opened + 4096 ≤ now || (opened < now && !firedNow s t.seq now) then .next (abortToWait s t.seq) else .next s
    | _ => .next s

/-! Pre-emption (R302-R308). -/

/-- Some master of the task is frozen (R302). -/
def frozenMaster (s : State) (q : Nat) : Bool :=
  (s.regionsOf q).any fun r => r.frozen != .no ||
    s.iports.any fun i => i.die == r.die && i.rblk == r.rblk && i.frozen

/-- A PRE write on die d that acts: reserved bits zero and no request in progress. -/
def preOpen (s : State) (d : Nat) (v : W64) : Bool := fieldNat v 26 6 == 0 && (s.die d).faults.preState != 1

/-- The task that a PRE write may pre-empt, also while its YIELD saves it (R217, R302). -/
def preTask (s : State) (d : Nat) (v : W64) : Option Task :=
  match s.task (fieldNat v 0 24) with
  | some t => if t.die == d && t.state == .bound && !frozenMaster s t.seq then some t else none
  | none => none

/-- PRE takes a request with a STATE. -/
def setPre (s : State) (d : Nat) (v : W64) (st : Nat) : State :=
  s.updDie d fun x => { x with faults := { x.faults with
    preMode := v.extractLsb' 62 2, preDeadline := v.extractLsb' 32 30, preSeq := v.extractLsb' 0 24,
    preState := BitVec.ofNat 2 st } }

/-- A PRE write: f is what the mode does to the task named. -/
def preWrite (v : W64) (s : State) (st : Nat) (f : State → Task → State) : Out :=
  let d := s.focus.die
  if !preOpen s d v then .next s
  else match preTask s d v with
    | none => .next (s.updDie d fun x => { x with faults := { x.faults with preState := 0 } })
    | some t => .next (f (setPre s d v st) t)

/-- PRE_ABORT (R303). -/
def execPreAbort (v : BitVec 64) (s : State) : Out := preWrite v s 2 fun s t => abortRequeue s t.seq

/-- PRE_DRAIN (R304). -/
def execPreDrain (v : BitVec 64) (s : State) : Out :=
  preWrite v s 1 fun s t =>
    let n := fieldNat v 32 30
    s.updTask t.seq fun x => { x with pre := .drain (if n == 0 then none else some (s.now t.die + n)) }

/-- PRE_FREEZE (R305). -/
def execPreFreeze (v : BitVec 64) (s : State) : Out :=
  preWrite v s 1 fun s t => s.updTask t.seq fun x => { x with pre := .freeze }

/-- A pre-emption escalates to ABORT (R303-R305). -/
def escalate (s : State) (q : Nat) : State := abortRequeue (endPre s q 3) q

/-- Every region of the task has stopped. -/
def allHeld (s : State) (q : Nat) : Bool := (s.regionsOf q).all (·.held)

/-- DRAIN_DEADLINE (R304). -/
def execDrainDeadline (s : State) : Out :=
  match s.task s.focus.id with
  | none => .fault .noActor
  | some t =>
    match t.pre with
    | .drain (some dl) => if dl ≤ s.now t.die && !allHeld s t.seq then .next (escalate s t.seq) else .next s
    | _ => .next s

/-! The snapshot (R305, R306). -/

/-- The controller is at an instruction boundary (R305). -/
def atBoundary (r : Region) : Bool :=
  match r.ctl with | .cfg => false | .join .. => false | .fault => false | _ => true

/-- A command lets a snapshot be taken (R247, R266): no streamer command is in progress, no claim or merge runs, no
multiplication is within a step, no load commits. -/
def cmdStill (c : Cmd) : Bool :=
  if c.target == 3 then c.stage == .complete
  else match c.stage with
    | .commit => false
    | .running => c.isLoad || c.eop == 0x16
    | _ => true

/-- Everything that FREEZE waits for has come to rest (R305). -/
def frozenStill (s : State) (q : Nat) : Bool :=
  (s.regionsOf q).all fun r =>
    atBoundary r && r.frozen == .no &&
    s.reqs.all (fun x => !(x.die == r.die && x.rblk == r.rblk)) &&
    s.asks.all (fun a => !(a.who.die == r.die && a.who.rblk == r.rblk && (a.who.port == 0 || a.who.port == cellPort))) &&
    s.cmds.all fun c => !(c.die == r.die && c.rblk == r.rblk) || cmdStill c

/-- The header of region n's save area, as the launch unit reads it. -/
def saveHeader (s : State) (t : Task) (n : Nat) : Option Nat × State :=
  match loadAt s (launchMode t.die) t.save.oid (t.save.cursor + n * t.saveSize) 64 false with
  | .ok bs s => (some (leNat bs), s)
  | .bad code x _ s => (none, if code == fcLasting then launchLost s t.die t.seq t.save.oid x else s)

/-- The headers of the first n save areas. -/
def saveHeaders (s : State) (t : Task) : Nat → List (Option Nat) × State
  | 0 => ([], s)
  | n + 1 =>
    let (hs, s) := saveHeaders s t n
    let (h, s) := saveHeader s t n
    (hs ++ [h], s)

/-- Entry j of a header (Table 22.7). -/
def liveEntry (h j : Nat) : Nat := h / 2 ^ (32 * j) % 2 ^ 32

/-- A header whose reserved bits are zero and whose islands exist (R306). -/
def headerClean (h : Nat) : Bool :=
  h / 2 ^ 285 == 0 && (List.range 8).all fun j => liveEntry h j / 2 ^ 23 == 0 && liveEntry h j / 2 ^ 16 % 64 ≤ 47

/-- The tiles that region 0's header declares live and the task holds (R306). -/
def liveTiles (s : State) (t : Task) (h : Nat) : List (Nat × Nat) :=
  ((List.range 8).flatMap fun j =>
    let e := liveEntry h j
    if e / 2 ^ 22 % 2 == 0 then []
    else ((List.range 16).filter fun k => e.testBit k).map fun k => (e / 2 ^ 16 % 64, k)).dedup.filter fun p =>
      (lookD ((lookD (s.die t.die).matrix p.1 .empty).tiles) p.2 .empty).owner == t.seq

/-- Slots that a task holds. -/
def heldSlots (x : Die) (q : Nat) : List (Nat × Nat × Slot) :=
  x.matrix.flatMap fun m => (m.2.slots.filter fun p => p.2.owner == q).map fun p => (m.1, p.1, p.2)

/-- Tiles that a task holds; one not declared live is unset and zero (R247). -/
def heldTiles (x : Die) (q : Nat) (live : List (Nat × Nat)) : List (Nat × Nat × Tile) :=
  x.matrix.flatMap fun m => (m.2.tiles.filter fun p => p.2.owner == q).map fun p =>
    (m.1, p.1, if live.contains (m.1, p.1) then p.2 else { p.2 with anchor := none, ents := [] })

/-- Bytes that region r's save area must hold (R306). -/
def saveNeed (r : Region) (slots tiles : Nat) : Nat :=
  64 + 3174400 * (r.width * r.height) + 64 * r.farGranules + (if r.num == 0 then 8960 * slots + 73792 * tiles else 0)

/-- A cell as a snapshot keeps it: KEEP segments alone, no line buffer (Table 22.6). A scout's state is discarded: it acts no more in
the pitch, and what is sent to it goes nowhere (R35). -/
def freezeCellState (c : Cell) : Cell :=
  if c.cfg.scout then { c with rt := { CellRt.reset with lost := true } }
  else { c with rt := { c.rt with
    lmem := keptBytes c.cfg c.rt, full := c.rt.full.filter fun w => c.cfg.keep.getLsbD (w / 512), lines := [] } }

/-- What a task's snapshot holds (R305, R306); a codebook write of the cycle stands in it (R65). -/
def makeSnapshot (s : State) (t : Task) (live : List (Nat × Nat)) : Snapshot :=
  let rs := s.regionsOf t.seq
  let x := (s.die t.die).applyBooks
  let mine (b : Nat) : Bool := rs.any (·.rblk == b)
  { regions := rs.map fun r => { r with cells := r.cells.map fun c => (c.1, freezeCellState c.2) },
    cmds := s.cmds.filter fun c => c.die == t.die && mine c.rblk,
    iports := s.iports.filter fun i => i.die == t.die && mine i.rblk,
    slots := heldSlots x t.seq,
    tiles := heldTiles x t.seq live,
    books := (List.range rs.length).flatMap fun n =>
      match rs[n]? with
      | none => []
      | some r => x.books.filterMap fun e =>
          match r.blocks.findIdx? (· == e.1.1) with
          | some b => some ((n, b, e.1.2.1, e.1.2.2), e.2)
          | none => none }

/-- The bytes of a save area behind its header, which the manual does not lay out (R306). -/
def writeSaveBytes (s : State) (t : Task) (r : Region) (n : Nat) : State :=
  launchWrite s t.die t.seq t.save.oid (t.save.cursor + r.num * t.saveSize + 64)
    ((List.range (n - 64)).map fun i => Config.savedByte s.module.nextFree i)

/-- A task is saved and goes back to its queue, halted regions remembered (R305). -/
def saveTask (s : State) (t : Task) (live : List (Nat × Nat)) : State :=
  let rs := s.regionsOf t.seq
  let sn := makeSnapshot s t live
  let s := rs.foldl (fun s r => writeSaveBytes s t r (saveNeed r sn.slots.length live.length)) s
  let s := s.updMod fun m => { m with nextFree := m.nextFree + 1 }
  let s := writeHeaders s t true (rs.map (·.num))
  let s := rs.foldl invalidateL1 s
  let s := endPre (requeueTask (abortTask s t.seq) t.seq) t.seq 2
  s.updTask t.seq fun x => { x with snap := some sn, halted := t.halted }

/-- The last step of a FREEZE: the snapshot, or ABORT where the headers or the area forbid it (R305, R306). An area on another module is
read over the links (R315). -/
def finishFreeze (s : State) (t : Task) : State :=
  let rs := s.regionsOf t.seq
  let (hs, s) := saveHeaders s t (pkRegions t.packet)
  if !s.wants.isEmpty then s
  else if !t.packet.getLsbD 52 || hs.any (fun h => match h with | some h => !headerClean h | none => true) then escalate s t.seq
  else
    let live := liveTiles s t ((hs.getD 0 none).getD 0)
    let slots := (heldSlots (s.die t.die) t.seq).length
    if rs.any fun r => t.saveSize < saveNeed r slots live.length then escalate s t.seq else saveTask s t live

/-- Scouts' requests are dropped and the regions stop (R305). -/
def holdRegions (s : State) (q : Nat) : State :=
  { s with regions := s.regions.map fun r => if r.seq == q then { r with held := true } else r,
           reqs := s.reqs.filter fun x => !(x.scout && (s.regionsOf q).any fun r => x.die == r.die && x.rblk == r.rblk) }

/-- pc of region 0 (R304). -/
def regionZeroPc (s : State) (q : Nat) : Nat := match (s.regionsOf q).find? (·.num == 0) with | some r => r.pc | none => 0

/-- The progress of a pre-emption (R304, R305, R308). -/
def preProgress (s : State) (q : Nat) : State :=
  match s.task q with
  | none => s
  | some t =>
    match t.pre with
    | .no => s
    | .drain _ =>
      if !allHeld s q || frozenMaster s q then s
      else if t.packet.getLsbD 52 then (if frozenStill s q then finishFreeze s t else s)
      else endTask s q (BitVec.ofNat 64 (regionZeroPc s q)) true 0
    | .freeze =>
      let s := holdRegions s q
      if frozenMaster s q || !frozenStill s q then s else finishFreeze s t

/-! Errors (R248, R267, R309). -/

/-- A transient error counts, saturating (R309). -/
def transientError (s : State) (d : Nat) : State :=
  s.updDie d fun x => { x with faults := { x.faults with
    cecnt := if x.faults.cecnt = BitVec.allOnes 32 then x.faults.cecnt else x.faults.cecnt + 1 } }

/-- A task meets a lasting error: a pre-emption ends, the task is aborted and requeued (R308, R309). -/
def abortForError (s : State) (q : Nat) : State :=
  match s.task q with
  | some t =>
    (match t.state with
     | .bound => escalate s q
     | .window _ => escalate s q
     | _ => s)
  | none => s

/-- Tasks that use an island: they hold claims on it, or have commands or tokens there. -/
def islandTasks (s : State) (d target isl : Nat) : List Nat :=
  let x := lookD (s.die d).matrix isl .empty
  ((if target == 2 then x.slots.map (·.2.owner) ++ x.tiles.map (·.2.owner) else []) ++
   (s.cmds.filter fun c => c.die == d && c.target == target && c.isl == isl).map (·.seq) ++
   (s.iports.filter fun i => i.die == d && i.target == target && i.isl == isl).filterMap fun i =>
     (s.region d i.rblk).map (·.seq)).dedup.filter (· != 0)

/-- The lowest die on which an island number is in service. -/
def dieWithIsland (s : State) (target isl : Nat) : Option Nat :=
  (List.range Config.dieCount).find? fun d => !(s.die d).badIslands.contains (target, isl)

/-- The island is retired on its die; its tasks are aborted and placed on a die where its number is in service, by whose counter their
waiting counts from then on (R2, R248, R267). -/
def retireIsland (s : State) (d target isl : Nat) : State :=
  let qs := islandTasks s d target isl
  let s := s.updDie d fun x => { x with badIslands := x.badIslands ++ [(target, isl)] }
  qs.foldl (fun s q =>
    let s := abortForError s q
    match dieWithIsland s target isl with
    | some e => s.updTask q fun t => if t.state == .queued then { t with die := e, queuedAt := s.now e } else t
    | none => s) s

/-- The record of an error outside an access (Table 22.4). -/
def postLasting (s : State) (p : Where) (src part unit index : Nat) : State :=
  post s p fcLasting src false 0 [part, unit, index, 0, 0, 0]

/-- Cell number that a block's site map places on a site; a site past the 62nd working one is a spare (R36). -/
def Die.cellOn (x : Die) (blk site : Nat) : Option Nat :=
  let n := site - (x.sites.filter fun p => p.1 == blk && p.2 < site).dedup.length
  if x.sites.contains (blk, site) || 62 ≤ n then none else some n

/-- A cell site is marked defective; a third makes its block unusable; the task whose region has a cell on it is aborted (R36, R309). -/
def retireSite (s : State) (d blk site : Nat) : State :=
  let n := (s.die d).cellOn blk site
  let r := if n.isNone then none else s.regions.find? fun r => r.die == d && r.blocks.contains blk
  let s := match r with
    | some r => postLasting s r.place srcCell (62 * ((r.blocks.findIdx? (· == blk)).getD 0) + n.getD 0) 5 site
    | none => postLasting s (Where.die' d) srcCell 0 5 site
  let s := s.updDie d fun x =>
    let sites := if x.sites.contains (blk, site) then x.sites else x.sites ++ [(blk, site)]
    let bad := 2 < (sites.filter (·.1 == blk)).length
    { x with sites := sites, badBlocks := if bad && !x.badBlocks.contains blk then x.badBlocks ++ [blk] else x.badBlocks }
  match r with
  | some r => abortForError s r.seq
  | none => s

/-- An access's retry has failed: the record, the page's retirement, the abort of the task (R3, R309). -/
def accessLost (s : State) (d b q src oid o : Nat) (ws : List Nat) : State :=
  let here := match s.region d b with | some r => r.seq == q | none => false
  let s := post s ⟨d, if here then b else 0, q, !here⟩ fcLasting src false 0 ws
  abortForError (retirePage s d oid o) q

/-- A lasting error in a unit of Table 22.4; unit 6 is the buffer of a die-to-die port, which goes out of service (R312); unit 7 is memory: the reads of a granule of this module fail from now on (R309). -/
def lastingError (s : State) (d unit part index : Nat) : State :=
  if unit ≤ 3 then
    let p := match (islandTasks s d 2 part).head? with | some q => ⟨d, 0, q, true⟩ | none => Where.die' d
    retireIsland (postLasting s p srcMatrix part unit index) d 2 part
  else if unit == 4 then
    let p := match (islandTasks s d 3 part).head? with | some q => ⟨d, 0, q, true⟩ | none => Where.die' d
    retireIsland (postLasting s p srcStreamer part unit index) d 3 part
  else if unit == 5 then retireSite s d part index
  else if unit == 6 then
    (postLasting s (Where.die' d) srcLink part unit index).updDie d fun x => { x with dieLinksOut := (x.dieLinksOut ++ [part]).dedup }
  else if unit == 7 then { s with bad := if s.bad.contains index then s.bad else s.bad ++ [index] }
  else s

end Sys2Proof.Machine
end

