-- ==== Sys2Proof/Machine/Float.lean ====
section
/-! DEFINITION. The floating-point forms (R117-R120, Table 9.4). -/

namespace Sys2Proof.Machine

/-- A floating-point form on n operands: exact values, one rounding to TYPE by RM (R68, R117). -/
def floatForm (s : State) (m : Mods) (n : Nat) (f : RMode → List FVal → Rounded) : Out :=
  cellTurn s m fun cx =>
    elemTurn cx (List.range n) (fun _ => hdrFloat) (plainHdr m.tyNat) fun os =>
      let r := f (rmodeOf m.rmNat) (os.map (cx.fArg m.tyNat))
      .value (BitVec.ofNat 64 r.bits) r.flags

/-- Operand i of a floating-point form. -/
def fAt (vs : List FVal) (i : Nat) : FVal := vs.getD i (.fin false 0 0)

/-- FADD (Table 9.4). -/
def execFadd (m : Mods) (s : State) : Out :=
  floatForm s m 2 fun mode vs => faddOp m.tyNat mode (fAt vs 0) (fAt vs 1)

/-- FSUB: the second operand's sign changes unless it is a NaN (Table 9.4). -/
def execFsub (m : Mods) (s : State) : Out :=
  floatForm s m 2 fun mode vs => faddOp m.tyNat mode (fAt vs 0) ((fAt vs 1).flipNum true)

/-- FMUL (Table 9.4). -/
def execFmul (m : Mods) (s : State) : Out :=
  floatForm s m 2 fun mode vs => fmulOp m.tyNat mode (fAt vs 0) (fAt vs 1)

/-- FMA with NP and NC (Table 9.4, R117). -/
def execFma (m : Mods) (s : State) : Out :=
  floatForm s m 3 fun mode vs =>
    fmaOp m.tyNat mode (m.modF 0 1 == 1) (m.modF 1 1 == 1) (fAt vs 0) (fAt vs 1) (fAt vs 2)

/-- FMIN (R117). -/
def execFmin (m : Mods) (s : State) : Out :=
  floatForm s m 2 fun mode vs => fminmaxOp m.tyNat mode false (fAt vs 0) (fAt vs 1)

/-- FMAX (R117). -/
def execFmax (m : Mods) (s : State) : Out :=
  floatForm s m 2 fun mode vs => fminmaxOp m.tyNat mode true (fAt vs 0) (fAt vs 1)

/-- FCMP sends 1 or 0 under an N64 header (R117, R118). -/
def execFcmp (m : Mods) (s : State) : Out :=
  cellTurn s m fun cx =>
    elemTurn cx [0, 1] (fun _ => hdrFloat) (plainHdr 8) fun os =>
      let r := fcmpOp (m.modF 0 3) (cx.fArg m.tyNat (opAt os 0)) (cx.fArg m.tyNat (opAt os 1))
      .value (BitVec.ofNat 64 r.1) r.2

/-- Pattern of an operand that is itself in TYPE, scale-free: a payload in that format, or a codebook entry (R65, R119). -/
def ownPattern (cx : Cx) (ty : Nat) (o : Operand) : Option Nat :=
  if !o.link then some (o.pay.toNat % 2 ^ tyWidth ty)
  else
    let h := cx.fmtOf o.port ty
    if hdrScale h == 1 then none
    else if hdrFmt h == ty then some (o.pay.toNat % 2 ^ tyWidth ty)
    else if hdrFmt h == 14 && ty == 11 then some (cx.book (hdrCb h) (fieldNat o.pay 0 4))
    else none

/-- FABS and FNEG: the sign bit of a pattern of TYPE; any other operand is converted by RNE first (R119). -/
def signForm (s : State) (m : Mods) (f : Nat → Nat → Nat) : Out :=
  cellTurn s m fun cx =>
    elemTurn cx [0] (fun _ => hdrFloat) (plainHdr m.tyNat) fun os =>
      match ownPattern cx m.tyNat (opAt os 0) with
      | some p => .value (BitVec.ofNat 64 (f (tyWidth m.tyNat) p)) 0
      | none =>
        let r := deliver m.tyNat .rne (cx.fArg m.tyNat (opAt os 0))
        .value (BitVec.ofNat 64 (f (tyWidth m.tyNat) r.bits)) r.flags

/-- FABS clears the sign bit (R119). -/
def execFabs (m : Mods) (s : State) : Out := signForm s m fun w p => p % 2 ^ (w - 1)

/-- FNEG inverts the sign bit (R119). -/
def execFneg (m : Mods) (s : State) : Out := signForm s m fun w p => p ^^^ 2 ^ (w - 1)

/-- RCPA (R87, R120). -/
def execRcpa (m : Mods) (s : State) : Out := floatForm s m 1 fun mode vs => approxOp .rcp m.tyNat mode (fAt vs 0)

/-- RSQA (R88, R120). -/
def execRsqa (m : Mods) (s : State) : Out := floatForm s m 1 fun mode vs => approxOp .rsq m.tyNat mode (fAt vs 0)

/-- EXP2A (R89, R120). -/
def execExp2a (m : Mods) (s : State) : Out := floatForm s m 1 fun mode vs => approxOp .exp2 m.tyNat mode (fAt vs 0)

/-- LOG2A (R90, R120). -/
def execLog2a (m : Mods) (s : State) : Out := floatForm s m 1 fun mode vs => approxOp .log2 m.tyNat mode (fAt vs 0)

/-- FCLASS sends a mask with one bit set under an N64 header (R117, R119). -/
def execFclass (m : Mods) (s : State) : Out :=
  cellTurn s m fun cx =>
    elemTurn cx [0] (fun _ => hdrOnly m.tyNat) (plainHdr 8) fun os =>
      .value (BitVec.ofNat 64 (fclassOp m.tyNat ((opPay os 0).toNat % 2 ^ tyWidth m.tyNat))) 0

end Sys2Proof.Machine
end

