-- ==== Sys2Proof/Machine/MemOps.lean ====
section
/-! DEFINITION. The memory forms: streams (R183-R186), local memory (R187, R188), atomics and synchronisation (R189-R193), futures
(R194-R198) and the issue of a stream port (R27). -/

namespace Sys2Proof.Machine

/-! Shared rules (R179-R182). -/

/-- Adds a result to a cell. -/
def CellRt.addResult (y : CellRt) (k : Result) : CellRt := { y with results := y.results ++ [k] }

/-- A result that needs no request. -/
def Cx.ready (cx : Cx) (k : Token) (due : Nat) : Result := ⟨k, cx.outMask, 0, due, true⟩

/-- A result that waits for the next request. -/
def Cx.awaits (cx : Cx) (k : Token) : Result := ⟨k, cx.outMask, cx.s.module.nextReq, cx.t, false⟩

/-- A tensor ends: the next takes its own after CTL, its own base, and its done token is due (R179, R182, R183). -/
def endTensor (cx : Cx) (y : CellRt) : CellRt :=
  { y with after := false, base := none, runIdx := 0, runPos := 0,
           done := if cx.x.cfg.doneOuts.isEmpty then y.done else y.done ++ [cx.s.module.nextReq] }

/-- The first access of a tensor waits for the CTL of a bound after port (R179). -/
def withAfter (cx : Cx) (k : Turn) : Turn :=
  if !cx.bound 3 || cx.x.rt.after then k
  else if cx.refuses 3 [.ctl] fun _ => true then .reject 3
  else if (cx.head 3).isNone then .idle
  else .act { takes := [3], upd := fun y => { y with after := true } }

/-- Element-wise memory forms on ports ps, of which the first carries the index and the others values (R180). A form with
results queues markers and voids in place; a store-only form consumes them. -/
def memTurn (cx : Cx) (ps : List Nat) (results : Bool) (f : List Operand → Turn) : Turn :=
  let links := ps.filter cx.isLink
  let hdrOk (p : Nat) (h : W64) : Bool := if p == 0 then hdrMove h else hdrOnly cx.m.tyNat h
  match links.find? fun p => cx.refuses p markKinds (hdrOk p) with
  | some p => .reject p
  | none =>
    if !ps.all cx.bound then .idle
    else match cx.operands ps, cx.heads links with
      | some os, some (k :: ks) =>
        match ((links.zip (k :: ks)).find? fun pk => pk.2.kind != k.kind) with
        | some pk => .reject pk.1
        | none =>
          if k.kind == .val then
            if (k :: ks).any (·.void) then
              .act { takes := links, upd := fun y =>
                let y := if results then y.addResult (cx.ready .voidVal cx.t) else y
                { y with runPos := y.runPos + 1 } }
            else f os
          else
            .act { takes := links, upd := fun y =>
              let y := if results then y.addResult (cx.ready (markerOf k (plainHdr cx.m.tyNat)) cx.t) else y
              if k.kind == .eot then endTensor cx y else y }
      | _, _ => .idle

/-- Link ports among ps. -/
def Cx.links (cx : Cx) (ps : List Nat) : List Nat := ps.filter cx.isLink

/-- A scout's request that fails a check delivers a void VAL; any other freezes the region (R35, R158). -/
def checkFails (cx : Cx) (takes : List Nat) (results : Bool) (code : Nat) (a : Access) : Turn :=
  if cx.x.cfg.scout then
    .act { takes := takes, upd := fun y =>
      let y := if results then y.addResult (cx.ready .voidVal cx.t) else y
      { y with runPos := y.runPos + 1 } }
  else .violate code a

/-- Issues one element's request at byte B (R158, R180, R181). -/
def issueAt (cx : Cx) (takes : List Nat) (kind : ReqKind) (acc ks need : Nat) (b : Int) (size align base : Nat)
    (results : Bool) (f : Req → Req) : Turn :=
  if cx.kPending ks || !tileRoom cx 1 || (results && cx.m.rdstNat != 0 && cx.pendingReg cx.m.rdstNat) then .idle
  else
    let k := cx.kreg ks takes
    let a := { cx.access 0 acc (cx.x.cfg.inIdx 0) k b need base with pos := cx.x.rt.runPos }
    match capCheckAt k need b size align with
    | some c => checkFails cx takes results c { a with ofs := faultOfs k c b size }
    | none =>
      let rd := if results then cx.m.rdstNat else 0
      .act
        { takes := takes
          upd := fun y =>
            let y := if results then y.addResult (cx.awaits (.plain .val 0)) else y
            { y with runPos := y.runPos + 1, pending := if rd == 0 then y.pending else y.pending ++ [rd] }
          after := fun s => issueReq s (f { cx.request kind k b.toNat size a with rdst := rd }) }

/-- Byte of the element that an index names (R180). -/
def elemByte (cx : Cx) (ks : Nat) (takes : List Nat) (i : Int) (z : Nat) : Int :=
  ((cx.kreg ks takes).cursor : Int) + i * (z : Int)

/-- z of the form's TYPE. -/
def Cx.z (cx : Cx) : Nat := tyBytes cx.m.tyNat

/-- Pattern of an index for a record. -/
def indexBits (v : W64) : Nat := v.toNat

/-! Affine streams (R183, R184). -/

/-- Strides P0 to P3 (R183). -/
def affineStrides (cx : Cx) (o : OMap) : List Int :=
  if cx.m.modF 3 1 == 1 then (List.range 4).map fun d => (cx.x.cfg.const d).toInt
  else
    let x (d : Nat) : Int := o.extentOf d
    [x 1 * x 2 * x 3, x 2 * x 3, x 3, 1]

/-- The element index i of a position (R183). -/
def affineIndex (cx : Cx) (o : OMap) (lane cyc : Nat) (base : Int) : Int :=
  ((affineStrides cx o).zip (o.coords lane cyc)).foldl (fun a px => a + px.1 * (px.2 : Int)) base

/-- The record of an affine access (R292). -/
def affineAccess (cx : Cx) (o : OMap) (acc order need : Nat) (k : Cap) (b base : Int) (pos : Nat) : Access :=
  { cx.access 0 acc order k b need (base % (2 ^ 64 : Nat)).toNat with
    pitch := cx.m.modF 3 1 == 1, strides := affineStrides cx o, pos := pos }

/-- Order and lane of a stream load: those of its first data destination. -/
def streamOrder (cx : Cx) : OMap := (cx.orderOut0).getD OMap.unit

/-- LDS: each CTL at in0 starts a pass, whose requests issue under R27 (R184). -/
def execLds (m : Mods) (s : State) : Out :=
  cellTurn s m fun cx =>
    if cx.refuses 0 [.ctl] fun _ => true then .reject 0
    else
      let y := cx.x.rt
      if y.gen.isSome || !y.results.isEmpty || cx.t < y.eotAt then .idle
      else match cx.head 0 with
        | none => .idle
        | some k =>
          withAfter cx (.act
            { takes := [0]
              upd := fun y =>
                let y := { y with gen := some ⟨k.pay.toInt, 0⟩, after := true }
                if m.modF 2 1 == 1 then y.addResult (cx.ready (.plain .hdr (plainHdr m.tyNat)) cx.t) else y })

/-- STS: each non-void VAL is written at its position's address (R184). -/
def execSts (m : Mods) (s : State) : Out :=
  cellTurn s m fun cx =>
    if cx.refuses 0 markKinds (hdrOnly m.tyNat) then .reject 0
    else if cx.bound 1 && cx.refuses 1 [.ctl] (fun _ => true) then .reject 1
    else
      let o := (cx.orderIn 0).getD OMap.unit
      let y := cx.x.rt
      match cx.head 0 with
      | none => .idle
      | some k =>
        match k.kind with
        | .val =>
          if o.runLen ≤ y.runPos || o.runs ≤ y.runIdx then .reject 0
          else if cx.bound 1 && y.base.isNone then
            match cx.head 1 with
            | none => .idle
            | some c => .act { takes := [1], upd := fun y => { y with base := some c.pay.toInt } }
          else if k.void then .act { takes := [0], upd := fun y => { y with runPos := y.runPos + 1 } }
          else withAfter cx
            (let ks := m.modF 0 2
             if cx.kPending ks || !tileRoom cx 1 then .idle
             else
               let cyc := y.runIdx * o.runLen + y.runPos
               let base := y.base.getD 0
               let kc := cx.kreg ks [0]
               let b := (kc.cursor : Int) + affineIndex cx o (cx.x.cfg.lin 0) cyc base * (cx.z : Int)
               let a := affineAccess cx o 1 (cx.x.cfg.inIdx 0) rWrite kc b base cyc
               match capCheckAt kc rWrite b cx.z 1 with
               | some c => .violate c { a with ofs := faultOfs kc c b cx.z }
               | none => .act
                 { takes := [0]
                   upd := fun y => { y with runPos := y.runPos + 1 }
                   after := fun s => issueReq s { cx.request .store kc b.toNat cx.z a with data := k.pay } })
        | .eor =>
          if y.runPos == o.runLen then .act { takes := [0], upd := fun y => { y with runPos := 0, runIdx := y.runIdx + 1 } }
          else .reject 0
        | .eot => .act { takes := [0], upd := endTensor cx }
        | _ => .act { takes := [0] }

/-! Gather, scatter, prefetch (R185, R186). -/

/-- LDG: an index is taken while none waits to issue (R27, R185). -/
def execLdg (m : Mods) (s : State) : Out :=
  cellTurn s m fun cx =>
    if cx.x.rt.gen.isSome then (if cx.isLink 0 && cx.refuses 0 markKinds hdrMove then .reject 0 else .idle)
    else memTurn cx [0] true fun os =>
      withAfter cx
        (if m.rdstNat != 0 && cx.pendingReg m.rdstNat then .idle
         else .act { takes := cx.links [0], upd := fun y => { y with gen := some ⟨(opPay os 0).toInt, 0⟩ } })

/-- STG (R185). A tagged kKC needs the share right (R159). -/
def execStg (m : Mods) (s : State) : Out :=
  cellTurn s m fun cx =>
    let ks := m.modF 0 2
    if m.modF 2 1 == 1 then
      memTurn cx [0] false fun os =>
        withAfter cx
          (let takes := cx.links [0]
           let kc := m.modF 3 2
           if cx.kPending kc then .idle
           else
             let c := cx.kreg kc takes
             let b := elemByte cx ks takes (opPay os 0).toInt 16
             if c.tag && c.rights &&& rShare == 0 && (capCheckAt (cx.kreg ks takes) rWrite b 16 16).isNone then
               .violate fcRights { cx.access 0 5 (cx.x.cfg.inIdx 0) c b rShare (opPay os 0).toNat with pos := cx.x.rt.runPos }
             else
               issueAt cx takes .capStore 5 ks rWrite b 16 16 (opPay os 0).toNat false fun q => { q with capData := c })
    else
      memTurn cx [0, 1] false fun os =>
        withAfter cx
          (let takes := cx.links [0, 1]
           let b := elemByte cx ks takes (opPay os 0).toInt cx.z
           issueAt cx takes .store 1 ks rWrite b cx.z 1 (opPay os 0).toNat false fun q => { q with data := opPay os 1 })

/-- PREF delivers nothing; a request that fails a check is dropped (R158, R186). -/
def execPref (m : Mods) (s : State) : Out :=
  cellTurn s m fun cx =>
    memTurn cx [0] false fun os =>
      withAfter cx
        (let takes := cx.links [0]
         let ks := m.modF 0 2
         if cx.kPending ks || !tileRoom cx 1 then .idle
         else
           let k := cx.kreg ks takes
           let b := elemByte cx ks takes (opPay os 0).toInt cx.z
           let upd (y : CellRt) : CellRt := { y with runPos := y.runPos + 1 }
           match capCheckAt k rRead b cx.z 1 with
           | some _ => .act { takes := takes, upd := upd }
           | none => .act
             { takes := takes
               upd := upd
               after := fun s => issueReq s
                 { cx.request .prefetch k b.toNat cx.z (cx.access 0 0 255 k b rRead 0) with
                   form := m.modF 2 1, data := BitVec.ofNat 64 (fieldNat (cx.x.cfg.const 0) 0 14) } })

/-! The stream port (R27). -/

/-- Outstanding and landed elements of a port, O + H. -/
def portLoad (y : CellRt) : Nat := (y.results.filter fun k => k.tok.kind == .val).length

/-- Slots of a port that are filled once its cell has sent in a cycle: what it holds, and what the cycle has taken (R23, R27). -/
def filledSlots (q : List Token) (popped popAt t : Nat) : Nat := q.length + (if popAt == t then popped else 0)

/-- Smallest count of free slots over the data destinations, as O and H count this cycle's tokens: as sent. -/
def freeSlots (cx : Cx) : Nat :=
  (cx.x.cfg.dataOuts.map fun m =>
    let x := cx.x.cfg
    let occ := if x.target m == 1 then
        let p := match cx.r.storeAt cx.c m with
          | some (i, j) => ((cx.r.stores[i]?).bind fun st => st.inq[j]?).getD .empty
          | none => ((cx.r.cell (x.tindex m)).rt.ports.getD (x.tport m) .empty)
        filledSlots p.q p.popped p.popAt cx.t
      else match cx.s.iports.find? (·.is cx.r.die (x.target m) (x.tindex m) cx.r.rblk (x.tport m) (x.lout m)) with
        | some i => filledSlots i.q i.popped i.popAt cx.t
        | none => 0
    x.slots m - occ).foldl min 16

/-- The condition of R27 for issuing in this cycle, with a request free at the memory tile (R1). -/
def portMayIssue (cx : Cx) : Bool :=
  tileRoom cx 1 && (if cx.x.cfg.pull then portLoad cx.x.rt < freeSlots cx else portLoad cx.x.rt < 64)

/-- The markers that follow item n of a pass, as results; the pass ends with its EOT (R42). -/
def passMarkers (cx : Cx) (o : OMap) (n : Nat) (y : CellRt) : CellRt :=
  match itemOf' o n with
  | 0 => { y with gen := y.gen.map fun g => { g with next := n } }
  | 1 =>
    let y := y.addResult (cx.ready (.plain .eor 0) cx.t)
    if itemOf' o (n + 1) == 2 then endTensor cx { y.addResult (cx.ready (.plain .eot 0) cx.t) with gen := none }
    else { y with gen := y.gen.map fun g => { g with next := n + 1 } }
  | _ => endTensor cx { y.addResult (cx.ready (.plain .eot 0) cx.t) with gen := none }
where
  /-- 0 an element, 1 an EOR, 2 the EOT. -/
  itemOf' (o : OMap) (n : Nat) : Nat :=
    let per := o.runLen + 1
    if n == o.runs * per then 2 else if n % per == o.runLen then 1 else 0

/-- Issues the element that a stream port has next (R158, R183, R185). -/
def portIssue (cx : Cx) (g : Gen) : State :=
  let lds := cx.x.cfg.opc == 0x180
  let m := cx.m
  let ks := m.modF 0 2
  let isK := m.rdstK
  let o := streamOrder cx
  let z := if isK then 16 else cx.z
  let k := cx.x.rt.k.getD ks .none
  let per := o.runLen + 1
  let cyc := g.next / per * o.runLen + g.next % per
  let lane := cx.x.cfg.lout 0
  let i := if lds then affineIndex cx o lane cyc g.base else g.base
  let b := (k.cursor : Int) + i * (z : Int)
  let a : Access :=
    if lds then affineAccess cx o 0 (cx.x.cfg.outOrder (cx.x.cfg.dataOuts.headD 0)) rRead k b g.base cyc
    else { cx.access 0 (if isK then 4 else 0) (cx.x.cfg.inIdx 0) k b rRead (g.base % (2 ^ 64 : Nat)).toNat with
           pos := cx.x.rt.runPos }
  let next (y : CellRt) : CellRt :=
    if lds then passMarkers cx o (g.next + 1) y else { y with gen := none, runPos := y.runPos + 1 }
  match capCheckAt k rRead b z (if isK then 16 else 1) with
  | some c =>
    if cx.x.cfg.scout then
      cx.s.updRegion cx.r.die cx.r.rblk fun r => r.updRt cx.c fun y => next (y.addResult (cx.ready .voidVal cx.t))
    else freeze cx.s cx.r c srcCell { a with ofs := faultOfs k c b z }.words
  | none =>
    let s := cx.s.updRegion cx.r.die cx.r.rblk fun r =>
      (r.updRt cx.c fun y =>
          let y := y.addResult (cx.awaits (.plain .val 0))
          next { y with pending := if m.rdstNat == 0 then y.pending else y.pending ++ [m.rdstNat] }).actBy cx.c cx.t
    issueReq s { cx.request (if isK then .capLoad else .load) k b.toNat z a with rdst := m.rdstNat }

/-- STREAM_PORT_ISSUE: the stream port in focus issues one request when the condition of R27 holds. -/
def execStreamPortIssue (s : State) : Out :=
  match cxOf s s.focus.die s.focus.rblk s.focus.cell with
  | none => .fault .noActor
  | some cx =>
    if !cx.r.live || cx.x.rt.stopped then .next s
    else match cx.x.rt.gen with
      | none => .next s
      | some g =>
        if !portMayIssue cx || cx.kPending (cx.m.modF 0 2) || (cx.m.rdstNat != 0 && cx.pendingReg cx.m.rdstNat) then .next s
        else .next (portIssue cx g)

/-! Local and block scratch (R187, R188). -/

/-- Cell and byte offset of an address; none beyond the space (R31, R187). -/
def localPlace (cx : Cx) (blk : Bool) (a z : Nat) : Option (Nat × Nat) :=
  if !blk then (if a + z ≤ Config.localBytes then some (cx.c, a) else none)
  else if a + z ≤ Config.scratchBytes then
    some (cx.c / Config.cellsPerBlock * Config.cellsPerBlock + a / Config.localBytes, a % Config.localBytes)
  else none

/-- Some byte is held by an attached near store (R52). -/
def heldByStore (r : Region) (c o z : Nat) : Bool :=
  r.stores.any fun st => !st.far && (match st.lanes with | l :: _ => l.ccell == c | [] => false) &&
    (List.range z).any fun i => st.grans.contains ((o + i) / 64)

/-- The place of a local access, unless it faults CAP_BOUNDS (R187). -/
def localAccess (cx : Cx) (v : W64) (z : Nat) : Option (Nat × Nat) :=
  let a := v.toNat
  if a % z != 0 then none
  else match localPlace cx (cx.m.modF 0 1 == 1) a z with
    | some (c, o) => if heldByStore cx.r c o z then none else some (c, o)
    | none => none

/-- The record of a faulting local access. -/
def localRecord (cx : Cx) (acc : Nat) (v : W64) : Access :=
  { cx.access 0 acc (cx.x.cfg.inIdx 0) .none (v.toNat : Int) 0 v.toNat with pos := cx.x.rt.runPos }

/-- A local access that returns a value in cycle t + 2 (R187, R188): ok says whether it may fire, upd changes the cell that
holds the word. -/
def localRead (s : State) (m : Mods) (acc : Nat) (ok : CellRt → Nat → Bool) (upd : Nat → CellRt → CellRt) : Out :=
  cellTurn s m fun cx =>
    memTurn cx [0] true fun os =>
      withAfter cx
        (match localAccess cx (opPay os 0) cx.z with
         | none => .violate fcBounds (localRecord cx acc (opPay os 0))
         | some (c, o) =>
           let y := (cx.r.cell c).rt
           if !ok y o || (m.rdstNat != 0 && cx.pendingReg m.rdstNat) then .idle
           else
             let v := extendTy m.tyNat (leNat (memReadN y.lmem o cx.z))
             .act
               { takes := cx.links [0]
                 rdst := m.rdstNat
                 rdstVal := v
                 upd := fun y => { y.addResult (cx.ready (.plain .val v) (cx.t + 2)) with runPos := y.runPos + 1 }
                 after := fun s => s.updRegion cx.r.die cx.r.rblk fun r => r.updRt c (upd o) })

/-- A local access that writes (R187, R188). -/
def localWrite (s : State) (m : Mods) (acc : Nat) (ok : CellRt → Nat → Bool) (upd : Nat → CellRt → CellRt) : Out :=
  cellTurn s m fun cx =>
    memTurn cx [0, 1] false fun os =>
      withAfter cx
        (match localAccess cx (opPay os 0) cx.z with
         | none => .violate fcBounds (localRecord cx acc (opPay os 0))
         | some (c, o) =>
           if !ok (cx.r.cell c).rt o then .idle
           else .act
             { takes := cx.links [0, 1]
               upd := fun y => { y with runPos := y.runPos + 1 }
               after := fun s => s.updRegion cx.r.die cx.r.rblk fun r => r.updRt c fun y =>
                 upd o { y with lmem := memWriteN y.lmem o (natLe cx.z (opPay os 1).toNat) } })

/-- LDL (R187). -/
def execLdl (m : Mods) (s : State) : Out := localRead s m 0 (fun _ _ => true) fun _ y => y

/-- STL (R187). -/
def execStl (m : Mods) (s : State) : Out := localWrite s m 1 (fun _ _ => true) fun _ y => y

/-- LDFE fires on a full word and empties it (R188). -/
def execLdfe (m : Mods) (s : State) : Out :=
  localRead s m 3 (fun y o => y.full.contains (o / 8)) fun o y => { y with full := y.full.filter (· != o / 8) }

/-- STFE fires on an empty word and fills it (R188). -/
def execStfe (m : Mods) (s : State) : Out :=
  localWrite s m 3 (fun y o => !y.full.contains (o / 8)) fun o y => { y with full := insNat (o / 8) y.full }

/-! Atomics and synchronisation (R189-R191). -/

/-- A synchronising form with a result, on ports ps (R180, R189, R190, R192). -/
def syncForm (s : State) (m : Mods) (ps : List Nat) (kind : ReqKind) (acc ks need : Nat) (results : Bool)
    (f : List Operand → Req → Req) : Out :=
  cellTurn s m fun cx =>
    memTurn cx ps results fun os =>
      withAfter cx
        (let takes := cx.links ps
         issueAt cx takes kind acc ks need (elemByte cx ks takes (opPay os 0).toInt cx.z) cx.z cx.z (opPay os 0).toNat
           results (f os))

/-- ATOM: the form's operands, scope, acquire and release (R189). -/
def atomForm (s : State) (m : Mods) (ps : List Nat) : Out :=
  syncForm s m ps .atom 2 (m.modF 4 2) rAtomic true fun os q =>
    { q with form := m.modF 0 4, data := opPay os 1, data2 := opPay os 2, acq := m.modF 6 1 == 1, rel := m.modF 7 1 == 1,
             scope := m.modF 8 3, mask := 255 }

/-- ATOM_ADD (R189). -/
def execAtomAdd (m : Mods) (s : State) : Out := atomForm s m [0, 1]
/-- ATOM_MIN (R189). -/
def execAtomMin (m : Mods) (s : State) : Out := atomForm s m [0, 1]
/-- ATOM_MAX (R189). -/
def execAtomMax (m : Mods) (s : State) : Out := atomForm s m [0, 1]
/-- ATOM_AND (R189). -/
def execAtomAnd (m : Mods) (s : State) : Out := atomForm s m [0, 1]
/-- ATOM_OR (R189). -/
def execAtomOr (m : Mods) (s : State) : Out := atomForm s m [0, 1]
/-- ATOM_XOR (R189). -/
def execAtomXor (m : Mods) (s : State) : Out := atomForm s m [0, 1]
/-- ATOM_XCHG (R189). -/
def execAtomXchg (m : Mods) (s : State) : Out := atomForm s m [0, 1]
/-- ATOM_CAS (R189). -/
def execAtomCas (m : Mods) (s : State) : Out := atomForm s m [0, 1, 2]

/-- LDACQ (R190). -/
def execLdacq (m : Mods) (s : State) : Out :=
  syncForm s m [0] .ldacq 3 (m.modF 0 2) rRead true fun _ q => { q with acq := true, scope := m.modF 2 3 }

/-- STREL (R190). -/
def execStrel (m : Mods) (s : State) : Out :=
  syncForm s m [0, 1] .strel 3 (m.modF 0 2) rWrite false fun os q =>
    { q with rel := true, data := opPay os 1, scope := m.modF 2 3, mask := m.modF 5 8 }

/-- A store that a FENCE counts: the stores of TSTO, marked by their form, are none of those that R191 names. -/
def Req.fenced (q : Req) : Bool :=
  match q.kind with
  | .store => q.form == 0
  | .capStore | .strel | .atom => true
  | _ => false

/-- Stores of the region, of a colour in the mask and issued before request n, that a FENCE still waits for: those of STS, STG,
STREL and ATOM (R176, R191). -/
def fenceWaits (cx : Cx) (n : Nat) : Bool :=
  let scope := cx.m.modF 2 3
  let mask := cx.m.modF 5 8
  cx.s.reqs.any fun q =>
    q.die == cx.r.die && q.rblk == cx.r.rblk && q.id < n &&
    q.fenced && mask.testBit q.colour &&
    !(scope == 0 || (scope == 1 && q.accepted))

/-- FENCE (R191). -/
def execFence (m : Mods) (s : State) : Out :=
  cellTurn s m fun cx =>
    if cx.refuses 0 markKinds hdrMove then .reject 0
    else match cx.head 0 with
      | none => .idle
      | some k =>
        let n := cx.x.rt.fence.getD cx.s.module.nextReq
        let pass : Turn := withAfter cx (.act
          { takes := [0], sends := cx.toAll { k with home := decide (2 ≤ m.modF 2 3) },
            val := if k.kind == .val && !k.void then some k.pay else none,
            upd := fun y => let y := { y with fence := none }; if k.kind == .eot then endTensor cx y else y })
        let hold (stalls : Nat) : Turn := .note fun y => { y with fence := some n, perfStalls := y.perfStalls + stalls }
        if fenceWaits cx n then hold 0
        else match pass with
          | .act e =>
            if !cx.room (e.sends.map (·.1)) then hold 1
            else if cx.swpWaits e.takes then hold 0
            else .act { e with upd := fun y => if e.takes == [0] then e.upd y else { e.upd y with fence := some n } }
          | .idle => hold 0
          | x => x

/-! Monitor and wait (R192, R193). -/

/-- MONW (R192). -/
def execMonw (m : Mods) (s : State) : Out :=
  syncForm s m [0] .monw 3 (m.modF 0 2) rRead true fun _ q => { q with scope := m.modF 2 3 }

/-- WAITW consumes a VAL and waits on the monitor armed by the firing that sent it; markers pass (R193). -/
def execWaitw (m : Mods) (s : State) : Out :=
  cellTurn s m fun cx =>
    if cx.refuses 0 markKinds hdrMove then .reject 0
    else if cx.x.rt.waiting.isSome then .idle
    else match cx.head 0 with
      | none => .idle
      | some k =>
        if k.kind == .val then
          withAfter cx (.act
            { takes := [0], upd := fun y => { y with waiting := some (match k.hid with | .mon n => n | _ => 0) } })
        else .act { takes := [0], sends := cx.toAll (markerOf k k.pay),
                    upd := fun y => if k.kind == .eot then endTensor cx y else y }

/-- MONITOR_WAKE: a waiting WAITW sends a CTL, 1 after a write to the granule and the L1 effect of the MONW's scope, 0 when the
monitor is lost or was replaced (R192, R193). -/
def execMonitorWake (s : State) : Out :=
  match cxOf s s.focus.die s.focus.rblk s.focus.cell with
  | none => .fault .noActor
  | some cx =>
    match cx.x.rt.waiting with
    | none => .next s
    | some n =>
      if !cx.r.live || cx.x.rt.stopped then .next s
      else
        let wakeUp (v : W64) (f : State → State) : State :=
          commit cx { sends := cx.toAll (.plain .ctl v), upd := fun y => { y with waiting := none }, after := f }
        match s.monitors.find? (·.num == n) with
        | none => .next (wakeUp 0 id)
        | some mo =>
          if mo.woken then
            .next (wakeUp 1 fun s =>
              let s := { s with monitors := s.monitors.filter (·.num != n) }
              if 2 ≤ mo.scope then invalidateL1 s cx.r else s)
          else .next s

/-! Futures (R194-R198). -/

/-- Rights of the future forms (R194). -/
def rFuture : Nat := 7

/-- A future form on ports ps (R194). -/
def futForm (s : State) (m : Mods) (ps : List Nat) (kind : ReqKind) (f : List Operand → Req → Req) : Out :=
  cellTurn s m fun cx =>
    memTurn cx ps true fun os =>
      let takes := cx.links ps
      let ks := m.modF 0 2
      let k := cx.kreg ks takes
      let b := elemByte cx ks takes (opPay os 0).toInt 8
      let o := (opPay os 1).toNat
      if 1 < ps.length && !cx.kPending ks && (capCheckAt k rFuture b 8 8).isNone && !futOffsetOk k o then
        .violate fcBounds { cx.access 1 3 (cx.x.cfg.inIdx 0) k o rFuture (opPay os 0).toNat with pos := cx.x.rt.runPos }
      else issueAt cx takes kind 3 ks rFuture b 8 8 (opPay os 0).toNat true (f os)

/-- FUTNEW (R196). -/
def execFutnew (m : Mods) (s : State) : Out := futForm s m [0] .futnew fun _ q => q

/-- FUTRES is a release (R196, R197). -/
def execFutres (m : Mods) (s : State) : Out :=
  futForm s m [0, 1] .futres fun os q =>
    { q with data := opPay os 1, rel := true, mask := 255, scope := m.modF 2 3, form := m.modF 5 1 }

/-- FUTREG (R196). -/
def execFutreg (m : Mods) (s : State) : Out := futForm s m [0, 1] .futreg fun os q => { q with data := opPay os 1 }

/-- FUTGET is an acquire (R196, R197). -/
def execFutget (m : Mods) (s : State) : Out :=
  futForm s m [0] .futget fun _ q => { q with acq := true, scope := m.modF 2 3 }

end Sys2Proof.Machine
end

