-- ==== Sys2Proof/Machine/Stream.lean ====
section
/-! DEFINITION. Stream control (R130-R141, Table 10.1) and the reductions on markers (R142, R143). -/

namespace Sys2Proof.Machine

/-- A token of a stream that a form moves, sent unchanged on every destination. -/
def moveAll (cx : Cx) (k : Token) (takes : List Nat) : Effect :=
  { takes := takes, sends := cx.toAll k, val := if k.kind == .val && !k.void then some k.pay else none }

/-- A VAL, as it leaves a form that does not forward hidden parts (R112, R130). -/
def bareVal (k : Token) : Token := if k.void then .voidVal else .plain .val k.pay

/-- A data input of a stream-control form refuses its head (R130). -/
def refusesData (cx : Cx) (p : Nat) : Bool := cx.refuses p markKinds hdrMove

/-- A control input refuses its head (R130). -/
def refusesCtl (cx : Cx) (p : Nat) : Bool := cx.refuses p [.ctl] fun _ => true

/-- STEER (R133, R134). -/
def execSteer (m : Mods) (s : State) : Out :=
  cellTurn s m fun cx =>
    if refusesData cx 0 then .reject 0
    else if refusesCtl cx 1 then .reject 1
    else
      match cx.head 0 with
      | none => .idle
      | some k =>
        if k.kind != .val then .act (moveAll cx (markerOf k k.pay) [0])
        else match cx.head 1 with
          | none => .idle
          | some c =>
            let sel := fieldNat c.pay 0 2
            if cx.x.cfg.dataOuts.contains sel then
              .act { takes := [0, 1], sends := [(sel, bareVal k)], val := if k.void then none else some k.pay }
            else .reject 1

/-- GATE (R134). -/
def execGate (m : Mods) (s : State) : Out :=
  cellTurn s m fun cx =>
    if refusesData cx 0 then .reject 0
    else if refusesCtl cx 1 then .reject 1
    else
      match cx.head 0 with
      | none => .idle
      | some k =>
        let out := if k.kind == .val then bareVal k else markerOf k k.pay
        if m.modF 0 1 == 0 then
          (if (cx.head 1).isSome then .act (moveAll cx out [0, 1]) else .idle)
        else if k.kind != .val then .act (moveAll cx out [0])
        else match cx.head 1 with
          | none => .idle
          | some c =>
            if c.pay.getLsbD 0 then .act (moveAll cx out [0, 1])
            else if m.modF 1 1 == 1 then .act (moveAll cx .voidVal [0, 1])
            else .act { takes := [0, 1] }

/-- Bound data inputs of MERGE (in1 to in3), AMERGE and ZIP (in0 to in3). -/
def dataIns (cx : Cx) (from_ : Nat) : List Nat := ([0, 1, 2, 3].filter (from_ ≤ ·)).filter cx.bound

/-- The one marker kind at the heads of every bound data input, with the token of the lowest input (R135). -/
def oneMarker (cx : Cx) (ps : List Nat) : Option Token :=
  match cx.heads ps with
  | some (k :: ks) => if k.kind != .val && ks.all (·.kind == k.kind) then some k else none
  | _ => none

/-- A run of the result order is full at n positions, or, for a run that is not ragged, exactly closed at n. -/
def runBound (o : Option OMap) : Nat := match o with | some m => m.runLen | none => 65536

/-- MERGE (R135): a selector of 0 or of an unbound input is turned away at once (log 61). -/
def execMerge (m : Mods) (s : State) : Out :=
  cellTurn s m fun cx =>
    let ps := dataIns cx 1
    let o := cx.orderOut0
    match ps.find? fun p => refusesData cx p with
    | some p => .reject p
    | none =>
      if refusesCtl cx 0 then .reject 0
      else if ps.isEmpty then .idle
      else match oneMarker cx ps with
        | some k =>
          if k.kind == .eor && (match o with | some r => !r.ragged && cx.x.rt.outCnt < r.runLen | none => false) then
            .reject 0
          else
            let e := moveAll cx (markerOf k k.pay) ps
            .act { e with upd := fun y => if k.kind == .eor || k.kind == .eot then { y with outCnt := 0 } else y }
        | none =>
          match cx.head 0 with
          | none => .idle
          | some c =>
            let sel := fieldNat c.pay 0 2
            if !ps.contains sel then .reject 0
            else match cx.head sel with
              | none => .idle
              | some k =>
                if k.kind == .val then
                  if runBound o ≤ cx.x.rt.outCnt then .reject 0
                  else
                    let e := moveAll cx (bareVal k) [0, sel]
                    .act { e with upd := fun y => { y with outCnt := y.outCnt + 1 } }
                else if (cx.heads ps).isSome then .reject 0
                else .idle

/-- AMERGE (R136). -/
def execAmerge (m : Mods) (s : State) : Out :=
  cellTurn s m fun cx =>
    let ps := dataIns cx 0
    match ps.find? fun p => refusesData cx p with
    | some p => .reject p
    | none =>
      match oneMarker cx ps with
      | some k => .act (moveAll cx (markerOf k k.pay) ps)
      | none =>
        match ps.find? fun p => match cx.head p with | some k => k.kind == .val | none => false with
        | some p => match cx.head p with
          | some k => .act (moveAll cx (bareVal k) [p])
          | none => .idle
        | none => .idle

/-- DUP sends every token unchanged, with its hidden part (R112, R141). -/
def execDup (m : Mods) (s : State) : Out :=
  cellTurn s m fun cx =>
    if cx.refuses 0 [.val, .eor, .eot, .hdr, .ctl, .swp, .rsd] fun h => hdrMove h || h == handHdr then .reject 0
    else match cx.head 0 with
      | some k => .act (moveAll cx k [0])
      | none => .idle

/-! Remarking forms (R131). -/

/-- Declared input order. -/
def inOrder (cx : Cx) : OMap := (cx.orderIn 0).getD OMap.unit

/-- Declared result order. -/
def outOrder (cx : Cx) : OMap := (cx.orderOut0).getD OMap.unit

/-- Counts an element of the result: where R42 places an EOR, it is owed (R131). -/
def countOut (cx : Cx) (y : CellRt) : CellRt :=
  if !(outOrder cx).ragged && (outOrder cx).runLen ≤ y.outCnt + 1 then
    { y with outCnt := 0, owed := y.owed ++ [(cx.outMask, .plain .eor 0)] }
  else { y with outCnt := y.outCnt + 1 }

/-- An input EOR is consumed; a ragged result run closes with it (R131, R41). -/
def closeIn (cx : Cx) (y : CellRt) : CellRt :=
  let y := { y with runPos := 0, runIdx := y.runIdx + 1, phase := 0 }
  if (outOrder cx).ragged then { y with outCnt := 0, owed := y.owed ++ [(cx.outMask, .plain .eor 0)] } else y

/-- What a remarking form does with markers other than EOR (R130, R131). -/
def remarkOther (cx : Cx) (k : Token) (takes : List Nat) : Turn :=
  let e := moveAll cx (markerOf k k.pay) takes
  .act { e with upd := fun y => if k.kind == .eot then { y with runPos := 0, runIdx := 0, outCnt := 0, phase := 0 } else y }

/-- An EOR does not stand here in an order: inside a run that is not ragged, or past the last run (R41, R42, R131). -/
def misplaced (o : OMap) (run n : Nat) : Bool := (decide (n < o.runLen) && !o.ragged) || decide (o.runs ≤ run)

/-- A remarking form on in0: f acts on a VAL at a position of its run, and pad on an EOR that closes a run early. -/
def remarkTurn (cx : Cx) (pad : Option Effect) (f : Token → Nat → Turn) : Turn :=
  if refusesData cx 0 then .reject 0
  else
    match cx.head 0 with
    | none => .idle
    | some k =>
      let o := inOrder cx
      let n := cx.x.rt.runPos
      match k.kind with
      | .val => if o.runLen ≤ n || o.runs ≤ cx.x.rt.runIdx then .reject 0 else f k n
      | .eor =>
        if misplaced o cx.x.rt.runIdx n then .reject 0
        else match pad with
          | some e => if n < o.runLen then .act e else .act { takes := [0], upd := closeIn cx }
          | none => .act { takes := [0], upd := closeIn cx }
      | _ => remarkOther cx k [0]

/-- The VAL k is sent on every destination; the position advances when last is set. -/
def sendElem (cx : Cx) (k : Token) (last : Bool) : Turn :=
  let e := moveAll cx (bareVal k) (if last then [0] else [])
  .act { e with upd := fun y =>
    let y := countOut cx y
    if last then { y with runPos := y.runPos + 1, phase := 0 } else { y with phase := y.phase + 1 } }

/-- The VAL at the head is consumed and not sent. -/
def dropElem : Turn := .act { takes := [0], upd := fun y => { y with runPos := y.runPos + 1 } }

/-- REPEAT: E copies, one per cycle, E the extent of the appended level (R138). -/
def execRepeatOp (m : Mods) (s : State) : Out :=
  cellTurn s m fun cx => remarkTurn cx none fun k _ => sendElem cx k ((outOrder cx).runLen ≤ cx.x.rt.phase + 1)

/-- DROP (R138). -/
def execDrop (m : Mods) (s : State) : Out :=
  cellTurn s m fun cx => remarkTurn cx none fun k n => if n < m.modF 0 16 then dropElem else sendElem cx k true

/-- TAKE (R138). -/
def execTake (m : Mods) (s : State) : Out :=
  cellTurn s m fun cx => remarkTurn cx none fun k n => if n < m.modF 0 16 then sendElem cx k true else dropElem

/-- MARK (R140). -/
def execMark (m : Mods) (s : State) : Out := cellTurn s m fun cx => remarkTurn cx none fun k _ => sendElem cx k true

/-- STRIP (R140). -/
def execStrip (m : Mods) (s : State) : Out :=
  cellTurn s m fun cx => remarkTurn cx none fun k _ => if k.void then dropElem else sendElem cx k true

/-- VOID pads each run with void VALs up to its bound, one per cycle (R140). -/
def execVoidOp (m : Mods) (s : State) : Out :=
  cellTurn s m fun cx =>
    let pad : Effect :=
      { sends := cx.toAll .voidVal, upd := fun y => let y := countOut cx y; { y with runPos := y.runPos + 1 } }
    remarkTurn cx (some pad) fun k _ => sendElem cx k true

/-- SPLIT: the element at position i of the removed level goes on out i alone (R139). -/
def execSplit (m : Mods) (s : State) : Out :=
  cellTurn s m fun cx =>
    remarkTurn cx none fun k n =>
      .act
        { takes := [0]
          sends := if cx.x.cfg.dataOuts.contains n then [(n, bareVal k)] else []
          val := if k.void then none else some k.pay
          upd := fun y =>
            let y := if n + 1 == (inOrder cx).runLen then countOut cx y else y
            { y with runPos := y.runPos + 1 } }

/-- The head of a ZIP input that has sent ahead elements of the open position stands where its order has none (R41, R42, R131). -/
def zipWrong (cx : Cx) (o : OMap) (p ahead : Nat) : Bool :=
  let n := cx.x.rt.runPos + ahead
  match cx.head p with
  | some k =>
    (k.kind == .val && (decide (o.runLen ≤ n) || decide (o.runs ≤ cx.x.rt.runIdx))) ||
    (k.kind == .eor && misplaced o cx.x.rt.runIdx n)
  | none => false

/-- ZIP: in0's VAL, then in1's and so on, one per cycle (R139). Of heads of different kinds the first that differs is turned away
(log 61). -/
def execZip (m : Mods) (s : State) : Out :=
  cellTurn s m fun cx =>
    let ps := dataIns cx 0
    let o := inOrder cx
    let j := cx.x.rt.phase
    match (ps.zip (List.range 4)).find? fun pi => refusesData cx pi.1 || zipWrong cx o pi.1 (if pi.2 < j then 1 else 0) with
    | some pi => .reject pi.1
    | none =>
      match cx.heads (ps.drop j) with
      | some (k :: ks) =>
        if j == 0 && (ks.any fun x => x.kind != k.kind) then
          .reject (((ps.zip (k :: ks)).find? fun px => px.2.kind != k.kind).map (·.1) |>.getD 0)
        else match k.kind with
          | .val =>
            let p := ps.getD j 0
            let last := j + 1 == ps.length
            let e := moveAll cx (bareVal k) [p]
            .act { e with upd := fun y =>
              let y := countOut cx y
              if last then { y with phase := 0, runPos := y.runPos + 1 } else { y with phase := j + 1 } }
          | .eor => .act { takes := ps, upd := closeIn cx }
          | _ => remarkOther cx k ps
      | _ => .idle

/-! Reductions on markers (R142, R143). -/

/-- Identity of OP (R143). -/
def redIdentity (op ty : Nat) : W64 :=
  match op with
  | 1 => ofInt ty (intMax ty)
  | 2 => ofInt ty (intMin ty)
  | 3 => ofInt ty (-1)
  | 8 => BitVec.ofNat 64 (2 ^ (tyWidth ty - 1))
  | 9 => BitVec.ofNat 64 (infBits ty false)
  | 10 => BitVec.ofNat 64 (infBits ty true)
  | _ => 0

/-- s OP x for an integer OP (R143). -/
def redInt (op ty : Nat) (a b : W64) : W64 :=
  match op with
  | 1 => if intOf ty b < intOf ty a then ofInt ty (intOf ty b) else ofInt ty (intOf ty a)
  | 2 => if intOf ty a < intOf ty b then ofInt ty (intOf ty b) else ofInt ty (intOf ty a)
  | 3 => extendTy ty (a &&& b).toNat
  | 4 => extendTy ty (a ||| b).toNat
  | 5 => extendTy ty (a ^^^ b).toNat
  | _ => ofInt ty (intOf ty a + intOf ty b)

/-- s OP x for a floating-point OP (R143). -/
def redFloat (op ty : Nat) (mode : RMode) (a b : FVal) : Rounded :=
  match op with
  | 9 => fminmaxOp ty mode false a b
  | 10 => fminmaxOp ty mode true a b
  | _ => faddOp ty mode a b

/-- s OP x, x the value of an operand: the pattern in TYPE and the flags. -/
def redStep (cx : Cx) (acc : W64) (x : Operand) : W64 × FlagBits :=
  let op := cx.m.modF 0 4
  let ty := cx.m.tyNat
  if op < 8 then (redInt op ty acc x.pay, 0)
  else
    let r := redFloat op ty (rmodeOf cx.m.rmNat) (decodeF ty acc.toNat) (cx.fArg ty x)
    (BitVec.ofNat 64 r.bits, r.flags)

/-- Headers that RED and SCAN accept (R142). -/
def hdrRed (m : Mods) (h : W64) : Bool := if m.modF 0 4 < 8 then hdrOnly m.tyNat h else hdrFloat h

/-- Running value s of a run, at the identity before its first element. -/
def runValue (cx : Cx) : W64 :=
  if cx.x.rt.begun then cx.x.rt.acc else redIdentity (cx.m.modF 0 4) cx.m.tyNat

/-- Result order of a reduction: as declared, else the input's with its innermost cycle level removed. -/
def redOrder (cx : Cx) : OMap := (cx.orderOut0).getD (inOrder cx).removeInner

/-- A result is sent: where it completes a run of the result order, an EOR is owed for the next cycle (R14). -/
def countResult (cx : Cx) (y : CellRt) : CellRt × Bool :=
  if (redOrder cx).runLen ≤ y.outCnt + 1 then
    ({ y with outCnt := 0, owed := y.owed ++ [(cx.outMask, .plain .eor 0)] }, true)
  else ({ y with outCnt := y.outCnt + 1 }, false)

/-- Closes a run with result v (R14, R143): takes the EOR, or leaves the EOT at the head. -/
def closeRun (cx : Cx) (takes : List Nat) (v : W64) (fl : FlagBits) (f : CellRt → Bool → CellRt) : Turn :=
  .act
    { takes := takes
      sends := cx.toAll (.plain .val v)
      val := some v
      rdst := cx.m.rdstNat
      rdstVal := v
      flags := fl
      upd := fun y =>
        let r := countResult cx y
        f { r.1 with begun := false, runPos := 0 } r.2 }

/-- RED over a cycle level and SCAN on one token of in0 (R14, R143). -/
def reduceTurn (cx : Cx) (scan : Bool) : Turn :=
  if cx.refuses 0 markKinds (hdrRed cx.m) then .reject 0
  else
    match cx.head 0 with
    | none => .idle
    | some k =>
      if cx.m.rdstNat != 0 && cx.pendingReg cx.m.rdstNat then .idle
      else
        let y := cx.x.rt
        let ident := redIdentity (cx.m.modF 0 4) cx.m.tyNat
        let close (takes : List Nat) : Turn :=
          if scan then
            let u := if y.phase == 1 then y.acc2 else ident
            let r := redStep cx u ⟨runValue cx, 0, false⟩
            closeRun cx takes r.1 r.2 fun y sent => { y with acc2 := r.1, phase := if sent then 0 else 1 }
          else closeRun cx takes (runValue cx) 0 fun y _ => y
        match k.kind with
        | .val =>
          if k.void then .act { takes := [0], upd := fun y => { y with runPos := y.runPos + 1 } }
          else
            let r := redStep cx (runValue cx) ⟨k.pay, 0, true⟩
            .act { takes := [0], flags := r.2,
                   upd := fun y => { y with acc := r.1, begun := true, runPos := y.runPos + 1 } }
        | .eor => close [0]
        | .eot =>
          if y.runPos == 0 then
            .act { takes := [0], sends := cx.toAll (.plain .eot 0), upd := fun y => { y with outCnt := 0, phase := 0 } }
          else close []
        | _ => .act { takes := [0], sends := cx.toAll (markerOf k (plainHdr cx.m.tyNat)) }

/-- RED in LANE mode (R142, R143): x0 OP x1 with x0 on the left. A void operand leaves the other value combined with the
identity; with in1 unbound the cell forwards in0 unchanged, and a value goes to RDST as well (R108). -/
def laneTurn (cx : Cx) : Turn :=
  if !cx.bound 1 then
    if cx.refuses 0 markKinds (hdrRed cx.m) then .reject 0
    else if cx.m.rdstNat != 0 && cx.pendingReg cx.m.rdstNat then .idle
    else match cx.head 0 with
      | some k =>
        let e := moveAll cx k [0]
        .act { e with rdst := if e.val.isSome then cx.m.rdstNat else 0, rdstVal := k.pay }
      | none => .idle
  else
    match [0, 1].find? fun p => cx.refuses p markKinds (hdrRed cx.m) with
    | some p => .reject p
    | none =>
      if cx.m.rdstNat != 0 && cx.pendingReg cx.m.rdstNat then .idle
      else match cx.head 0, cx.head 1 with
        | some a, some b =>
          if a.kind != b.kind then .reject 1
          else if a.kind != .val then .act { takes := [0, 1], sends := cx.toAll (markerOf a (plainHdr cx.m.tyNat)) }
          else if a.void && b.void then .act { takes := [0, 1], sends := cx.toAll .voidVal }
          else
            let op := cx.m.modF 0 4
            let ty := cx.m.tyNat
            let ident := redIdentity op ty
            let r : W64 × FlagBits :=
              if a.void then redStep cx ident ⟨b.pay, 1, true⟩
              else if b.void then redStep cx ident ⟨a.pay, 0, true⟩
              else if op < 8 then (redInt op ty a.pay b.pay, 0)
              else
                let q := redFloat op ty (rmodeOf cx.m.rmNat) (cx.fArg ty ⟨a.pay, 0, true⟩) (cx.fArg ty ⟨b.pay, 1, true⟩)
                (BitVec.ofNat 64 q.bits, q.flags)
            .act { takes := [0, 1], sends := cx.toAll (.plain .val r.1), val := some r.1, rdst := cx.m.rdstNat,
                   rdstVal := r.1, flags := r.2 }
        | _, _ => .idle

/-- RED (R142, R143). -/
def execRed (m : Mods) (s : State) : Out :=
  cellTurn s m fun cx => if m.modF 4 1 == 1 then laneTurn cx else reduceTurn cx false

/-- SCAN (R143). -/
def execScan (m : Mods) (s : State) : Out := cellTurn s m fun cx => reduceTurn cx true

end Sys2Proof.Machine
end

