-- ==== Sys2Proof/Machine/System.lean ====
section
/-! DEFINITION. The cell forms of row 0x1F (R223-R227, R229) and the system registers they and the host reach (R228, Table
13.8): what each reads as, what a write of a register without a row of its own does, and which step a write of another
register is. -/

namespace Sys2Proof.Machine

/-! The registers (R228). -/

/-- STSTAT (Table 25.2). -/
def stStat (m : Module) : W64 :=
  BitVec.ofNat 64 ((match m.phase with | .starting => 0 | .running => 1 | .recovery => 2) + m.attempts % 4 * 2 ^ 6 +
    m.step % 16 * 2 ^ 8 + m.fstep % 16 * 2 ^ 12)

/-- STCTL as it reads: CLR and KIND. -/
def stCtl (m : Module) : W64 := BitVec.ofNat 64 (boolNat m.clr * 4 + boolNat m.warm * 2)

/-- PRE as it reads (Table 22.5). -/
def preReg (q : FaultQ) : W64 :=
  q.preSeq.setWidth 64 ||| (q.preState.setWidth 64 <<< 24) ||| (q.preDeadline.setWidth 64 <<< 32) |||
  (q.preMode.setWidth 64 <<< 62)

/-- Register k of an aperture. -/
def Aperture.reg (a : Aperture) (k : Nat) : W64 :=
  match k with | 0 => a.base | 1 => a.geo | 2 => a.str | _ => a.ctl

/-- FWSTAT (Table 25.3). -/
def fwStat (m : Module) : W64 :=
  BitVec.ofNat 64 (m.fwBusy.toNat + boolNat m.fwAct * 4 + boolNat m.fwVok * 8)

/-- Registers of the apertures (Table 24.2). -/
def aperRegister (n : Nat) : Bool := 0x400 ≤ n && n < 0x440

/-- Value of register n of die d; 0 for a number that is not assigned and for a register that is written only (R227). -/
def readRegister (s : State) (d n : Nat) : W64 :=
  let m := s.module
  let x := s.die d
  if aperRegister n then (x.aper ((n - 0x400) / 4)).reg (n % 4)
  else if 0x620 ≤ n && n < 0x624 then m.attn.getD (n - 0x620) 0
  else match n with
    | 0x100 => m.otb
    | 0x101 => m.otlen.setWidth 64
    | 0x200 => x.launch.lqbase
    | 0x201 => x.launch.lqn.setWidth 64 ||| (x.launch.head.setWidth 64 <<< 16) ||| (x.launch.grights.setWidth 64 <<< 32)
    | 0x202 => x.launch.grant
    | 0x300 => BitVec.ofNat 64 (x.faults.recs.length + x.faults.lost.toNat * 2 ^ 32)
    | 0x301 => x.faults.fqdb
    | 0x304 => preReg x.faults
    | 0x305 => x.faults.cecnt.setWidth 64
    | 0x500 => m.nrid.setWidth 64
    | 0x600 => stCtl m
    | 0x601 => stStat m
    | 0x602 => x.fspool
    | 0x603 => m.pwrlim.setWidth 64
    | 0x604 => x.cstep.setWidth 64 ||| (x.temp.setWidth 64 <<< 16) ||| (x.power.setWidth 64 <<< 32)
    | 0x610 => BitVec.ofNat 64 (m.fwOfs % 2 ^ 22 * 8)
    | 0x613 => fwStat m
    | 0x624 => m.attDst
    | 0x625 => m.attState.setWidth 64 <<< 1
    | 0x700 => x.brkctl
    | _ => 0

/-- Reserved bits of a register whose write has no row of its own; a number outside the table, and a register that is read
only, take no write. -/
def reservedBits (n : Nat) : Option W64 :=
  match n with
  | 0x100 => some 0xFF0000000000001F
  | 0x101 => some 0xFFFFFFFF00000000
  | 0x202 => some 0
  | 0x203 => some 0xFFFFFFFFFFFF0000
  | 0x300 => some 0x00000000FFFFFC00
  | 0x301 => some 0xFF00000000000006
  | 0x305 => some 0xFFFFFFFF00000000
  | 0x500 => some 0xFFFFFFFFFFFFF000
  | 0x600 => some 0xFFFFFFFFFFFFFFF8
  | 0x602 => some 0
  | 0x603 => some 0xFFFFFFFFFFFF0000
  | 0x610 => some 0xFFFFFFFFFE000007
  | 0x620 | 0x621 | 0x622 | 0x623 => some 0
  | 0x624 => some 0xFF0000000000003F
  | 0x700 => some 0xFFFFFFFFFFFF00FC
  | _ => none

/-- A far store is attached on the die (Table 25.2). -/
def farAttached (s : State) (d : Nat) : Bool := s.regions.any fun r => r.die == d && r.stores.any (·.far)

/-- What a write does to a register whose map it keeps to. -/
def storeRegister (s : State) (d n : Nat) (v : W64) : State :=
  match n with
  | 0x100 => s.updMod fun m => { m with otb := v }
  | 0x101 => s.updMod fun m => { m with otlen := v.setWidth 32 }
  | 0x202 => s.updDie d fun x => { x with launch := { x.launch with grant := v } }
  | 0x203 => s.updDie d fun x => { x with launch := { x.launch with kicks := x.launch.kicks ++ [v.setWidth 16] } }
  | 0x300 => s.updDie d fun x => { x with faults := { x.faults with lost := x.faults.lost &&& ~~~(v.extractLsb' 32 32) } }
  | 0x301 => s.updDie d fun x => { x with faults := { x.faults with fqdb := v } }
  | 0x305 => s.updDie d fun x => { x with faults := { x.faults with cecnt := x.faults.cecnt &&& ~~~(v.setWidth 32) } }
  | 0x500 => if s.module.nridLocked then s else s.updMod fun m => { m with nrid := v.setWidth 12 }
  | 0x600 => s.updMod fun m => { m with clr := v.getLsbD 2, warm := v.getLsbD 1 }
  | 0x602 => if farAttached s d then s else s.updDie d fun x => { x with fspool := v }
  | 0x603 => if 1000 ≤ v.toNat && v.toNat ≤ 15000 then s.updMod fun m => { m with pwrlim := v.setWidth 16 } else s
  | 0x610 => s.updMod fun m => { m with fwOfs := fieldNat v 3 22 }
  | 0x620 | 0x621 | 0x622 | 0x623 => s.updMod fun m => { m with attn := m.attn.set (n - 0x620) v }
  | 0x624 => s.updMod fun m => { m with attDst := v }
  | 0x700 => s.updDie d fun x => { x with brkctl := v }
  | _ => s

/-- REGISTER_WRITE: a write of a register with no row of its own, ignored whole where it sets a reserved bit (R228). -/
def execRegisterWrite (num : BitVec 16) (v : BitVec 64) (s : State) : Out :=
  match reservedBits num.toNat with
  | none => .next s
  | some m => if v &&& m = 0 then .next (storeRegister s s.focus.die num.toNat v) else .next s

/-- The step that a write of register n is (R228); none for a value that a map reserves. -/
def registerStep (n : Nat) (v : W64) : Option Instr :=
  if 2 ^ 16 ≤ n then none
  else if aperRegister n then some (.apertureRegWrite (BitVec.ofNat 16 n) v)
  else match n with
    | 0x102 => some (.xinv v)
    | 0x200 | 0x201 => some (.lqConfigWrite (BitVec.ofNat 16 n) v)
    | 0x204 => some (.tprio v)
    | 0x302 => some (.fqpop v)
    | 0x303 =>
      (match fieldNat v 62 2 with
        | 0 => some (.mctlRelease v) | 1 => some (.mctlKill v) | 2 => some (.mctlResume v) | _ => none)
    | 0x304 =>
      (match fieldNat v 62 2 with
        | 0 => some (.preAbort v) | 1 => some (.preDrain v) | 2 => some (.preFreeze v) | _ => none)
    | 0x600 =>
      if fieldNat v 3 61 != 0 then none
      else if v.getLsbD 0 then some (.moduleStart v) else some (.registerWrite (BitVec.ofNat 16 n) v)
    | 0x611 => some (.fwdata v)
    | 0x612 =>
      if fieldNat v 2 62 != 0 then none
      else (match fieldNat v 0 2 with
        | 1 => some (.fwErase v) | 2 => some (.fwVerify v) | 3 => some (.fwActivate v) | _ => none)
    | 0x625 => if v.getLsbD 0 && fieldNat v 3 61 == 0 then some (.attest v) else none
    | _ => some (.registerWrite (BitVec.ofNat 16 n) v)

/-- A write of register n of die d on someone's behalf: the step it is comes next. -/
def writeRegisterFor (who : Focus) (s : State) (d n : Nat) (v : W64) : State :=
  match registerStep n v with
  | some i => s.soon [.run { who with die := d } i]
  | none => s

/-- A write of register n of die d. -/
def writeRegister (s : State) (d n : Nat) (v : W64) : State := writeRegisterFor Focus.none s d n v

/-- A KICK write finds the FIFO full and is held (R269). -/
def kickHeld (s : State) (d n : Nat) : Bool := n == 0x203 && Config.kickFifo ≤ (s.die d).launch.kicks.length

/-- A write of register n waits: for the kick FIFO, or for the pieces translated under an aperture (R269, R323). -/
def writeHeld (s : State) (d n : Nat) : Bool := kickHeld s d n || (aperRegister n && s.writesOut)

/-! The forms (R223-R227, R229). -/

/-- TRAP records a trap for the controller and fires no more (R224). -/
def execCellTrap (m : Mods) (s : State) : Out :=
  cellTurn s m fun cx =>
    elemTurn cx [0] (fun _ => hdrMove) 0 fun _ =>
      .eff { upd := fun y => { y with stopped := true }
             after := fun s => s.updRegion cx.r.die cx.r.rblk fun r =>
               { r with cellTraps := r.cellTraps ++ [⟨cx.c, m.modF 0 15, none⟩] } }

/-- The breakpoint of a BRK with this tag is armed on its die (Table 13.7). -/
def brkArmed (s : State) (d tag : Nat) : Bool :=
  let b := (s.die d).brkctl
  b.getLsbD 0 && (b.getLsbD 1 || fieldNat b 8 8 == tag)

/-- The service record of a breakpoint: that of a TRAP of CODE 0x8000 + TAG, with the cell and the payload (R225). -/
def postBrk (s : State) (r : Region) (c tag : Nat) (pay : W64) : State :=
  post s r.place 0 srcCell false 0 [c % 2 ^ 14, 0x30 * 2 ^ 56 + 0x8000 + tag, r.pc, pay.toNat, 0, 0]

/-- BRK (R225): begun says that the head has stopped the region already. -/
def execBrk (m : Mods) (s : State) : Out :=
  cellTurn s m fun cx =>
    if cx.refuses 0 [.val, .eor, .eot, .hdr, .ctl, .swp, .rsd] hdrMove then .reject 0
    else match cx.head 0 with
      | none => .idle
      | some k =>
        let tag := m.modF 0 8
        if k.kind == .val && !k.void && !cx.x.rt.begun && brkArmed cx.s cx.r.die tag then
          .wait fun s =>
            let s := postBrk s cx.r cx.c tag k.pay
            s.updRegion cx.r.die cx.r.rblk fun r =>
              { r.updRt cx.c (fun y => { y with begun := true }) with brkDue := some cx.c }
        else .act { moveAll cx k [0] with upd := fun y => { y with begun := false } }

/-- CTLW: the write takes effect in the next cycle (R226). -/
def execCtlw (m : Mods) (s : State) : Out :=
  cellTurn s m fun cx =>
    elemTurn cx [0] (fun _ => hdrOnly 8) 0 fun os =>
      .eff { after := fun s => s.updRegion cx.r.die cx.r.rblk fun r =>
        ({ r with ctlw := r.ctlw ++ [(m.modF 0 4, opPay os 0)] } : Region).act cx.t }

/-- Authority over system registers (R227): the fault code, if it fails. -/
def systemAuth (k : Cap) : Option Nat :=
  if !k.tag then some fcTag else if k.rights &&& rSystem == 0 then some fcRights else none

/-- The access record of a system form. -/
def sysAccess (cx : Cx) (store : Nat) (k : Cap) : Access := cx.access 0 store 255 k k.cursor rSystem 0

/-- SYSRD (R227): results in firing order, no earlier than 4 cycles after they fire. -/
def execSysrd (m : Mods) (s : State) : Out :=
  cellTurn s m fun cx =>
    if cx.refuses 0 markKinds (hdrOnly 8) then .reject 0
    else if m.rdstNat != 0 && cx.pendingReg m.rdstNat then .idle
    else match cx.head 0 with
      | none => .idle
      | some k =>
        if k.kind != .val then .act { takes := [0], upd := fun y => y.addResult (cx.ready (markerOf k (plainHdr 8)) cx.t) }
        else if k.void then .act { takes := [0], upd := fun y => y.addResult (cx.ready .voidVal cx.t) }
        else if fieldNat k.pay 20 44 != 0 then .reject 0
        else
          let ks := m.modF 0 2
          let c := cx.kreg ks [0]
          if cx.kPending ks then .idle
          else match systemAuth c with
            | some code => .violate code (sysAccess cx 0 c)
            | none =>
              let v := readRegister cx.s (fieldNat k.pay 16 4) (fieldNat k.pay 0 16)
              .act { takes := [0], rdst := m.rdstNat, rdstVal := v,
                     upd := fun y => y.addResult (cx.ready (.plain .val v) (cx.t + 4)) }

/-- A SYSWR to FQPOP: its CTL waits, as for a request, until the record is acknowledged at home (R227). -/
def popsFault (cx : Cx) (d : Nat) (v : W64) (k : Cap) : Effect :=
  let q := cx.request .load k k.cursor 8 (sysAccess cx 1 k)
  { takes := [0, 1], upd := fun y => y.addResult (cx.awaits (.plain .ctl 0)),
    after := fun s => writeRegisterFor (reqFocus s.module.nextReq) (issueReq s { q with stage := .remote }) d 0x302 v }

/-- A write that the cell has begun is not complete: the next one waits, so that they complete in firing order (R227). -/
def writePending (cx : Cx) : Bool := cx.s.reqs.any fun q => q.die == cx.r.die && q.rblk == cx.r.rblk && q.cell == cx.c

/-- SYSWR (R227): a pair writes, and its CTL follows when the write is complete. -/
def execSyswr (m : Mods) (s : State) : Out :=
  cellTurn s m fun cx =>
    if cx.refuses 0 markKinds (hdrOnly 8) then .reject 0
    else if cx.refuses 1 markKinds (hdrOnly 8) then .reject 1
    else match cx.head 0, cx.head 1 with
      | some k, some v =>
        if k.kind != v.kind then .reject 1
        else if k.kind != .val || k.void || v.void then .act { takes := [0, 1] }
        else if fieldNat k.pay 20 44 != 0 then .reject 0
        else
          let ks := m.modF 0 2
          let c := cx.kreg ks [0, 1]
          let d := fieldNat k.pay 16 4
          let n := fieldNat k.pay 0 16
          if cx.kPending ks || writeHeld cx.s d n || writePending cx || (n == 0x302 && !tileRoom cx 1) then .idle
          else match systemAuth c with
            | some code => .violate code (sysAccess cx 1 c)
            | none =>
              if n == 0x302 then .act (popsFault cx d v.pay c)
              else .act { takes := [0, 1], after := fun s => writeRegister s d n v.pay,
                          upd := fun y => y.addResult (cx.ready (.plain .ctl 0) (cx.t + 1)) }
      | _, _ => .idle

/-- A performance counter (Table 13.9). -/
def perfCounter (cx : Cx) (n : Nat) : W64 :=
  let x := cx.s.die cx.r.die
  match n with
  | 0 => x.cycle
  | 1 => BitVec.ofNat 64 cx.x.rt.perfFirings
  | 2 => BitVec.ofNat 64 cx.x.rt.perfStalls
  | 3 => BitVec.ofNat 64 (lookD x.hits cx.blk 0)
  | 4 => BitVec.ofNat 64 (lookD x.misses cx.blk 0)
  | 5 => BitVec.ofNat 64 (cx.s.inFlight cx.r.die cx.blk)
  | 6 => x.faults.cecnt.setWidth 64
  | _ => BitVec.ofNat 64 (x.links.foldl (fun n l => n + l.raw) 0 + Config.dieRaw cx.r.die x.cycle.toNat)

/-- PERF (R229). -/
def execPerf (m : Mods) (s : State) : Out :=
  cellTurn s m fun cx =>
    elemTurn cx [0] (fun _ => hdrMove) (plainHdr 8) fun _ => .value (perfCounter cx (m.modF 0 4)) 0

end Sys2Proof.Machine
end

