-- ==== Sys2Proof/Machine/Sha3.lean ====
section
/-! DEFINITION. SHA3-256, which R262, R318, R326 and R327 name, as FIPS 202 defines it: Keccak-f[1600], a rate of 136 bytes,
the domain bits 01. -/

namespace Sys2Proof.Machine

/-- The 25 lanes of a Keccak state: lane (x, y) is at 5 y + x. -/
abbrev Keccak := List W64

/-- A lane. -/
def Keccak.at_ (a : Keccak) (x y : Nat) : W64 := a.getD (5 * (y % 5) + x % 5) 0

/-- Builds a state from its lanes. -/
def Keccak.make (f : Nat → Nat → W64) : Keccak := (List.range 25).map fun i => f (i % 5) (i / 5)

/-- The rotation of lane (x, y): a walk over the lanes from (1, 0) that goes from (x, y) to (y, 2 x + 3 y) meets it after t
steps, and it turns by (t + 1)(t + 2) / 2. Lane (0, 0), which the walk never meets, stays. -/
def rhoFrom (x y : Nat) : Nat → Nat → Nat → Nat → Nat
  | 0, _, _, _ => 0
  | f + 1, t, u, v => if u == x && v == y then (t + 1) * (t + 2) / 2 % 64 else rhoFrom x y f (t + 1) v ((2 * u + 3 * v) % 5)

/-- Rotation offsets of the lanes, by 5 x + y. -/
def rhoTable : List Nat := (List.range 25).map fun i => rhoFrom (i / 5) (i % 5) 24 0 1 0

/-- The next state of the 8-bit shift register whose low bits make the round constants: x^8 + x^6 + x^5 + x^4 + 1. -/
def iotaStep (r : Nat) : Nat := if r < 128 then 2 * r else (2 * r) ^^^ 0x171

/-- Bits j to 6 of a round constant from the register r, bit j at place 2^j - 1, and the register behind them. -/
def iotaBits : Nat → Nat → Nat → Nat × Nat
  | 0, _, r => (0, r)
  | f + 1, j, r =>
    let rest := iotaBits f (j + 1) (iotaStep r)
    (r % 2 * 2 ^ (2 ^ j - 1) + rest.1, rest.2)

/-- The constants of n rounds from the register r on. -/
def iotaFrom : Nat → Nat → List W64
  | 0, _ => []
  | n + 1, r => BitVec.ofNat 64 (iotaBits 7 0 r).1 :: iotaFrom n (iotaBits 7 0 r).2

/-- Round constants of the 24 rounds. -/
def iotaTable : List W64 := iotaFrom 24 1

/-- Parity of a column. -/
def Keccak.column (a : Keccak) (x : Nat) : W64 := ((List.range 5).map (a.at_ x)).foldr (· ^^^ ·) 0

/-- Step theta: each lane takes the parities of the column before it and, turned by one, of the one behind it. -/
def Keccak.theta (a : Keccak) : Keccak :=
  .make fun x y => a.at_ x y ^^^ (a.column ((x + 4) % 5) ^^^ (a.column ((x + 1) % 5)).rotateLeft 1)

/-- Steps rho and pi: the lane that comes to (x, y), turned. -/
def Keccak.scatter (a : Keccak) : Keccak :=
  .make fun x y => (a.at_ ((x + 3 * y) % 5) x).rotateLeft (rhoTable.getD (5 * ((x + 3 * y) % 5) + x) 0)

/-- Step chi along each row. -/
def Keccak.chi (a : Keccak) : Keccak := .make fun x y => a.at_ x y ^^^ (a.at_ (x + 2) y &&& ~~~(a.at_ (x + 1) y))

/-- One round: the steps in turn, and the round constant on lane (0, 0). -/
def keccakRound (a : Keccak) (rc : W64) : Keccak :=
  match a.theta.scatter.chi with
  | l :: ls => (l ^^^ rc) :: ls
  | [] => []

/-- The permutation. -/
def keccakF (a : Keccak) : Keccak := iotaTable.foldl keccakRound a

/-- Absorbs a number of blocks of 136 bytes. -/
def absorb : Nat → List Byte → Keccak → Keccak
  | 0, _, a => a
  | n + 1, bs, a =>
    let blk := bs.take 136
    let x := (List.range 17).map fun i => BitVec.ofNat 64 (leNat ((blk.drop (8 * i)).take 8))
    absorb n (bs.drop 136) (keccakF ((List.range 25).map fun i => a.getD i 0 ^^^ x.getD i 0))

/-- The message with its padding: the bits 01 1 0* 1. -/
def sha3Pad (bs : List Byte) : List Byte :=
  let n := 136 - bs.length % 136
  if n == 1 then bs ++ [0x86] else bs ++ [0x06] ++ List.replicate (n - 2) 0 ++ [0x80]

/-- The 32 bytes of a digest. -/
def sha3 (bs : List Byte) : List Byte :=
  let a := absorb (bs.length / 136 + 1) (sha3Pad bs) (List.replicate 25 0)
  (List.range 4).flatMap fun i => natLe 8 (a.getD i 0).toNat

end Sys2Proof.Machine
end

