-- ==== Sys2Proof/Machine/StreamerOps.lean ====
section
/-! DEFINITION. The streamer's CONV (R261), FPRINT (R262) and DEDUP (R263). -/

namespace Sys2Proof.Machine

/-! CONV KIND 0 and 1 (R261). -/

namespace Cmd

/-- Rows R. -/
def rows (c : Cmd) : Nat := c.pf 0 0 32
/-- Columns C. -/
def cols (c : Cmd) : Nat := c.pf 0 32 32
/-- NZMAX. -/
def nzmax (c : Cmd) : Nat := c.pf 1 0 32
/-- ETYPE. -/
def etype (c : Cmd) : Nat := c.pf 1 32 5
/-- Element size z. -/
def elSize (c : Cmd) : Nat := tyBytes c.etype
/-- Offset V of the column indices in the CSR block. -/
def csrV (c : Cmd) : Nat := 16 * ceilDiv (c.nzmax * c.elSize) 16
/-- Offset I of the row pointers. -/
def csrI (c : Cmd) : Nat := c.csrV + 16 * ceilDiv (c.nzmax * 4) 16
/-- Offset of the status word. -/
def csrS (c : Cmd) : Nat := c.csrI + 8 * ceilDiv ((c.rows + 1) * 4) 8

end Cmd

/-- Parameters of CONV KIND 0 and 1. -/
def convOk (c : Cmd) : Bool :=
  c.parZero 2 && c.parTop 1 37 && 1 ≤ c.rows && 1 ≤ c.cols && 1 ≤ c.nzmax && c.nzmax ≤ c.rows * c.cols &&
  1 ≤ c.etype && c.etype ≤ 13

/-- An element is zero: an integer 0, or a floating zero of either sign. -/
def elemZero (ty v : Nat) : Bool := if ty ≤ 8 then v == 0 else (decodeF ty v).isZero

/-- Writes a number of n bytes at offset o of the CSR block. -/
def csrWrite (c : Cmd) (o n v step : Nat) (s : State) : ERes Unit :=
  engineWrite c (c.mode false false) (c.dst s).oid (c.dstAt s + o) (natLe n v) rWrite step s

/-- The status value of a CONV KIND 0 that overflows (R261). -/
def csrOver : Nat := 2 ^ 64 - 1

/-- CONV KIND 0: the running values are n, then the row pointers so far. An overflow goes on at the status word, after the cycles of
Table 16.7. -/
def toCsrSteps : Streamed where
  ok _ _ c := convOk c
  ranges s c :=
    [⟨c.src s, c.srcAt s, c.rows * c.cols * c.elSize, rRead, 1, false⟩, ⟨c.dst s, c.dstAt s, c.csrS + 8, rWrite, 1, true⟩]
  check s c := .ok { c with acc := [0] } s
  step s c :=
    let total := c.rows * c.cols
    let e := c.item
    let n := c.acc.headD 0
    let z := c.elSize
    if e < total then
      (engineRead c (c.mode false false) (c.src s).oid (c.srcAt s + e * z) z rRead n s).bind fun bs s =>
        let v := leNat bs
        let rp := c.acc.tail ++ (if e % c.cols == 0 then [n] else [])
        let keep (n : Nat) : Cmd := { c with acc := n :: (rp ++ (if e + 1 == total then [n] else [])) }
        if elemZero c.etype v then .ok (false, 1, keep n) s
        else if n == c.nzmax then
          .ok (false, ceilDiv (c.rows + 1) 16 + 1, { c with acc := [csrOver], item := total + c.rows }) s
        else
          (csrWrite c (n * z) z v n s).bind fun _ s =>
            (csrWrite c (c.csrV + 4 * n) 4 (e % c.cols) n s).bind fun _ s => .ok (false, 1, keep (n + 1)) s
    else
      let i := e - total
      if i ≤ c.rows then
        (csrWrite c (c.csrI + 4 * i) 4 (c.acc.getD (1 + i) 0) (n + i) s).bind fun _ s => .ok (false, 1, c) s
      else (csrWrite c c.csrS 8 n (if n == csrOver then c.nzmax else n + i) s).bind fun _ s => .ok (true, 1, c) s

/-- CONV KIND 0 (R261). -/
def execConvToCsr (w : EngWords) (s : State) : Out := streamTurn w s toCsrSteps

/-- Reads n N32 of the CSR block from byte o. -/
def csrWords (c : Cmd) (o : Nat) (s : State) : Nat → ERes (List Nat)
  | 0 => .ok [] s
  | n + 1 =>
    (engineRead c (c.mode false false) (c.src s).oid (c.srcAt s + o) 4 rRead noStep s).bind fun bs s =>
      (csrWords c (o + 4) s n).bind fun vs s => .ok (leNat bs :: vs) s

/-- Row pointers do not decrease. -/
def ascends : List Nat → Bool
  | a :: b :: l => a ≤ b && ascends (b :: l)
  | _ => true

/-- CONV KIND 1's checks; the running values are the row pointers, then the column indices. -/
def fromCsrCheck (s : State) (c : Cmd) : ERes Cmd :=
  (csrWords c c.csrI s (c.rows + 1)).bind fun rp s =>
    (csrWords c c.csrV s c.nzmax).bind fun ci s =>
      if rp.headD 1 == 0 && ascends rp && rp.getLastD 0 ≤ c.nzmax && ci.all (· < c.cols) then .ok { c with acc := rp ++ ci } s
      else .stop (failCmd s c fcEngine 0 noStep)

/-- Values n up to m of the CSR block, put into a row of patterns by their columns; a later one replaces an earlier one. -/
def rowValues (c : Cmd) (n : Nat) (s : State) : Nat → List Nat → ERes (List Nat)
  | 0, row => .ok row s
  | k + 1, row =>
    let z := c.elSize
    (engineRead c (c.mode false false) (c.src s).oid (c.srcAt s + n * z) z rRead c.item s).bind fun bs s =>
      rowValues c (n + 1) s k (row.set (c.acc.getD (c.rows + 1 + n) 0) (leNat bs))

/-- Cycles of CONV KIND 1 beside those of its rows: the row pointers and column indices, and what the bytes it reads ask for beyond
the rows it writes (Table 16.7). -/
def fromCsrExtra (c : Cmd) : Nat :=
  let index := 4 * (c.rows + 1 + c.nzmax)
  let row := byteCost (c.cols * c.elSize)
  ceilDiv index 64 + (ceilDiv (index + c.acc.getD c.rows 0 * c.elSize) 64 - c.rows * row) + row - 1

/-- CONV KIND 1. -/
def fromCsrSteps : Streamed where
  ok _ _ c := convOk c
  ranges s c :=
    [⟨c.src s, c.srcAt s, c.csrI + 4 * (c.rows + 1), rRead, 1, false⟩,
     ⟨c.dst s, c.dstAt s, c.rows * c.cols * c.elSize, rWrite, 1, true⟩]
  check := fromCsrCheck
  extra _ c := fromCsrExtra c
  step s c :=
    let i := c.item
    let a := c.acc.getD i 0
    let b := c.acc.getD (i + 1) 0
    (rowValues c a s (b - a) (List.replicate c.cols 0)).bind fun row s =>
      (engineWrite c (c.mode false false) (c.dst s).oid (c.dstAt s + i * c.cols * c.elSize) (row.flatMap (natLe c.elSize)) rWrite
        i s).bind fun _ s => .ok (c.rows ≤ i + 1, byteCost (c.cols * c.elSize), c) s

/-- CONV KIND 1 (R261). -/
def execConvFromCsr (w : EngWords) (s : State) : Out := streamTurn w s fromCsrSteps

/-! CONV KIND 2 (R261). -/

/-- The distance of a to x is less than that of b, for finite values. -/
def nearer (x a b : FVal) : Bool :=
  let d (y : FVal) : FVal :=
    match x, y with
    | .fin n1 m1 e1, .fin n2 m2 e2 =>
      (match addFin .rne n1 m1 e1 (!n2) m2 e2 with | .fin _ m e => .fin false m e | v => v)
    | _, _ => .inf false
  ltF (d a) (d b)

/-- The lowest index whose value no other beats, among the candidates. -/
def bestOf (better : FVal → FVal → Bool) (vs : List (Nat × FVal)) : Option Nat :=
  (vs.foldl (fun (b : Option (Nat × FVal)) v => match b with
    | some w => if better v.2 w.2 then some v else b
    | none => some v) none).map (·.1)

/-- The code of a B16 element under a codebook; none where the manual gives the element no entry (R261). A signalling NaN raises NV only
where the codebook has no NaN entry, as R261 says of every NaN (log 64; R69). -/
def c4Code (book : List Nat) (x : FVal) : Option Nat × FlagBits :=
  let vs := (List.range 16).map fun j => (j, decodeF 11 (book.getD j 0))
  let nums := vs.filter fun v => !v.2.isNaN
  let fins := nums.filter fun v => !v.2.isInf
  match x with
  | .nan .. =>
    (match vs.find? fun v => v.2.isNaN with
     | some v => (some v.1, noFlag)
     | none => (some 0, flagNV ||| flagNX))
  | .inf n =>
    (match nums.find? fun v => v.2 == .inf n with
     | some v => (some v.1, noFlag)
     | none => (bestOf (if n then fun a b => ltF a b else fun a b => ltF b a) fins, flagNX))
  | .fin .. =>
    (match bestOf (nearer x) nums with
     | some j => (some j, if eqF (decodeF 11 (book.getD j 0)) x then noFlag else flagNX)
     | none => (none, flagNX))

/-- The code that is written: a free value of the element and the codebook where the codebook offers no entry. -/
def c4Write (book : List Nat) (v : Nat) (r : Option Nat × FlagBits) : Nat :=
  r.1.getD (Config.freeCode (book.foldl (fun a x => a * 2 ^ 16 + x) v)).toNat

/-- CONV KIND 2. -/
def toC4Steps : Streamed where
  ok _ _ c := c.parZero 1 && c.parTop 0 32
  ranges s c :=
    [⟨c.src s, c.srcAt s, 2 * c.rows, rRead, 1, false⟩, ⟨c.dst s, c.dstAt s, (c.rows + 1) / 2, rWrite, 1, true⟩]
  check := noCheck
  step s c :=
    let n := c.rows
    let k := c.item
    let m := min 2 (n - 2 * k)
    if n ≤ 2 * k then .ok (true, 1, c) s
    else
      (engineRead c (c.mode false false) (c.src s).oid (c.srcAt s + 4 * k) (2 * m) rRead k s).bind fun bs s =>
        let x0 := leNat (bs.take 2)
        let x1 := leNat (bs.drop 2)
        let r0 := c4Code c.book (decodeF 11 x0)
        let r1 : Option Nat × FlagBits := if m == 2 then c4Code c.book (decodeF 11 x1) else (some 0, noFlag)
        let v := c4Write c.book x0 r0 + 16 * c4Write c.book x1 r1
        (engineWrite c (c.mode false false) (c.dst s).oid (c.dstAt s + k) (natLe 1 v) rWrite k s).bind fun _ s =>
          .ok (n ≤ 2 * k + 2, 1, c) (engineFlags s c (r0.2 ||| r1.2))

/-- CONV KIND 2 (R261). -/
def execConvToC4 (w : EngWords) (s : State) : Out := streamTurn w s toC4Steps

/-! FPRINT (R262). -/

/-- FPRINT. -/
def fprintSteps : Streamed where
  ok _ _ c := c.parZero 1 && c.parTop 0 20 && c.par 0 != 0
  ranges s c :=
    [⟨c.src s, c.srcAt s, 4096 * (c.par 0).toNat, rRead, 1, false⟩, ⟨c.dst s, c.dstAt s, 16 * (c.par 0).toNat, rWrite, 1, true⟩]
  check := noCheck
  extra _ _ := 63
  step s c :=
    let u := c.item
    (engineRead c (c.mode false false) (c.src s).oid (c.srcAt s + 4096 * u) 4096 rRead u s).bind fun bs s =>
      (engineWrite c (c.mode false false) (c.dst s).oid (c.dstAt s + 16 * u) ((sha3 bs).take 16) rWrite u s).bind fun _ s =>
        .ok ((c.par 0).toNat ≤ u + 1, 64, c) s

/-- FPRINT (R262). -/
def execFprint (w : EngWords) (s : State) : Out := streamTurn w s fprintSteps

/-! DEDUP (R263). -/

/-- Place of an object's descriptor (R161). -/
def descAt (s : State) (oid : Nat) : Nat := s.module.otb.toNat + 32 * oid
/-- Descriptor of an object. -/
def objDesc (s : State) (oid : Nat) : BitVec 256 := BitVec.ofNat 256 (physNat s (descAt s oid) 32)
/-- Physical address of its extent list. -/
def objXlist (s : State) (oid : Nat) : Nat := fieldNat (objDesc s oid) 200 56
/-- Its first extent entry (R162). -/
def objExtent (s : State) (oid : Nat) : BitVec 128 := BitVec.ofNat 128 (physNat s (objXlist s oid) 16)
/-- PDBASE of its first extent. -/
def objPd (s : State) (oid : Nat) : Nat := fieldNat (objExtent s oid) 8 56
/-- PSIZE of its first extent. -/
def objPsize (s : State) (oid : Nat) : Nat := fieldNat (objExtent s oid) 6 2

/-- Wants the table entries of an object that lie on another module: descriptor, first extent entry, its first page descriptor. -/
def needObj (s : State) (oid : Nat) : State :=
  let s := needPhys s (descAt s oid) 32
  let s := if s.wants.isEmpty then needPhys s (objXlist s oid) 16 else s
  if s.wants.isEmpty then needPhys s (objPd s oid) 16 else s

/-- A candidate object: VALID, one extent of one page, 4,096 bytes long (R263). -/
def candidateOk (s : State) (oid : Nat) : Bool :=
  let d := objDesc s oid
  oid < s.module.otlen.toNat && descValid d && fieldNat d 184 16 == 1 && fieldNat (objExtent s oid) 64 20 == 1 &&
  fieldNat d 140 44 == 4096

/-- Drops the cached translations of an object on every die (R165). -/
def dropXlates (s : State) (f : Nat → Bool) : State :=
  { s with dies := s.dies.map fun d => { d with xlates := d.xlates.filter fun x => !f x.oid } }

/-- Writes 16 bytes of a table at home, as a synchronising write of the task. -/
def pokeTable (s : State) (q a : Nat) (v : Nat) : State := pokePhys s a (natLe 16 v) q

/-- REFS of a page descriptor changes (R263): saturating up, or down if it is not 0. -/
def bumpRefs (s : State) (q a : Nat) (up : Bool) : State :=
  let g := physNat s a 16
  let n := g / 2 ^ 40 % 2 ^ 32
  let n' := if up then min (n + 1) (2 ^ 32 - 1) else n - 1
  pokeTable s q a (g - n * 2 ^ 40 + n' * 2 ^ 40)

/-- COW of an object's extent is set. -/
def setCow (s : State) (q oid : Nat) : State := pokeTable s q (objXlist s oid) ((objExtent s oid) ||| 32#128).toNat

/-- Object i comes to share the page of object j (R263). -/
def shareObj (s : State) (q i j : Nat) : State :=
  if objPd s i == objPd s j then dropXlates (setCow s q j) (· == j)
  else
    let s := bumpRefs (bumpRefs s q (objPd s j) true) q (objPd s i) false
    let x := (objExtent s i).toNat
    let s := pokeTable s q (objXlist s i) ((x - objPd s i * 2 ^ 8 + objPd s j * 2 ^ 8) ||| 32)
    dropXlates (setCow s q j) fun o => o == i || o == j

/-- Reads the candidates from number i on: object and fingerprint of each (R263). -/
def readCandidates (c : Cmd) (s : State) (i : Nat) : Nat → ERes (List Nat)
  | 0 => .ok [] s
  | n + 1 =>
    let o := c.srcAt s + 32 * i
    (engineRead c (c.mode false false) (c.src s).oid o 32 rRead noStep s).bind fun bs s =>
      let md := c.mode false false
      let tag : Bool := o % 16 == 0 && (spotOf s md (c.src s).oid o false).elim false (unitTag s md)
      let k : Cap := ⟨BitVec.ofNat 128 (leNat (bs.take 16)), tag⟩
      let s := if s.wants.isEmpty && k.tag then needObj s k.oid else s
      if k.tag && k.rights &&& rRead == rRead && candidateOk s k.oid then
        (readCandidates c s (i + 1) n).bind fun l s => .ok (k.oid :: leNat (bs.drop 16) :: l) s
      else .stop (failCmd s c fcEngine 0 noStep)

/-- Object of candidate i. -/
def Cmd.candOid (c : Cmd) (i : Nat) : Nat := c.acc.getD (2 * i) 0
/-- Fingerprint of candidate i. -/
def Cmd.candFp (c : Cmd) (i : Nat) : Nat := c.acc.getD (2 * i + 1) 0

/-- Looks for the first kept candidate that equals candidate i; the result and the compares made (R263). -/
def findTwin (c : Cmd) (i : Nat) (s : State) : List Nat → Nat → ERes (Nat × Nat)
  | [], n => .ok (i, n) s
  | j :: js, n =>
    if look c.scales j != some j || c.candFp j != c.candFp i then findTwin c i s js n
    else
      let s := needObj (needObj s (c.candOid i)) (c.candOid j)
      if !s.wants.isEmpty then .stop s
      else if objPsize s (c.candOid j) != objPsize s (c.candOid i) then findTwin c i s js n
      else
        (engineRead c (c.mode false false) (c.candOid i) 0 4096 rRead i s).bind fun a s =>
          (engineRead c (c.mode false false) (c.candOid j) 0 4096 rRead i s).bind fun b s =>
            if a == b then .ok (j, n + 1) s else findTwin c i s js (n + 1)

/-- DEDUP: the running values are the candidates, and scales holds the results so far. -/
def dedupSteps : Streamed where
  ok _ _ c := c.parZero 1 && c.parTop 0 13 && 1 ≤ (c.par 0).toNat && (c.par 0).toNat ≤ 4096 && c.f1 32 32 == 0
  ranges s c :=
    [⟨c.src s, c.srcAt s, 36 * (c.par 0).toNat, rRead ||| rWrite, 1, true⟩,
     ⟨c.dst s, (c.dst s).base, 0, rSystem, 1, true⟩]
  check s c := (readCandidates c s 0 (c.par 0).toNat).bind fun l s => .ok { c with acc := l } s
  step s c :=
    let k := (c.par 0).toNat
    let i := c.item
    if k ≤ i then .ok (true, 1, c) s
    else
      (findTwin c i s (List.range i) 0).bind fun r s =>
        let s := if r.1 == i then s else needObj (needObj s (c.candOid i)) (c.candOid r.1)
        let remap : Bool := r.1 != i && objPd s (c.candOid i) != objPd s (c.candOid r.1)
        let s := if r.1 == i then s else shareObj s c.seq (c.candOid i) (c.candOid r.1)
        (engineWrite c (c.mode false false) (c.src s).oid (c.srcAt s + 32 * k + 4 * i) (natLe 4 r.1) rWrite i s).bind fun _ s =>
          .ok (false, max 1 (64 * r.2 + if remap then 4 else 0), { c with scales := c.scales ++ [(i, r.1)] }) s

/-- DEDUP (R263). -/
def execDedup (w : EngWords) (s : State) : Out := streamTurn w s dedupSteps

end Sys2Proof.Machine
end

