-- ==== Sys2Proof/Machine/Xfer.lean ====
section
/-! DEFINITION. Block transfers: the link compressor (R317), the send window with its references (R318), and XFER (R264). -/

namespace Sys2Proof.Machine

/-! Compression (R317). -/

/-- Tag of a word after another, and the bytes it adds. -/
def wordTag (prev w : Nat) : Nat × List Byte :=
  if w == 0 then (0, [])
  else if w == prev then (1, [])
  else if w / 2 ^ 16 == prev / 2 ^ 16 then (2, natLe 2 w)
  else (3, natLe 8 w)

/-- Tags and added bytes of words from word i on. -/
def compressWords : Nat → Nat → List Nat → Nat × List Byte
  | _, _, [] => (0, [])
  | i, prev, w :: ws =>
    let t := wordTag prev w
    let r := compressWords (i + 1) w ws
    (t.1 * 4 ^ i + r.1, t.2 ++ r.2)

/-- The code of a block of 256 bytes: its tag field and the added bytes. -/
def compressBlock (bs : List Byte) : List Byte :=
  let r := compressWords 0 0 ((List.range 32).map fun i => leNat ((bs.drop (8 * i)).take 8))
  natLe 8 r.1 ++ r.2

/-- The words from word i on, restored from the tags and the bytes that are left. -/
def restoreWords (tags : Nat) : Nat → Nat → List Byte → Nat → List Byte
  | 0, _, _, _ => []
  | n + 1, prev, bs, i =>
    match tags / 4 ^ i % 4 with
    | 0 => natLe 8 0 ++ restoreWords tags n 0 bs (i + 1)
    | 1 => natLe 8 prev ++ restoreWords tags n prev bs (i + 1)
    | 2 =>
      let w := prev / 2 ^ 16 * 2 ^ 16 + leNat (bs.take 2)
      natLe 8 w ++ restoreWords tags n w (bs.drop 2) (i + 1)
    | _ =>
      let w := leNat (bs.take 8)
      natLe 8 w ++ restoreWords tags n w (bs.drop 8) (i + 1)

/-- The block of a code. -/
def expandBlock (code : List Byte) : List Byte := restoreWords (leNat (code.take 8)) 32 0 (code.drop 8) 0

/-- Bytes that follow the tag field of a code. -/
def codeBytes (tags : Nat) : Nat :=
  (List.range 32).foldl (fun n i => n + (match tags / 4 ^ i % 4 with | 2 => 2 | 3 => 8 | _ => 0)) 0

/-- Flits of a number of bytes in pieces of 56, numbered from 0 (Table 24.1). -/
def blockFlits (dst src tag : Nat) (esc : Bool) (bs : List Byte) : List Flit :=
  (List.range ((bs.length + 55) / 56)).map fun i =>
    { mkFlit dst src 5 tag ((bs.drop (56 * i)).take 56) with esc := BitVec.ofNat 1 (boolNat esc), fidx := BitVec.ofNat 3 i }

/-- Slots of a window (R318). -/
def windowSlots : Nat := 4096

/-- The low 64 bits of a block's digest (R318). -/
def blockHash (bs : List Byte) : W64 := BitVec.ofNat 64 (leNat ((sha3 bs).take 8))

/-- What a block goes out as on a port: a slot that holds it, or its flits and whether they are raw (R317, R318). -/
def codeOf (p : LinkPort) (bs : List Byte) : Nat ⊕ (List Byte × Bool) :=
  let hit := match look p.hashes (blockHash bs) with
    | some n => if p.sent - n ≤ windowSlots && look p.sendWin (n % windowSlots) == some bs then some (n % windowSlots) else none
    | none => none
  match hit with
  | some k => .inl k
  | none => let code := compressBlock bs; if 224 < code.length then .inr (bs, true) else .inr (code, false)

/-- A block enters the next slot of the send window and the hash cache (R318). -/
def LinkPort.enter (p : LinkPort) (bs : List Byte) : LinkPort :=
  let h := blockHash bs
  let cache := (del p.hashes h) ++ [(h, p.sent)]
  { p with sent := p.sent + 1, sendWin := put p.sendWin (p.sent % windowSlots) bs, hashes := cache.drop (cache.length - 4096) }

/-- Sends a block of 256 bytes on a port: by reference, compressed or raw (R317, R318). -/
def sendBlockOn (s : State) (n dst tag : Nat) (bs : List Byte) : State :=
  let p := s.port n
  let src := s.module.nrid.toNat
  match codeOf p bs with
  | .inl k =>
    let f : Flit := { mkFlit dst src 6 tag [] with slot := BitVec.ofNat 12 k }
    { putPort s ((p.enter bs).keep [{ f with payload := bs }]) with outbox := s.outbox ++ [f] }
  | .inr (body, raw) =>
    sendOn (putPort s { p.enter bs with raw := p.raw + boolNat raw }) n (blockFlits dst src tag raw body)

/-- Sends a block on the port of its granule (R315). -/
def sendBlock (s : State) (dst tag pa : Nat) (bs : List Byte) : State :=
  if s.portsUp.isEmpty then s else sendBlockOn s (s.portFor dst pa) dst tag bs

/-- The flit that says where the next data of its tag go: the object and the offset behind the operation code, then the count of bytes
(log 39). -/
def announceFlit (s : State) (tag pa oid ofs n : Nat) : Flit :=
  requestFlit s 4 tag pa 64 (natLe 1 codeBeat ++ natLe 4 oid ++ natLe 6 ofs ++ natLe 2 n)

/-- Sends a part of a transfer to another module, to be acknowledged to an actor: a whole block of 256 bytes, or the bytes as a write. -/
def sendBeat (who : Focus) (s : State) (pa oid ofs : Nat) (bs : List Byte) : State :=
  let tag := s.newTag
  let s := s.expect who none
  let s := sendFlit s (announceFlit s tag pa oid ofs bs.length)
  if bs.length == 256 then sendBlock s (paModule pa) tag pa bs else sendFlits s (writeFlits s tag pa bs false)

/-! XFER (R264). -/

/-- Bytes of a chunk that one translation covers: every page is a multiple of it. -/
def chunkBytes : Nat := 65536

/-- Chunks of [o, o + n). -/
def chunkCount (o n : Nat) : Nat := (o + n + chunkBytes - 1) / chunkBytes - o / chunkBytes

/-- Mark of a chunk of an aperture's view: its bytes are reached through the view. -/
def viewMark : Nat := 2 ^ 56

/-- First byte of [o, o + n) that a translation refuses, with its code. -/
def firstBad (s : State) (md : Mode) (oid o n : Nat) (write : Bool) : Option (Nat × Nat) :=
  (List.range n).findSome? fun i =>
    match translate s md.die md.blk oid (o + i) write false with
    | (.bad code, _) => some (code, o + i)
    | _ => none

/-- Place of the bytes [o, o + n) of an object within one chunk: the physical address of o, or the view of an aperture, whose every byte
must be one that it serves (R164, R264, R321, R322); or a fault. -/
def chunkPlace (s : State) (md : Mode) (oid o n : Nat) (write : Bool) : (Nat × Nat ⊕ Nat) × State :=
  match translate s md.die md.blk oid o write false with
  | (.bad code, s) => (.inl (code, o), s)
  | (.aper d k, s) =>
    let ap := (s.die d).aper k
    let s := (List.range n).foldl (fun s i => needAper s ap (o + i)) s
    let x := aperBad s ap o n write
    if (aperByte s ap x write).isNone then (.inl (fcAperture, x), s) else (.inr (viewMark + fieldNat ap.base 6 50 * 64), s)
  | (.ok pa, s) =>
    match translate s md.die md.blk oid (o + n - 1) write false with
    | (.ok _, s) => (.inr pa, s)
    | (_, s) => (.inl ((firstBad s md oid o n write).getD (fcBounds, o)), s)

/-- Places of the chunks of the bytes [lo, hi) of an object, from chunk number i on. -/
def translateChunks (c : Cmd) (s : State) (k : Cap) (write : Bool) (lo hi need i : Nat) : Nat → ERes (List Nat)
  | 0 => .ok [] s
  | n + 1 =>
    let o := max lo (i * chunkBytes)
    let e := min hi ((i + 1) * chunkBytes)
    match chunkPlace s (c.mode false false) k.oid o (e - o) write with
    | (.inr pa, s) =>
      (translateChunks c s k write lo hi need (i + 1) n).bind fun l s =>
        .ok ((if viewMark ≤ pa then pa else pa - (o - i * chunkBytes)) :: l) s
    | (.inl (code, x), s) => .stop (engineBad s c write code k.oid x need 0 noStep)

namespace Cmd

/-- LEN of XFER. -/
def xlen (c : Cmd) : Nat := (c.par 0).toNat
/-- DIR: 1 is get. -/
def isGet (c : Cmd) : Bool := c.modeF % 2 == 1
/-- Objects and offsets of a committed XFER. -/
def xSrcOid (c : Cmd) : Nat := c.acc.getD 0 0
/-- Source offset. -/
def xSrcOfs (c : Cmd) : Nat := c.acc.getD 1 0
/-- Destination object. -/
def xDstOid (c : Cmd) : Nat := c.acc.getD 2 0
/-- Destination offset. -/
def xDstOfs (c : Cmd) : Nat := c.acc.getD 3 0
/-- Physical address of source byte i of a committed XFER. -/
def xSrcPa (c : Cmd) (i : Nat) : Nat :=
  let o := c.xSrcOfs + i
  c.acc.getD (4 + (o / chunkBytes - c.xSrcOfs / chunkBytes)) 0 + o % chunkBytes
/-- The source is an aperture's view. -/
def xSrcView (c : Cmd) : Bool := viewMark ≤ c.acc.getD 4 0
/-- The destination is. -/
def xDstView (c : Cmd) : Bool := viewMark ≤ c.acc.getD (4 + chunkCount c.xSrcOfs c.xlen) 0
/-- Physical address of destination byte i. -/
def xDstPa (c : Cmd) (i : Nat) : Nat :=
  let o := c.xDstOfs + i
  c.acc.getD (4 + chunkCount c.xSrcOfs c.xlen + (o / chunkBytes - c.xDstOfs / chunkBytes)) 0 + o % chunkBytes

end Cmd

/-- The translation pass: every byte of one range on this module, every byte of the other on one other module. -/
def xferCheck (s : State) (c : Cmd) : ERes Cmd :=
  let k := c.src s
  let j := c.dst s
  let a := c.srcAt s
  let b := c.dstAt s
  (translateChunks c s k false a (a + c.xlen) (rRead ||| rShare) (a / chunkBytes) (chunkCount a c.xlen)).bind fun xs s =>
    (translateChunks c s j true b (b + c.xlen) (rWrite ||| rShare) (b / chunkBytes) (chunkCount b c.xlen)).bind fun ys s =>
      let here := if c.isGet then ys else xs
      let there := if c.isGet then xs else ys
      if here.all s.isLocal && there.all (fun p => !s.isLocal p && paModule p == paModule (there.headD 0)) then
        .ok { c with acc := [k.oid, a, j.oid, b] ++ xs ++ ys } s
      else .stop (failCmd s c fcEngine 0 noStep)

/-- XFER's parameters, ranges and checks, with steps of its own. -/
def xferOp (step : State → Cmd → ERes (Bool × Nat × Cmd)) : Streamed where
  ok _ _ c := c.parZero 1 && 1 ≤ c.xlen && c.xlen < 2 ^ 32
  ranges s c :=
    [⟨c.src s, c.srcAt s, c.xlen, rRead ||| rShare, 1, false⟩, ⟨c.dst s, c.dstAt s, c.xlen, rWrite ||| rShare, 1, true⟩]
  check := xferCheck
  extra s c := chunkCount (c.srcAt s) c.xlen + chunkCount (c.dstAt s) c.xlen
  step := step

/-- Sends bytes [i, i + bs.length) of a put, a 64-byte piece of the destination at a time. -/
def putPieces (c : Cmd) (s : State) (i : Nat) (bs : List Byte) : State :=
  (pieces (c.xDstOfs + i) bs.length).foldl (fun s p =>
    let j := p.1 - c.xDstOfs
    sendBeat s.focus s (c.xDstPa j) c.xDstOid p.1 ((bs.drop (j - i)).take p.2)) s

/-- What a put has read and not yet sent goes out: the bytes ahead of byte i. -/
def putKept (c : Cmd) (s : State) (i : Nat) : State :=
  if c.buf.isEmpty then s
  else
    let bs := c.buf.map fun e => BitVec.ofNat 8 e.x0
    (putPieces c s (i - bs.length) bs).updCmd c.id fun x => { x with buf := [] }

/-- Source bytes [i, i + n) of a put: at home, by the addresses that the pass left, checked for races while the task lives. A fault finds
every step before it completed, so what they have read goes out first (R252). -/
def putRead (c : Cmd) (s : State) (i n : Nat) : ERes (List Byte) :=
  let md := c.mode false false
  let r := if c.xSrcView then loadAt s md c.xSrcOid (c.xSrcOfs + i) n false
    else loadChunks s md (c.xSrcOfs + i) ((List.range n).map fun j => Chunk.at (paLocal (c.xSrcPa (i + j))))
  match r with
  | .ok bs s => .ok bs s
  | .bad code x tag s => .stop (engineBad (putKept c s i) { c with buf := [] } false code c.xSrcOid x (rRead ||| rShare) tag c.item)

/-- One step of a put: 64 bytes are read; with the last of a block of 256 the block goes out, and with the last step what is
left. It ends when everything is acknowledged (R252, R264, R317). A view takes its bytes as writes of their own (R321). -/
def putStep (s : State) (c : Cmd) : ERes (Bool × Nat × Cmd) :=
  let o := 64 * c.item
  if c.xlen ≤ o then .ok (true, 1, c) s
  else
    let n := min 64 (c.xlen - o)
    (putRead c s o n).bind fun bs s =>
      if c.xDstView then
        (engineWrite c (c.mode false false) c.xDstOid (c.xDstOfs + o) bs (rWrite ||| rShare) c.item s).bind fun _ s => .ok (false, 1, c) s
      else
        let all := c.buf.map (fun e => BitVec.ofNat 8 e.x0) ++ bs
        let i := o + n - all.length
        if all.length < 256 && o + n < c.xlen then .ok (false, 1, { c with buf := all.map fun b => ⟨b.toNat, 0, 0⟩ }) s
        else
          let s := if all.length == 256 && c.xDstPa (i + 255) == c.xDstPa i + 255 then
              sendBeat s.focus s (c.xDstPa i) c.xDstOid (c.xDstOfs + i) all
            else putPieces c s i all
          .ok (false, 1, { c with buf := [] }) s

/-- XFER with DIR 0 (R264). -/
def execXferPut (w : EngWords) (s : State) : Out := streamTurn w s (xferOp putStep)

/-- Bytes of a port's hold buffer (R316). -/
def holdBytes : Nat := 16384

/-- The hold buffer of a port takes n more bytes. -/
def LinkPort.holdRoom (p : LinkPort) (n : Nat) : Bool := decide ((p.hold.flatMap (·.bytes)).length + n ≤ holdBytes)

/-- The region and task of a beat: those of the transfer of this module that it belongs to. -/
def beatPlace (s : State) (port : Nat) (b : Beat) : Where :=
  match (if b.src == s.module.nrid.toNat then s.cmd b.tag else none) with
  | some c => c.place
  | none => Where.die' (Config.portDie port)

/-- The one PAGE_ABSENT record of a beat whose destination page is absent, at its first faulting byte (R316). -/
def postHeld (s : State) (port : Nat) (b : Beat) (x : Nat) : State :=
  if b.posted then s
  else post s (beatPlace s port b) fcAbsent srcLink false 0 (⟨0, 0, 7, 255, false, b.oid, x % 2 ^ 44, rWrite, 0, 0, [], 0⟩ : Access).words

/-- A beat goes to the hold buffer, which stops the port (R316). -/
def holdBeat (s : State) (port : Nat) (b : Beat) : State :=
  let x := s.port port
  putPort s { x with hold := x.hold ++ [b], holdAt := if x.hold.isEmpty then s.now (Config.portDie port) + 4096 else x.holdAt }

/-- A beat that finds its destination page absent, byte x of its object the first that faults: its record, and it is held (R316). -/
def stopBeat (s : State) (port : Nat) (b : Beat) (x : Nat) : State := holdBeat (postHeld s port b x) port { b with posted := true }

/-- A beat of a command is held at some port. -/
def beatHeld (s : State) (c : Cmd) : Bool :=
  s.dies.any fun d => d.links.any fun p => p.hold.any fun b => b.src == s.module.nrid.toNat && b.tag == c.id

/-- Source bytes [i, i + n) of a get: what is left of a block of 256 that was asked for, a new one, or units (R264, R317). The bytes
behind those of the step stay in the command. -/
def getRead (c : Cmd) (s : State) (i n : Nat) : ERes (List Byte × List Byte) :=
  let left := c.buf.map fun e => BitVec.ofNat 8 e.x0
  let pa := c.xSrcPa i
  if c.xSrcView then
    (engineRead c (c.mode false false) c.xSrcOid (c.xSrcOfs + i) n (rRead ||| rShare) c.item s).bind fun bs s => .ok (bs, []) s
  else if !left.isEmpty then .ok (left.take n, left.drop n) s
  else if i + 256 ≤ c.xlen && c.xSrcPa (i + 255) == pa + 255 then
    match s.answer (.block pa) with
    | some a => .ok (a.bytes.take n, a.bytes.drop n) s
    | none => .stop (s.want (.block pa))
  else
    let s := (List.range n).foldl (fun s j => needFar s (c.xSrcPa (i + j)) 1) s
    .ok ((List.range n).map fun j => s.farByte (c.xSrcPa (i + j)), []) s

/-- One step of a get: 64 bytes; a destination page that has become absent holds the beat at the port, as a beat held there before it does,
and the command goes on once it is written (R264, R316). -/
def getStep (s : State) (c : Cmd) : ERes (Bool × Nat × Cmd) :=
  let o := 64 * c.item
  let k : Cmd → List Byte → Cmd := fun c l => { c with buf := l.map fun b => ⟨b.toNat, 0, 0⟩ }
  if beatHeld s c then .stop s
  else if c.xlen ≤ o then .ok (true, 1, c) s
  else
    let n := min 64 (c.xlen - o)
    (getRead c s o n).bind fun r s =>
      let port := s.portFor (paModule (c.xSrcPa o)) (c.xSrcPa o)
      let b : Beat := ⟨s.module.nrid.toNat, c.id, c.xDstPa o, c.xDstOid, c.xDstOfs + o, r.1, false⟩
      if !(s.port port).hold.isEmpty then
        (if (s.port port).holdRoom n then .ok (false, 1, k c r.2) (holdBeat s port b) else .stop s)
      else match storeAt s (c.mode false false) c.xDstOid (c.xDstOfs + o) r.1 false with
      | .ok _ s => .ok (false, 1, k c r.2) s
      | .bad code x tag s =>
        if pageCode code then .ok (false, 1, k c r.2) (stopBeat s port b x)
        else .stop (engineBad s c true code c.xDstOid x (rWrite ||| rShare) tag c.item)

/-- XFER with DIR 1 (R264). -/
def execXferGet (w : EngWords) (s : State) : Out := streamTurn w s (xferOp getStep)

end Sys2Proof.Machine
end

