-- ==== Sys2Proof/Machine/Host.lean ====
section
/-! DEFINITION. The module and the outside: XINV (R165), aperture registers (R320, R323), the host port (R311), Nareb links
(R312, R314-R316, R318) and RoCE writes (R319). -/

namespace Sys2Proof.Machine

/-! Registers with an effect of their own. -/

/-- XINV: every memory tile drops its cached entries of the object, or of all (R165). -/
def execXinv (v : BitVec 64) (s : State) : Out :=
  if fieldNat v 33 31 != 0 then .next s
  else .next (dropXlates s fun o => v.getLsbD 32 || o == fieldNat v 0 32)

/-- Reserved bits of register k of an aperture (Table 24.2). -/
def aperReserved (k : Nat) : W64 :=
  match k with
  | 0 => 0xFF0000000000003F
  | 1 => 0x000000000000FFFC
  | 2 => 0xFFFFFFFF00000000
  | _ => 0x7FFFFFFFFFFFE0F0

/-- An XF that is not reserved (Table 24.2). -/
def aperXfOk (v : W64) : Bool := 1 ≤ fieldNat v 0 4 && fieldNat v 0 4 ≤ 5

/-- An aperture with another value in register k. -/
def Aperture.setReg (a : Aperture) (k : Nat) (v : W64) : Aperture :=
  match k with
  | 0 => { a with base := v }
  | 1 => { a with geo := v }
  | 2 => { a with str := v }
  | _ => { a with ctl := v }

/-- The event goes back to the head of what arrives. -/
def holdInput (s : State) (i : Instr) : State := { s with inputs := .run s.focus i :: s.inputs }

/-- APERTURE_REG_WRITE (R320, R323): a piece whose memory is this module's is performed in the step that translates it; while a write
that has left for another module is not acknowledged there, the register keeps its value. -/
def execApertureRegWrite (num : BitVec 16) (v : BitVec 64) (s : State) : Out :=
  let n := num.toNat - 0x400
  let k := n % 4
  if s.writesOut then .next (holdInput s (.apertureRegWrite num v))
  else if v &&& aperReserved k != 0 || (k == 3 && !aperXfOk v) then .next s
  else .next (s.updDie s.focus.die fun x =>
    { x with apertures := put x.apertures (n / 4) ((x.aper (n / 4)).setReg k v) })

/-! The host port (R311). -/

/-- An answer to the host. -/
def reply (s : State) (r : HostReply) : State := { s with replies := s.replies ++ [r] }

/-- Bytes of BAR0 and of one die's window in it. -/
def bar0Bytes : Nat := 0x2000000
/-- Bytes of one die's window. -/
def bar0Window : Nat := 0x200000

/-- Registers of Table 25.2, which answer during a start. -/
def startRegister (n : Nat) : Bool := 0x600 ≤ n && n ≤ 0x604

/-- Launch registers (Table 20.1). -/
def launchRegister (n : Nat) : Bool := 0x200 ≤ n && n ≤ 0x204

/-- The host reaches a register: during a start those of Table 25.2 alone, in recovery all but the launch registers (R325,
R330). -/
def hostReaches (m : Module) (n : Nat) : Bool :=
  match m.phase with
  | .starting => startRegister n
  | .recovery => !launchRegister n
  | .running => true

/-- HOST_BAR0_ACCESS (R311): 8 bytes at an 8-aligned offset reach a register; any other access is unsupported. A KICK that finds
the FIFO full is held (R269), as is an aperture register whose pieces are under way (R323), and a frozen port holds every request (R296). -/
def execHostBar0Access (wr : Bool) (ofs len : Nat) (v : BitVec 64) (s : State) : Out :=
  let d := ofs / bar0Window
  let n := ofs % bar0Window / 8
  if s.module.hostFrozen then .next (holdInput s (.hostBar0Access wr ofs len v))
  else if len != 8 || ofs % 8 != 0 || bar0Bytes ≤ ofs then .next (reply s .unsupported)
  else if !wr then .next (reply s (.data (if hostReaches s.module n then readRegister s d n else 0)))
  else if !hostReaches s.module n then .next (reply s .done)
  else if writeHeld s d n then .next (holdInput s (.hostBar0Access wr ofs len v))
  else .next (writeRegister (reply s .done) d n v)

/-- The record of a host access to local memory (R292, R311). -/
def hostAccess (wr : Bool) (adr : Nat) : Access := unitAccess wr 0 adr

/-- A host access that fails a check: its record, and the port is frozen as a master with the request held (R296, R311). -/
def freezeHost (s : State) (wr : Bool) (adr : Nat) (i : Instr) : State :=
  let s := post s (Where.die' 0) fcBounds srcHost false 0 (hostAccess wr adr).words
  holdInput (s.updMod fun m => { m with hostFrozen := true }) i

/-- HOST_HDM_ACCESS (R311): a read or write of bonded memory at home, exempt from race detection; during a start and in recovery it is
unsupported (R325, R330). An access that leaves the window fails its check; a read that its retry does not mend is aborted, with no
data, and its page retired (R309). -/
def execHostHdmAccess (wr : Bool) (adr len : Nat) (data : List Byte) (s : State) : Out :=
  if s.module.hostFrozen then .next (holdInput s (.hostHdmAccess wr adr len data))
  else if s.module.phase != .running then .next (reply s .unsupported)
  else if Config.bondedEnd < adr + len then .next (freezeHost s wr (max adr Config.bondedEnd) (.hostHdmAccess wr adr len data))
  else if wr then .next (reply (pokeBytes s adr (data.take len)) .done)
  else match (granules adr len).find? s.bad.contains with
    | some g => .next (reply (frameLost s (Where.die' (homeDie (64 * g))) srcHost (max adr (64 * g))) .abort)
    | none => .next (reply s (.bytes (memReadN s.mem adr len)))

/-! Requests of other modules (R315). -/

/-- Byte count of a request. -/
def flitCount (f : Flit) : Nat := (f.payload.getD 7 0).toNat
/-- What follows the byte count. -/
def flitBody (f : Flit) : List Byte := f.payload.drop 8

/-- The answer to a request: its address and count, then the data, running on into later flits. -/
def answerFlits (s : State) (f : Flit) (kind : Nat) (bs : List Byte) : List Flit :=
  let body := f.payload.take 8 ++ bs
  (List.range ((body.length + 55) / 56)).map fun i =>
    mkFlit f.src.toNat s.module.nrid.toNat kind f.tag.toNat ((body.drop (56 * i)).take 56)

/-- A synchronising write of another module: its tag holds no task of this one. -/
def pokeSync (s : State) (a : Nat) (bs : List Byte) : State :=
  applyTags (pokeBytes s a bs) ((granules a bs.length).map fun g => (g, mkTag tagSync 0))

/-- A release of another module leaves no snapshot that a task of this one could take: acquires fall back (R171). -/
def dropRelease (s : State) (a : Nat) : State :=
  s.updDie (homeDie a) fun x => { x with releases := x.releases.filter (·.gran != a / 64) }

/-- A future form, or the decrement of a JOIN, of another module at home (R195, R196): the word at a changes, and it is for that module
to count records down (log 39). x is the record's offset or the result, y the record's physical address or the fault flag. -/
def homeFuture (s : State) (code a x y : Nat) : State :=
  let w := memNat s.mem a 8
  let st := futState w
  let put (v : Nat) (s : State) : State := pokeSync s a (natLe 8 v)
  match code with
  | 11 => if st == 1 then s else put 0 s
  | 12 =>
    if 2 ≤ st then put (mkFuture st (futWait w + 1) (futCursor w)) s
    else put (mkFuture 1 (futWait w + 1) x) (pokePhys s y (natLe 8 ((if st == 1 then futCursor w else 0) / 16 * 16)) 0)
  | 13 => if 2 ≤ st then s else dropRelease (put (mkFuture (if y % 2 == 1 then 3 else 2) (futWait w) x) s) a
  | 15 => if w == 0 then s else put (w - 1) s
  | _ => s

/-- An atomic or synchronising request of another module at home (R169, R189, R190, R192, R196). -/
def homeAtomic (s : State) (f : Flit) (a n : Nat) : State :=
  let b := flitBody f
  let code := (b.getD 0 0).toNat
  let ty := (b.getD 1 0).toNat
  let x := leNat ((b.drop 2).take 8)
  let y := leNat ((b.drop 10).take 8)
  if code < 8 then
    match atomNew code ty (extendTy ty (memNat s.mem a n)) (BitVec.ofNat 64 x) (BitVec.ofNat 64 y) with
    | some v => dropRelease (pokeSync s a (natLe n v)) a
    | none => dropRelease s a
  else if code == 9 then dropRelease (pokeSync s a (natLe n x)) a
  else if code == codeDisarm then
    let who := some (f.src.toNat, leNat ((b.drop 1).take 2))
    { s with monitors := s.monitors.filter fun m => !(m.peer == who && m.gran == a / 64) }
  else if code == 10 then
    let k := s.module.nextMon
    addMonitor (s.updMod fun m => { m with nextMon := k + 1 }) ⟨k, a / 64, 0, 0, 0, 5, false, some (f.src.toNat, f.tag.toNat), none⟩
  else homeFuture s code a x y

/-- A request of another module whose read of memory cannot be mended: the record, the page retired, and no data (R3, R309). -/
def homeLost (s : State) (a : Nat) : State := frameLost s (Where.die' (homeDie a)) srcTile a

/-- Capability tags of the 16-byte units of [a, a + n), one bit each (R159). -/
def tagBits (s : State) (a n : Nat) : Nat :=
  (List.range (n / 16)).foldl (fun v i => v + boolNat (s.capTags.contains (a / 16 + i)) * 2 ^ i) 0

/-- What stands behind the data of a read: a byte of the tags of its whole units, where some are set (R159, log 39). -/
def tagByte (s : State) (a n : Nat) : List Byte :=
  if a % 16 == 0 && n % 16 == 0 && tagBits s a n != 0 then natLe 1 (tagBits s a n) else []

/-- NAREB_REQUEST: a read, write, block read or atomic request of another module, performed at home and exempt from race detection
(R315). A whole unit carries its capability tag (R159, log 39). -/
def execNarebRequest (f : Flit) (s : State) : Out :=
  let pa := flitPa f
  let n := flitCount f
  let a := paLocal pa
  let unit := n == 16 && a % 16 == 0
  let code := ((flitBody f).getD 0 0).toNat
  if n == 0 || 64 < n || !physBacked s pa n then .next s
  else match f.kind.toNat with
    | 0 =>
      if s.failing pa n then .next (homeLost s a)
      else .next (sendFlits s (answerFlits s f 1 (memReadN s.mem a n ++ tagByte s a n)))
    | 2 =>
      let s := pokeBytes s a ((flitBody f).take n)
      let s := if unit && (flitBody f).getD 16 0 == 1 then { s with capTags := insNat (a / 16) s.capTags } else s
      .next (sendFlits s (answerFlits s f 3 []))
    | 4 =>
      if code == codeBlock then
        if !physBacked s pa 256 then .next s
        else if s.failing pa 256 then .next (homeLost s a)
        else .next (sendBlock s f.src.toNat f.tag.toNat pa (memReadN s.mem a 256))
      else if code == codeDisarm then .next (sendFlits (homeAtomic s f a n) (answerFlits s f 3 []))
      else if s.failing pa n then .next (homeLost s a)
      else
        let t := homeAtomic s f a n
        .next (sendFlits (t.flush s.focus) (answerFlits s f 1 (memReadN s.mem a n)))
    | _ => .next s

/-! Answers of other modules (R315). -/

/-- The actor of an ask is still there. -/
def actorLives (s : State) (f : Focus) : Bool :=
  if f.port == (reqFocus 0).port then (s.req f.id).isSome
  else if f.port == (cmdFocus 0).port then (s.cmd f.id).isSome
  else true

/-- A request whose last write is acknowledged is performed. -/
def writesDone (s : State) (f : Focus) : State :=
  if f.port == (reqFocus 0).port && !s.asking f then
    s.updReq f.id fun x => if x.stage == .remote then { x with stage := .performed } else x
  else s

/-- The pitch of a cell or command acts when what it waits for comes in (R17). -/
def pitchActs (s : State) (f : Focus) : State :=
  if f.port == cellPort then s.updRegion f.die f.rblk (Region.act (s.now f.die))
  else if f.port == (cmdFocus 0).port then
    (match s.cmd f.id with
     | some c => s.updRegion c.die c.rblk (Region.act (s.now c.die))
     | none => s)
  else s

/-- Bytes that a read asks for. -/
def Want.size : Want → Nat
  | .unit _ => 16
  | .line _ => 64
  | .block _ => 256
  | .sync _ n _ _ _ _ => n

/-- An answer or acknowledgement reaches the actor that waits for it. -/
def giveAnswer (s : State) (a : Ask) (bs : List Byte) : State :=
  let s := pitchActs { s with asks := s.asks.filter (·.tag != a.tag) } a.who
  match a.what with
  | none => writesDone s a.who
  | some w =>
    if actorLives s a.who then { s with words := s.words ++ [⟨a.who, w, bs.take w.size, (bs.getD w.size 0).toNat, a.tag⟩] } else s

/-- The second answer to a MONW: its monitor has been woken or is lost (R192, log 39). -/
def monitorTold (s : State) (tag : Nat) (woke : Bool) : State :=
  if woke then { s with monitors := s.monitors.map fun m => if m.link == some tag then { m with woken := true } else m }
  else { s with monitors := s.monitors.filter (·.link != some tag) }

/-- The replay buffers let go what an answer or acknowledgement answers (R312). -/
def released (s : State) (f : Flit) : State :=
  let gone (x : Flit) : Bool := x.tag == f.tag && x.dst == f.src
  { s with dies := s.dies.map fun d => { d with links := d.links.map fun p =>
      { p with replay := p.replay.filter (!gone ·), resent := p.resent.filter (!gone ·) } } }

/-- A response or an acknowledgement. -/
def answered (s : State) (f : Flit) : State :=
  let s := released s f
  match s.asks.find? (·.tag == f.tag.toNat) with
  | some a => giveAnswer s a (flitBody f)
  | none => monitorTold s f.tag.toNat ((flitBody f).getD 0 0 == 1)

/-! Blocks and the hold buffer (R316-R318). -/

/-- Tile under which a link port's expander translates. -/
def linkBlk : Nat := 1024

/-- What becomes of a beat. -/
inductive Landed where
  | written (s : State)
  /-- Its page is absent, byte x of its object the first. -/
  | held (x : Nat) (s : State)

/-- Writes a beat: where its object, as this module's table has it, places it; held while its page is absent; at its physical
address where the table has no such object, or lies elsewhere (R316). -/
def landBeat (s : State) (d : Nat) (b : Beat) : Landed :=
  let md : Mode := { die := d, blk := linkBlk, l1 := false, plain := none, stash := false, keepTags := false, buf := [] }
  let direct : State := if physBacked s b.pa b.bytes.length then pokeBytes s (paLocal b.pa) b.bytes else s
  match storeAt s md b.oid b.ofs b.bytes false with
  | .ok _ t => .written (if t.wants.isEmpty && t.puts.length == s.puts.length then t else direct)
  | .bad code x _ t => if t.wants.isEmpty && pageCode code then .held x t else .written direct

/-- Acknowledges a beat to the module that sent it. -/
def ackBeat (s : State) (b : Beat) : State :=
  if b.src == s.module.nrid.toNat then s else sendFlit s (mkFlit b.src s.module.nrid.toNat 3 b.tag (natLe 7 b.pa))

/-- A beat that has come in on a port is written, or held there. -/
def takeBeat (s : State) (n : Nat) (b : Beat) : State :=
  match landBeat s (Config.portDie n) b with
  | .written s => ackBeat s b
  | .held x s => stopBeat s n b x

/-- A block has been received in answer to a flit or in a transfer: it enters the window, and its bytes go to who asked for it, or where
its announcement says (R316, R318). -/
def takeBlock (s : State) (p : LinkPort) (f : Flit) (bs : List Byte) : State :=
  let s := putPort s { p with partialBlk := [], blocks := p.blocks + 1, window := put p.window (p.blocks % windowSlots) bs }
  let asked := s.asks.find? fun a => a.tag == f.tag.toNat && (match a.what with
    | some (.block pa) => paModule pa == f.src.toNat
    | _ => false)
  match asked, p.ann with
  | some a, _ => giveAnswer (released s f) a bs
  | none, some b =>
    if b.src == f.src.toNat && b.tag == f.tag.toNat then takeBeat (putPort s { s.port p.id with ann := none }) p.id { b with bytes := bs }
    else s
  | none, none => s

/-- Flits of the block whose first flit is given. -/
def flitsOf (f : Flit) : Nat :=
  if f.esc = 1 then 5 else (8 + codeBytes (leNat (f.payload.take 8)) + 55) / 56

/-- The block in its flits. -/
def blockOf (fs : List Flit) : List Byte :=
  let bs := fs.flatMap (·.payload)
  if (fs.headD (mkFlit 0 0 0 0 [])).esc = 1 then bs.take 256 else expandBlock bs

/-- A flit of block data (R317). -/
def blockFlit (s : State) (p : LinkPort) (f : Flit) : State :=
  let fs := p.partialBlk ++ [f]
  let first := fs.headD f
  if fs.length < flitsOf first then putPort s { p with partialBlk := fs } else takeBlock s p first (blockOf fs)

/-- The announcement of the data of a tag. -/
def announced (f : Flit) : Beat :=
  let b := (flitBody f).drop 1
  ⟨f.src.toNat, f.tag.toNat, flitPa f, leNat (b.take 4), leNat ((b.drop 4).take 6), [], false⟩

/-- A flit of a write: its data may run on into later flits (R314). Announced data are a beat of a transfer. -/
def writeFlit (s : State) (p : LinkPort) (f : Flit) : State :=
  let fs := p.partialBlk ++ [f]
  let first := fs.headD f
  let body := fs.flatMap (·.payload)
  if body.length < 8 + flitCount first then putPort s { p with partialBlk := fs }
  else
    let s := putPort s { p with partialBlk := [] }
    match p.ann with
    | some b =>
      if b.src == f.src.toNat && b.tag == f.tag.toNat then
        takeBeat (putPort s { s.port p.id with ann := none }) p.id { b with pa := flitPa first, bytes := (body.drop 8).take (flitCount first) }
      else s.soon [.run { Focus.none with die := Config.portDie p.id } (.narebRequest { first with payload := body })]
    | none => s.soon [.run { Focus.none with die := Config.portDie p.id } (.narebRequest { first with payload := body })]

/-! Receipt of a flit (R312). -/

/-- The flits of a block coded for the tag of f, and whether they are raw (R317). -/
def codedFor (f : Flit) (bs : List Byte) : List Flit × Bool :=
  let code := compressBlock bs
  let raw : Bool := 224 < code.length
  (blockFlits f.dst.toNat f.src.toNat f.tag.toNat raw (if raw then bs else code), raw)

/-- The block of a window that a flit of block data belongs to (R318). -/
def blockIn (win : List (Nat × List Byte)) (f : Flit) : Option (List Byte) :=
  (win.find? fun e => (codedFor f e.2).1.contains f).map (·.2)

/-- Sends what a failed port had not acknowledged on another one, in order. Its blocks are taken from its send window, coded afresh and
enter the other port's windows, never by reference; of a block in several flits the first that is left stands for it (R312, R318). -/
def resendOn (n : Nat) (win : List (Nat × List Byte)) : Option Flit → List Flit → State → State
  | _, [], s => s
  | last, f :: fs, s =>
    let block (bs : List Byte) (s : State) : State :=
      let p := s.port n
      let x := codedFor f bs
      sendOn (putPort s { p.enter bs with raw := p.raw + boolNat x.2 }) n x.1
    let goesOn : Bool := match last with | some l => l.tag == f.tag && l.dst == f.dst && l.fidx < f.fidx | none => false
    if f.kind = 6 then resendOn n win none fs (block f.payload s)
    else if f.kind = 5 then
      if goesOn then resendOn n win (some f) fs s
      else resendOn n win (some f) fs (match blockIn win f with | some bs => block bs s | none => s)
    else resendOn n win none fs (sendOn s n [f])

/-- The port that takes over what a failed one had not acknowledged: one to the same next hop, or any where none is in service (R312,
log 39). -/
def State.portBeside (s : State) (n : Nat) : Option Nat :=
  match s.portsUp.find? fun m => Config.nextHop m == Config.nextHop n with
  | some m => some m
  | none => s.portsUp.head?

/-- A lasting error on a port: the record, the port out of service with its windows and cache cleared, and every flit that is not
acknowledged sent again on another port (R312, R318). -/
def failPort (s : State) (p : LinkPort) : State :=
  let s := postLasting s (Where.die' (Config.portDie p.id)) srcLink p.id 6 0
  let s := putPort s { LinkPort.reset p.id with up := false, raw := p.raw }
  match s.portBeside p.id with
  | some n => resendOn n p.sendWin none p.replay s
  | none => s

/-- The peer has found flit n of the replay buffer bad: it is sent again once; a second failure is lasting (R312). -/
def peerFails (s : State) (port n : Nat) : State :=
  let p := s.port port
  match p.replay[n]? with
  | none => s
  | some f =>
    if !p.up then s
    else if p.resent.contains f then failPort s p
    else { putPort s { p with resent := p.resent ++ [f] } with
      outbox := s.outbox ++ [if f.kind = 6 then { f with payload := List.replicate 56 0 } else f] }

/-- A flit of an answer to a read, whose data may run on into later flits (R314). -/
def answerFlit (s : State) (p : LinkPort) (f : Flit) : State :=
  let fs := p.partialBlk ++ [f]
  let first := fs.headD f
  let body := fs.flatMap (·.payload)
  if body.length < 8 + flitCount first then putPort s { p with partialBlk := fs }
  else answered (putPort s { p with partialBlk := [] }) { first with payload := body }

/-- What a flit that passed is. Credits are the link's own: this module's ports give and take them with no delay (R316). -/
def acceptFlit (s : State) (p : LinkPort) (f : Flit) : State :=
  match f.kind.toNat with
  | 1 => answerFlit s p f
  | 3 => answered s f
  | 2 => writeFlit s p f
  | 5 => blockFlit s p f
  | 6 => takeBlock s p f ((look p.window f.slot.toNat).getD [])
  | 7 => s
  | _ =>
    if f.kind = 4 && ((flitBody f).getD 0 0).toNat == codeBeat then putPort s { p with ann := some (announced f) }
    else s.soon [.run { Focus.none with die := Config.portDie p.id } (.narebRequest f)]

/-- FLIT_RECEIVE (R312): the CRC and KIND are checked; a first failure waits for the replay, a second takes the port out of
service. A port behind a held beat takes nothing (R316). -/
def execFlitReceive (f : Flit) (crcOk : Bool) (s : State) : Out :=
  let p := s.port s.focus.port
  let d := Config.portDie p.id
  if !p.up || Config.narebPorts ≤ p.id then .next s
  else if !p.hold.isEmpty then .next (holdInput s (.flitReceive f crcOk))
  else if !crcOk || 8 ≤ f.kind.toNat then
    if p.retry then .next (failPort s p) else .next (putPort s { p with retry := true })
  else if p.retry then
    let p := { p with retry := false }
    .next (acceptFlit (putPort (transientError s d) p) p f)
  else .next (acceptFlit s p f)

/-- Writes the beats that port n holds, in order; those from the first whose page is absent on stay, and that one has its record (R316). -/
def flushHold (s : State) (n : Nat) : List Beat → List Beat × State
  | [] => ([], s)
  | b :: bs =>
    match landBeat s (Config.portDie n) b with
    | .held x s => ({ b with posted := true } :: bs, postHeld s n b x)
    | .written s => flushHold (ackBeat s b) n bs

/-- XFER_HOLD_RETRANSLATE: the held beat is translated afresh every 4,096 cycles; once it succeeds, writing resumes (R316). -/
def execXferHoldRetranslate (s : State) : Out :=
  let p := s.port s.focus.port
  let d := Config.portDie p.id
  if p.hold.isEmpty || s.now d < p.holdAt then .next s
  else
    let (left, s) := flushHold s p.id p.hold
    .next (putPort s { s.port p.id with hold := left, holdAt := s.now d + 4096 })

/-- RDMA_INBOUND_WRITE: a host write of the data of an inbound WRITE, or of its completion entry, which comes after them (R178, R319). An
address that is not backed takes nothing. -/
def execRdmaInboundWrite (adr : Nat) (data : List Byte) (s : State) : Out :=
  if data.isEmpty || !(localBacked s.module adr && localBacked s.module (adr + data.length - 1)) then .next s
  else .next (pokeBytes s adr data)

/-- A queue pair of an Ethernet port exists: eight ports, 4,096 pairs each (R319). -/
def isQueuePair (port qp : Nat) : Bool := decide (port < 8) && decide (qp < 4096)

/-- An inbound RDMA READ acts as a host read; bytes that are not backed, or cannot be read, are not given (R309, R319). -/
def rdmaRead (s : State) (port qp adr n : Nat) : State :=
  if !isQueuePair port qp || n == 0 || !(localBacked s.module adr && localBacked s.module (adr + n - 1)) then s
  else match (granules adr n).find? s.bad.contains with
    | some g => frameLost s (Where.die' (homeDie (64 * g))) srcHost (max adr (64 * g))
    | none => { s with ethOut := s.ethOut ++ [⟨port, qp, .answer, 0, n, memReadN s.mem adr n⟩] }

/-- An inbound SEND waits for system software (R319). -/
def rdmaSend (s : State) (port qp : Nat) (bs : List Byte) : State :=
  if isQueuePair port qp then { s with ethIn := s.ethIn ++ [⟨port, qp, .send, 0, bs.length, bs⟩] } else s

/-- An inbound RDMA WRITE on a queue pair: its data, then its completion entry, which is the release (R178, R319). -/
def rdmaWrite (s : State) (port qp adr : Nat) (bs : List Byte) (cadr : Nat) (entry : List Byte) : State :=
  let step (a : Nat) (l : List Byte) : Event := .run { Focus.none with port := port } (.rdmaInboundWrite a l)
  if isQueuePair port qp then s.soon ([step adr bs] ++ if entry.isEmpty then [] else [step cadr entry]) else s

/-- What system software sends on a queue pair (R319): the bytes of a SEND or WRITE are read as a host read reads them; a READ asks for
bytes, which come in as a WRITE. -/
def rdmaPost (s : State) (port qp : Nat) (verb : EthVerb) (adr n far : Nat) : State :=
  let out (bs : List Byte) : State := { s with ethOut := s.ethOut ++ [⟨port, qp, verb, far, n, bs⟩] }
  if !isQueuePair port qp || n == 0 then s
  else match verb with
    | .read => out []
    | .answer => s
    | _ =>
      if !(localBacked s.module adr && localBacked s.module (adr + n - 1)) then s
      else match (granules adr n).find? s.bad.contains with
        | some g => frameLost s (Where.die' (homeDie (64 * g))) srcHost (max adr (64 * g))
        | none => out (memReadN s.mem adr n)

end Sys2Proof.Machine
end

