-- ==== Sys2Proof/Machine/Integer.lean ====
section
/-! DEFINITION. The integer forms (R109, R110, Table 9.1) and AFFINE (R115). -/

namespace Sys2Proof.Machine

/-- An integer form on n operands: exact integer arithmetic narrowed at the end (R109). -/
def intForm (s : State) (m : Mods) (n : Nat) (f : List Operand → W64) : Out :=
  cellTurn s m fun cx =>
    elemTurn cx (List.range n) (fun _ => hdrOnly m.tyNat) (plainHdr m.tyNat) fun os => .value (f os) 0

/-- Operand i as an integer of TYPE. -/
def intArg (m : Mods) (os : List Operand) (i : Nat) : Int := intOf m.tyNat (opPay os i)

/-- Operand i as an unsigned pattern of w bits. -/
def natArg (m : Mods) (os : List Operand) (i : Nat) : Nat := (opPay os i).toNat % 2 ^ tyWidth m.tyNat

/-- Narrows an exact result: modulo 2^w, or clamped with SAT (R109). -/
def narrow (m : Mods) (v : Int) : W64 := ofInt m.tyNat (if m.modF 0 1 == 1 then clampTy m.tyNat v else v)

/-- ADD: a + b (R109). -/
def execAdd (m : Mods) (s : State) : Out := intForm s m 2 fun os => narrow m (intArg m os 0 + intArg m os 1)

/-- SUB: a - b (R109). -/
def execSub (m : Mods) (s : State) : Out := intForm s m 2 fun os => narrow m (intArg m os 0 - intArg m os 1)

/-- MUL: a x b (R109). -/
def execMul (m : Mods) (s : State) : Out := intForm s m 2 fun os => narrow m (intArg m os 0 * intArg m os 1)

/-- MULH: floor(a x b / 2^w) (R109). -/
def execMulh (m : Mods) (s : State) : Out :=
  intForm s m 2 fun os => ofInt m.tyNat (Int.fdiv (intArg m os 0 * intArg m os 1) (2 ^ tyWidth m.tyNat : Nat))

/-- DIV truncates toward zero; a divisor of 0 gives all ones (R109). -/
def divInt (t : Nat) (a b : Int) : W64 := if b == 0 then ofInt t (-1) else ofInt t (Int.tdiv a b)

/-- REM: a - b x trunc(a / b); a divisor of 0 gives a (R109). -/
def remInt (t : Nat) (a b : Int) : W64 := if b == 0 then ofInt t a else ofInt t (Int.tmod a b)

/-- A DIV or REM fires on values again no earlier than w/2 cycles later (R108); a firing on a void VAL divides nothing and holds the cell
for no cycle (log 64). -/
def slowForm (s : State) (m : Mods) (f : List Operand → W64) : Out :=
  cellTurn s m fun cx =>
    elemTurn cx [0, 1] (fun _ => hdrOnly m.tyNat) (plainHdr m.tyNat) fun os =>
      let v := f os
      .eff { sends := cx.toAll (.plain .val v), val := some v, rdst := m.rdstNat, rdstVal := v,
             upd := fun y => { y with busy := cx.t + tyWidth m.tyNat / 2 } }

/-- DIV (R109). -/
def execDiv (m : Mods) (s : State) : Out := slowForm s m fun os => divInt m.tyNat (intArg m os 0) (intArg m os 1)

/-- REM (R109). -/
def execRem (m : Mods) (s : State) : Out := slowForm s m fun os => remInt m.tyNat (intArg m os 0) (intArg m os 1)

/-- AND (R109). -/
def execAnd (m : Mods) (s : State) : Out :=
  intForm s m 2 fun os => extendTy m.tyNat ((opPay os 0) &&& (opPay os 1)).toNat

/-- OR (R109). -/
def execOr (m : Mods) (s : State) : Out :=
  intForm s m 2 fun os => extendTy m.tyNat ((opPay os 0) ||| (opPay os 1)).toNat

/-- XOR (R109). -/
def execXor (m : Mods) (s : State) : Out :=
  intForm s m 2 fun os => extendTy m.tyNat ((opPay os 0) ^^^ (opPay os 1)).toNat

/-- NOT (R109). -/
def execNot (m : Mods) (s : State) : Out :=
  intForm s m 1 fun os => extendTy m.tyNat (~~~ (opPay os 0)).toNat

/-- Shift count n := b mod w, read unsigned (R109). -/
def shiftCount (m : Mods) (os : List Operand) : Nat := natArg m os 1 % tyWidth m.tyNat

/-- SHL (R109). -/
def execShl (m : Mods) (s : State) : Out :=
  intForm s m 2 fun os => extendTy m.tyNat (natArg m os 0 <<< shiftCount m os)

/-- SHR (R109). -/
def execShr (m : Mods) (s : State) : Out :=
  intForm s m 2 fun os => extendTy m.tyNat (natArg m os 0 >>> shiftCount m os)

/-- The pattern of w bits read as two's complement. -/
def signedPattern (w x : Nat) : Int := if x.testBit (w - 1) then (x : Int) - (2 ^ w : Nat) else x

/-- SAR fills with bit w - 1 of a, for N types too (R109). -/
def execSar (m : Mods) (s : State) : Out :=
  intForm s m 2 fun os =>
    ofInt m.tyNat (Int.fdiv (signedPattern (tyWidth m.tyNat) (natArg m os 0)) (2 ^ shiftCount m os : Nat))

/-- ROT toward bit w - 1 (R109). -/
def execRot (m : Mods) (s : State) : Out :=
  intForm s m 2 fun os =>
    let w := tyWidth m.tyNat
    let n := shiftCount m os
    extendTy m.tyNat (natArg m os 0 <<< n + natArg m os 0 >>> (w - n))

/-- MIN (R109). -/
def execMin (m : Mods) (s : State) : Out :=
  intForm s m 2 fun os => ofInt m.tyNat (min (intArg m os 0) (intArg m os 1))

/-- MAX (R109). -/
def execMax (m : Mods) (s : State) : Out :=
  intForm s m 2 fun os => ofInt m.tyNat (max (intArg m os 0) (intArg m os 1))

/-- The condition of CMP (R109). -/
def cmpHolds (cond : Nat) (a b : Int) : Bool :=
  match cond with
  | 0 => a == b | 1 => a != b | 2 => a < b | 3 => a ≤ b | 4 => b < a | _ => b ≤ a

/-- CMP: 1 if a COND b, else 0 (R109). -/
def execCmp (m : Mods) (s : State) : Out :=
  intForm s m 2 fun os => BitVec.ofNat 64 (boolNat (cmpHolds (m.modF 0 3) (intArg m os 0) (intArg m os 1)))

/-- SEL: b if a is not 0, else c (R109). -/
def execSel (m : Mods) (s : State) : Out :=
  intForm s m 3 fun os => ofInt m.tyNat (if intArg m os 0 == 0 then intArg m os 2 else intArg m os 1)

/-- CLZ: zero bits above the highest one bit (R109). -/
def execClz (m : Mods) (s : State) : Out :=
  intForm s m 1 fun os =>
    let a := natArg m os 0
    BitVec.ofNat 64 (if a == 0 then tyWidth m.tyNat else tyWidth m.tyNat - 1 - a.log2)

/-- POPC: one bits (R109). -/
def execPopc (m : Mods) (s : State) : Out :=
  intForm s m 1 fun os =>
    let a := natArg m os 0
    BitVec.ofNat 64 ((List.range 64).foldl (fun n i => n + boolNat (a.testBit i)) 0)

/-- ADDC and SUBB: v on out0 and out1, the carry or borrow x on out2 and out3; RDST takes v (R110). -/
def carryForm (s : State) (m : Mods) (f : Nat → Nat → Nat → Nat × Nat) : Out :=
  cellTurn s m fun cx =>
    elemTurn cx [0, 1, 2] (fun _ => hdrOnly m.tyNat) (plainHdr m.tyNat) fun os =>
      let vx := f (natArg m os 0) (natArg m os 1) ((opPay os 2).toNat % 2)
      let v := extendTy m.tyNat vx.1
      .eff { sends := cx.x.cfg.dataOuts.map fun o =>
               (o, Token.plain .val (if o < 2 then v else extendTy m.tyNat vx.2))
             val := some v, rdst := m.rdstNat, rdstVal := v }

/-- ADDC (R110). -/
def execAddc (m : Mods) (s : State) : Out :=
  carryForm s m fun a b c => ((a + b + c) % 2 ^ tyWidth m.tyNat, (a + b + c) / 2 ^ tyWidth m.tyNat)

/-- SUBB (R110). -/
def execSubb (m : Mods) (s : State) : Out :=
  carryForm s m fun a b c => ((a + 2 ^ (tyWidth m.tyNat + 1) - b - c) % 2 ^ tyWidth m.tyNat, boolNat (a < b + c))

/-- AFFINE: (c0 + a c1 + b c2 + c c3 + d c4) mod 2^w over the bound inputs (R115). Its link inputs take the header of TYPE with SCALE 0,
of which no rule speaks (log 64). -/
def execAffine (m : Mods) (s : State) : Out :=
  cellTurn s m fun cx =>
    let ps := (List.range 4).filter cx.bound
    elemTurn cx ps (fun _ => hdrOnly m.tyNat) (plainHdr m.tyNat) fun os =>
      let sum := os.foldl (fun a o =>
        a + intOf m.tyNat o.pay * intOf m.tyNat (cx.x.cfg.const (o.port + 1))) (intOf m.tyNat (cx.x.cfg.const 0))
      .value (ofInt m.tyNat sum) 0

end Sys2Proof.Machine
end

