-- ==== Sys2Proof/Machine/Matrix.lean ====
section
/-! DEFINITION. The matrix island's commands (R236-R245): claims, loads, multiplications, merges and the normaliser, over
accumulator entries (R78-R83). -/

namespace Sys2Proof.Machine

/-! Accumulator entries (R78-R83). -/

/-- t of a finite product m x 2^e under anchor a: truncation toward zero (R80). -/
def entryTerm (a : Int) (neg : Bool) (m : Nat) (e : Int) : Int :=
  let k := e - (a - 104)
  signedM neg (if 0 ≤ k then m <<< k.toNat else m >>> (-k).toNat)

/-- Adds a product to an entry (R80). -/
def Entry.add (a : Int) (x : Entry) (p : FVal) : Entry :=
  match p with
  | .fin n m e => { x with t := x.t + BitVec.ofInt 136 (entryTerm a n m e) }
  | .inf n => { x with cls := x.cls.join (if n then .ninf else .pinf) }
  | .nan .. => { x with cls := .nan }

/-- OVF: X is not the sign extension of S (R81). -/
def Entry.ovf (x : Entry) : Bool := x.t.toInt < -(2 ^ 127 : Nat) || (2 ^ 127 : Nat) ≤ x.t.toInt

/-- Class as the hand-over gives it (R244). -/
def Entry.handCls (x : Entry) : Cls :=
  if x.cls == .fin && x.ovf then (if x.t.getLsbD 135 then .ninf else .pinf) else x.cls

/-- The normaliser's F32 pattern and flags (R83). -/
def Entry.toF32 (a : Int) (x : Entry) : Nat × FlagBits :=
  match x.cls with
  | .nan => (defaultNaN 9 false, noFlag)
  | .pinf => (infBits 9 false, noFlag)
  | .ninf => (infBits 9 true, noFlag)
  | .fin =>
    if x.ovf then (infBits 9 (x.t.getLsbD 135), flagOF ||| flagNX)
    else
      let n := (x.t.setWidth 128).toInt
      if n = 0 then (0, noFlag)
      else
        let r := roundFin 9 .rne (decide (n < 0)) n.natAbs (a - 104)
        (r.bits, r.flags)

/-! Elements of slots (R236). -/

/-- A byte of a slot. -/
def Slot.byte (x : Slot) (o : Nat) : Nat := (lookD x.bytes o 0).toNat

/-- An element of a slot: its code and its scale. -/
structure El where
  code : Nat
  scale : Nat
  val : FVal
  deriving DecidableEq, Repr

/-- Code of element i, by its place in the slot. -/
def Slot.code (x : Slot) (i : Nat) : Nat :=
  match tyWidth x.fmt with
  | 16 => x.byte (2 * i) + 256 * x.byte (2 * i + 1)
  | 4 => x.byte (i / 2) / 16 ^ (i % 2) % 16
  | _ => x.byte i

/-- Exact value of a code of a format, under a codebook and a scale (R64-R67). -/
def codeValue (fmt : Nat) (book : List Nat) (scaled : Bool) (code scale : Nat) : FVal :=
  let v := if fmt == 14 then decodeF 11 (book.getD code 0) else decodeF fmt code
  if scaled then scaleF v scale else v

/-- Element i of a slot. -/
def Slot.el (x : Slot) (i : Nat) : El :=
  let c := x.code i
  let e := (lookD x.scales (i / 32) 0).toNat
  ⟨c, e, codeValue x.fmt x.book x.scaled c e⟩

/-- Exact product of two values, and whether it is invalid (R80). -/
def productOf (a b : FVal) : FVal × Bool :=
  if a.isNaN || b.isNaN then (.nan false false 0x400000, a.isSig || b.isSig)
  else match mulF a b with
    | some p => (p, false)
    | none => (.nan false false 0x400000, true)

/-- The product table of two codebooks; a NaN entry is marked signalling where its product is invalid (R240). -/
def productTable (a b : List Nat) : List FVal :=
  (List.range 256).map fun i =>
    match productOf (decodeF 11 (a.getD (i / 16) 0)) (decodeF 11 (b.getD (i % 16) 0)) with
    | (.nan n _ f, nv) => .nan n nv f
    | (v, _) => v

/-- A product of two elements: from the table for C4, exact otherwise (R80, R240). -/
def elProduct (table : List FVal) (a b : Slot) (x y : El) : FVal × Bool :=
  let nanScale := (a.scaled && x.scale == 255) || (b.scaled && y.scale == 255)
  if a.fmt == 14 && b.fmt == 14 && !nanScale then
    let p := table.getD (16 * x.code + y.code) (.fin false 0 0)
    let p' := if a.scaled then scaleF p x.scale else p
    (if b.scaled then scaleF p' y.scale else p', p.isSig)
  else productOf x.val y.val

/-! Claims (R237). -/

/-- MCLAIM. -/
def execMclaim (w : EngWords) (s : State) : Out :=
  engineTurn w s fun c =>
    let x := (s.die c.die).island c.isl
    if c.claimSlots.any (fun n => (x.slot n).owner != 0) || c.amask.any (fun n => (x.tile n).owner != 0) then
      failCmd s c fcSlotBusy 0 noStep
    else
      let s := updIsland s c.die c.isl fun x =>
        let x := c.claimSlots.foldl (fun x n => x.setSlot n { Slot.empty with owner := c.seq }) x
        c.amask.foldl (fun x n => x.setTile n { Tile.empty with owner := c.seq }) x
      finishCmd s c

/-- MRELEASE. -/
def execMrelease (w : EngWords) (s : State) : Out :=
  engineTurn w s fun c =>
    let x := (s.die c.die).island c.isl
    if c.claimSlots.all (fun n => (x.slot n).owner == c.seq) && c.amask.all (fun n => (x.tile n).owner == c.seq) then
      let s := updIsland s c.die c.isl fun x =>
        c.amask.foldl (fun x n => x.setTile n .empty) (c.claimSlots.foldl (fun x n => x.setSlot n .empty) x)
      finishCmd s c
    else failCmd s c fcEngine 0 noStep

/-! MLOAD (R238, R239). -/

/-- The order of a data port: that of any link into it. -/
def dataOrder (r : Region) (isl port : Nat) : Option OMap :=
  match r.links.find? fun l => l.2.2.target l.2.1 == 2 && l.2.2.tindex l.2.1 == isl && l.2.2.tport l.2.1 == port with
  | some l => r.order (l.2.2.outOrder l.2.1)
  | none => none

/-- The port's order has no ragged level, names only d0 and d1, and has these extents (R238). -/
def loadShape (m : OMap) (a b : Nat) : Bool :=
  !m.anyRag && m.all (fun l => l.dim ≤ 1) && m.extentOf 0 == a && m.extentOf 1 == b

/-- The port's order suits the ROLE under some format of Table 15.1 (R238): what a start can judge before the HDR has come. -/
def loadOrderOk (role : Nat) (m : OMap) : Bool :=
  match role with
  | 0 => [64, 128, 256].any fun kt => loadShape m 64 kt
  | 1 => [64, 128, 256].any fun kt => loadShape m kt 64
  | 2 => loadShape m 8192 1
  | _ => true

/-- The header and the port's order suit the ROLE (R238, R239, Table 15.1). -/
def loadHdrOk (role : Nat) (m : OMap) (h : W64) : Bool :=
  let kt := classKt (hdrFmt h)
  hdrValid h &&
  (match role with
   | 0 => kt != 0 && (hdrScale h == 0 || kt != 64) && loadShape m 64 kt
   | 1 => kt != 0 && (hdrScale h == 0 || kt != 64) && loadShape m kt 64
   | 2 => hdrFmt h == 5 && hdrScale h == 0 && loadShape m 8192 1
   | _ => hdrFmt h == 8 && hdrScale h == 0)

/-- Place of an element in its slot (R236). -/
def elIndex (role kt x0 x1 : Nat) : Nat := match role with | 0 => x0 * kt + x1 | 1 => x1 * kt + x0 | _ => x0

/-- What an MLOAD makes of one token of a lane: itself with the token taken, or a fault, for an element beyond a ragged bound too (R41,
R238, R239). -/
def loadToken (c : Cmd) (m : OMap) (j : Nat) (k : Token) : Option Cmd :=
  let l := c.lanes.getD j .start
  let put (l : LaneRd) (c : Cmd) : Cmd := { c with lanes := c.lanes.set j l }
  match k.kind with
  | .hdr =>
    if l.opened && ((c.role != 3 && l.inRun != 0) || c.hdr != some k.pay) then none
    else match c.hdr with
      | some h => if h == k.pay then some (put { l with opened := true } c) else none
      | none => if loadHdrOk c.role m k.pay then some (put { l with opened := true } { c with hdr := some k.pay }) else none
  | .val =>
    if !l.opened then none
    else if c.role == 3 then
      let next := put { l with inRun := l.inRun + 1 } c
      if m.ragged && m.runLen ≤ l.inRun then none
      else if k.void then some next
      else if 1024 ≤ c.buf.length || fieldNat k.pay 44 20 != 0 then none
      else some { next with buf := next.buf ++ [⟨fieldNat k.pay 32 12, 0, k.pay⟩] }
    else if m.runLen ≤ l.inRun || m.cycles ≤ l.cyc then none
    else
      let x := m.coords j l.cyc
      let x0 := x.getD 0 0
      let x1 := x.getD 1 0
      let next := put { l with cyc := l.cyc + 1, inRun := l.inRun + 1 } c
      let h := c.hdr.getD 0
      if k.void then some next
      else if hdrScale h == 1 then
        let q := elIndex c.role (classKt (hdrFmt h)) x0 x1 / 32
        let e := fieldNat k.pay 8 8
        if 2 ^ 16 ≤ k.pay.toNat || (hdrFmt h == 14 && fieldNat k.pay 4 4 != 0) then none
        else match look c.scales q with
          | some e' => if e == e' then some { next with buf := next.buf ++ [⟨x0, x1, k.pay⟩] } else none
          | none => some { next with buf := next.buf ++ [⟨x0, x1, k.pay⟩], scales := next.scales ++ [(q, e)] }
      else some { next with buf := next.buf ++ [⟨x0, x1, k.pay⟩] }
  | .eor =>
    if c.role == 3 then (if l.opened then some (put { l with inRun := 0 } c) else none)
    else if l.opened && l.inRun == m.runLen then some (put { l with inRun := 0 } c) else none
  | .eot =>
    if l.opened && (c.role == 3 || (l.inRun == 0 && l.cyc == m.cycles)) then some (put { l with fin := true } c) else none
  | _ => none

/-- The data port serves this MLOAD now: no MLOAD that started before it is still to consume its EOT, and one that has faulted also
lets those decoded before it at its control port go first (R238). -/
def portServes (s : State) (c : Cmd) : Bool :=
  s.cmds.all fun x =>
    !(x.sameIsland c && x.rblk == c.rblk && x.isLoad && x.isMatrix && x.dport == c.dport && x.id != c.id) ||
    (if x.stage == .decoded then !(c.stage == .draining && x.port == c.port && x.id < c.id)
     else !(x.ticket < c.ticket && (x.stage == .running || x.stage == .draining)))

/-- Takes one token of each lane that has one; a token that faults starts the draining (R238). -/
def loadLanes (s : State) (id : Nat) (m : OMap) : List Nat → State
  | [] => s
  | j :: js =>
    match s.cmd id with
    | none => s
    | some c =>
      let t := s.now c.die
      match s.iports.find? (·.is c.die 2 c.isl c.rblk c.dport j) with
      | none => loadLanes s id m js
      | some i =>
        if (c.lanes.getD j .start).fin then loadLanes s id m js
        else match i.head t with
          | none => loadLanes s id m js
          | some k =>
            let s := updIPort s c.die 2 c.isl c.rblk c.dport j fun i => i.pop t
            let s := s.updRegion c.die c.rblk (Region.act t)
            if c.stage == .draining then
              let s := s.updCmd id fun c =>
                { c with lanes := c.lanes.set j { c.lanes.getD j .start with fin := k.kind == .eot } }
              loadLanes s id m js
            else match loadToken c m j k with
              | some c' => loadLanes (s.updCmd id fun _ => c') id m js
              | none =>
                let s := s.updCmd id fun c =>
                  { c with lanes := c.lanes.set j { c.lanes.getD j .start with fin := k.kind == .eot } }
                loadLanes (failCmd s c fcEngine 0 0) id m js

/-- Every lane has given its EOT. -/
def Cmd.lanesDone (c : Cmd) : Bool := c.lanes.all (·.fin)

/-- The lanes of an MLOAD's data port, none of them read. -/
def freshLanes (r : Region) (c : Cmd) : List LaneRd :=
  List.replicate (match dataOrder r c.isl c.dport with | some m => m.lanes | none => 0) .start

/-- A started MLOAD makes its check of the claim and of the port's order, and the port's lanes are counted (R238, R239). -/
def loadBegin (s : State) (c : Cmd) (r : Region) : State :=
  let x := (s.die c.die).island c.isl
  let ls := freshLanes r c
  let ok : Bool :=
    if c.role == 3 then (x.tile (c.f0 40 4)).owner == c.seq && (x.tile (c.f0 40 4)).anchor.isSome
    else (x.slot (c.f0 48 8)).owner == c.seq
  let s := s.updCmd c.id fun c => { c with begun := true, lanes := ls }
  if ok && !ls.isEmpty && loadOrderOk c.role ((dataOrder r c.isl c.dport).getD []) then s else failCmd s c fcEngine 0 noStep

/-- The EOT is consumed: the commit follows (R238, R239), or the drained command leaves. -/
def loadEnd (s : State) (id : Nat) : State :=
  match s.cmd id with
  | none => s
  | some c =>
    let t := s.now c.die
    if !c.lanesDone then s
    else if c.stage == .draining then s.dropCmd id
    else
      let n := if c.role == 3 then (c.buf.length + 63) / 64 else 4
      if n == 0 then finishCmd s c else s.updCmd id fun c => { c with stage := .commit, due := t + n }

/-- An MLOAD's turn: it starts, and takes a token of each lane of its port (R238). A FREEZE keeps its position (R247). -/
def loadTurn (w : EngWords) (s : State) : Out :=
  match s.cmd s.focus.id with
  | none => .fault .noActor
  | some c =>
    if c.words != w then .fault .noActor
    else match s.region c.die c.rblk with
    | none => .next s
    | some r =>
      if r.held || !(c.stage == .running || c.stage == .draining) then .next s
      else
        let s := if c.begun && !(c.stage == .draining && c.lanes.isEmpty) then s
          else if c.stage == .draining then
            s.updCmd c.id fun c => { c with lanes := freshLanes r c }
          else loadBegin s c r
        if portServes s c then
          let m := (dataOrder r c.isl c.dport).getD []
          .next (loadEnd (loadLanes s c.id m (List.range 64)) c.id)
        else .next s

/-- MLOAD with ROLE 0, 1 or 2 (R238). -/
def execMload (w : EngWords) (s : State) : Out := loadTurn w s

/-- MLOAD with ROLE 3 (R239). -/
def execMloadAccumulate (w : EngWords) (s : State) : Out := loadTurn w s

/-- Bytes that are not zero of an array of bytes held as numbers. -/
def nonzeroBytes (a : Array Nat) : List (Nat × Byte) :=
  (List.range a.size).filterMap fun i => let b := BitVec.ofNat 8 (a.getD i 0); if b = 0 then none else some (i, b)

/-- The bytes of a slot from a load buffer (R236). -/
def loadBytes (role fmt kt : Nat) (els : List LoadEl) : List (Nat × Byte) :=
  let put (a : Array Nat) (i v : Nat) : Array Nat := a.setIfInBounds i (a.getD i 0 + v)
  nonzeroBytes (els.foldl (fun a e =>
    let i := elIndex role kt e.x0 e.x1
    match tyWidth fmt with
    | 16 => put (put a (2 * i) (fieldNat e.pay 0 8)) (2 * i + 1) (fieldNat e.pay 8 8)
    | 4 => put a (i / 2) (fieldNat e.pay 0 4 * 16 ^ (i % 2))
    | _ => put a i (fieldNat e.pay 0 8)) (Array.replicate 8192 0))

/-- ex of a value (R79). -/
def exOf (v : FVal) : Option Int :=
  match v with
  | .fin _ 0 _ => none
  | .fin _ m e => some (m.log2 + e)
  | _ => none

/-- The greater of two exponents, where none is below all. -/
def maxEx (a b : Option Int) : Option Int :=
  match a, b with
  | some x, some y => some (max x y)
  | some x, none => some x
  | none, y => y

/-- The slot that a load leaves (R236, R238). -/
def loadSlot (c : Cmd) (book : List Nat) : Slot :=
  let h := c.hdr.getD 0
  let fmt := hdrFmt h
  let kt := classKt fmt
  let x : Slot :=
    { owner := c.seq, loaded := true, role := c.role, fmt := fmt, scaled := hdrScale h == 1, cb := hdrCb h,
      book := if fmt == 14 then book else [], exmax := none, bytes := loadBytes c.role fmt kt c.buf,
      scales := (List.range 512).filterMap fun q =>
        match look c.scales q with
        | some e => if e == 0 then none else some (q, BitVec.ofNat 8 e)
        | none => none }
  if c.role == 2 then x
  else { x with exmax := (List.range (64 * kt)).foldl (fun m i => maxEx m (exOf (x.el i).val)) none }

/-- The value of a ROLE 3 element is a signalling NaN. -/
def LoadEl.isSig (e : LoadEl) : Bool := (decodeF 9 (fieldNat e.pay 0 32)).isSig

/-- MLOAD_COMMIT: the load buffer enters the slot and its descriptor (R238), or the tile, a signalling value raising NV (R69, R80,
R239). -/
def execMloadCommit (s : State) : Out :=
  match s.cmd s.focus.id with
  | none => .fault .noActor
  | some c =>
    if c.stage != .commit || s.now c.die < c.due then .next s
    else if c.role == 3 then
      let s := s.updRegion c.die c.rblk fun r => orFlags r (if c.buf.any LoadEl.isSig then flagNV else noFlag)
      let s := updIsland s c.die c.isl fun x =>
        let t := x.tile (c.f0 40 4)
        let a := match t.anchor with | some a => a.toInt | none => 0
        let add (ents : List (Nat × Entry)) (e : LoadEl) : List (Nat × Entry) :=
          let y := (lookD ents e.x0 .zero).add a (decodeF 9 (fieldNat e.pay 0 32))
          if y = .zero then del ents e.x0 else putAsc ents e.x0 y
        x.setTile (c.f0 40 4) { t with ents := c.buf.foldl add t.ents }
      .next (finishCmd s c)
    else
      let h := c.hdr.getD 0
      let book := match s.region c.die c.rblk with
        | some r => bookEntries (s.die c.die) (r.blockOf c.cell) (hdrCb h)
        | none => []
      .next (finishCmd (updIsland s c.die c.isl fun x => x.setSlot (c.f0 48 8) (loadSlot c book)) c)

/-! MMA and MMAS (R240, R241). -/

/-- A slot is held by the task and loaded with a ROLE. -/
def slotReady (c : Cmd) (x : MIsland) (n role : Nat) : Bool :=
  (x.slot n).owner == c.seq && (x.slot n).loaded && (x.slot n).role == role

/-- The checks of the tile and the slots at the start (R240, R241). -/
def mulOk (c : Cmd) (x : MIsland) : Bool :=
  let kt := classKt (x.slot (c.aSlot 0)).fmt
  let t := x.tile c.accTile
  let ss := List.range (min c.steps 256)
  t.owner == c.seq && (c.f0 35 1 == 0 || t.anchor.isSome) &&
  ss.all (fun k => slotReady c x (c.aSlot k) 0 && classKt (x.slot (c.aSlot k)).fmt == kt) &&
  ss.all (fun k => (c.bSlots k).all fun n => slotReady c x n 1 && classKt (x.slot n).fmt == kt) &&
  (c.eop != 0x11 ||
    (List.range (min ((c.steps + 512 / kt - 1) / (512 / kt)) 256)).all fun j => slotReady c x ((c.f1 56 8 + j) % 256) 2)

/-- The anchor of a fresh tile (R79, R240). -/
def freshAnchor (c : Cmd) (x : MIsland) : BitVec 16 :=
  if c.f0 34 1 == 0 then c.words.w0.extractLsb' 0 16
  else
    let ss := List.range (min c.steps 256)
    let ea := ss.foldl (fun m k => maxEx m (x.slot (c.aSlot k)).exmax) none
    let eb := ss.foldl (fun m k => (c.bSlots k).foldl (fun m n => maxEx m (x.slot n).exmax) m) none
    match ea, eb with
    | some a, some b => BitVec.ofInt 16 (a + b + 2)
    | _, _ => 0

/-- The metadata nibble of a row and a group at a step (R236, R241). -/
def metaNibble (c : Cmd) (x : MIsland) (kt s m g : Nat) : Nat :=
  (x.slot (c.metaSlot kt s)).byte (16 * kt * (s % (512 / kt)) + kt / 4 * m + g / 2) / 16 ^ (g % 2) % 16

/-- A valid nibble: i0 < i1 (R241). -/
def nibbleOk (n : Nat) : Bool := n % 4 < n / 4

/-- The first bad nibble, in ascending step, row and group: (row, group, step, nibble). -/
def badNibble (c : Cmd) (x : MIsland) (kt : Nat) : Option (Nat × Nat × Nat × Nat) :=
  (List.range c.steps).findSome? fun s => (List.range 64).findSome? fun m => (List.range (kt / 2)).findSome? fun g =>
    let n := metaNibble c x kt s m g
    if nibbleOk n then none else some (m, g, s, n)

/-- A row of the A operand at a step: elements with their logical k (R240, R241). -/
def rowOf (c : Cmd) (x : MIsland) (kt s m : Nat) : List (El × Nat) :=
  (List.range kt).map fun k =>
    ((x.slot (c.aSlot s)).el (m * kt + k),
     if c.eop == 0x10 then k else
       let n := metaNibble c x kt s m (k / 2)
       4 * (k / 2) + (if k % 2 == 0 then n % 4 else n / 4))

/-- A column of the B operand at a step, by logical k. -/
def colOf (c : Cmd) (x : MIsland) (kt s n : Nat) : Array (El × Slot) :=
  ((c.bSlots s).flatMap fun b => (List.range kt).map fun k => ((x.slot b).el (n * kt + k), x.slot b)).toArray

/-- Adds the products of a row and a column to an entry (R80); the B slot of logical k picks the table. -/
def dotEntry (a : Int) (kt : Nat) (tables : List (List FVal)) (sa : Slot) (col : Array (El × Slot)) :
    List (El × Nat) → Entry × Bool → Entry × Bool
  | [], y => y
  | (e, k) :: rest, y =>
    let b := col.getD k (⟨0, 0, .fin false 0 0⟩, .empty)
    let p := elProduct (tables.getD (k / kt) []) sa b.2 e b.1
    dotEntry a kt tables sa col rest (y.1.add a p.1, y.2 || p.2)

/-- The product table of a step's A slot and its B slot number j (R240). -/
def stepTable (c : Cmd) (x : MIsland) (s j : Nat) : List FVal :=
  if (x.slot (c.aSlot s)).fmt == 14 then
    productTable (x.slot (c.aSlot s)).book (x.slot ((c.bSlots s).getD j 0)).book
  else x.table

/-- One step of a multiplication: the tile after it, and whether some product was invalid (R240, R241). -/
def mulStep (c : Cmd) (x : MIsland) (s : Nat) : Tile × Bool :=
  let t := x.tile c.accTile
  let a := match t.anchor with | some a => a.toInt | none => 0
  let sa := x.slot (c.aSlot s)
  let kt := classKt sa.fmt
  let rows := ((List.range 64).map (rowOf c x kt s)).toArray
  let cols := ((List.range 64).map (colOf c x kt s)).toArray
  let tables := (List.range (c.bSlots s).length).map (stepTable c x s)
  let all := (List.range 4096).map fun i =>
    (i, dotEntry a kt tables sa (cols.getD (i % 64) #[]) (rows.getD (i / 64) []) (t.ent i, false))
  ({ t with ents := all.filterMap fun e => if e.2.1 = .zero then none else some (e.1, e.2.1) }, all.any (·.2.2))

/-- The start of a multiplication (R240, R241): its checks, the metadata's, the fresh tile and the table. -/
def mulBegin (s : State) (c : Cmd) : State :=
  let x := (s.die c.die).island c.isl
  let kt := classKt (x.slot (c.aSlot 0)).fmt
  if !mulOk c x then failCmd s c fcEngine 0 noStep
  else match (if c.eop == 0x11 then badNibble c x kt else none) with
    | some (m, g, k, n) => failCmd s c fcSparse (m + g <<< 6 + k <<< 13 + n <<< 32) noStep
    | none =>
      let s := updIsland s c.die c.isl fun x =>
        let x := { x with table := stepTable c x 0 0 }
        if c.f0 35 1 == 0 then x.setTile c.accTile ⟨c.seq, some (freshAnchor c x), []⟩ else x
      let scan := if c.eop == 0x11 then (c.steps * kt + 63) / 64 else 0
      let t := s.now c.die
      (s.updCmd c.id fun c => { c with begun := true, due := t + scan + 63 }).updRegion c.die c.rblk (Region.act t)

/-- A multiplication's turn: the start, then one step every 64 cycles; a FREEZE stops it after its step (R240, R245, R247). -/
def mulTurn (s : State) (c : Cmd) : State :=
  if !c.begun then mulBegin s c
  else
    let t := s.now c.die
    let s := updIsland s c.die c.isl fun x => { x with table := stepTable c x c.item 0 }
    let r := mulStep c ((s.die c.die).island c.isl) c.item
    let s := updIsland s c.die c.isl fun x => x.setTile c.accTile r.1
    let s := s.updRegion c.die c.rblk fun y => (orFlags y (if r.2 then flagNV else noFlag)).act t
    let c := { c with item := c.item + 1 }
    if c.steps ≤ c.item then finishCmd (s.updCmd c.id fun _ => c) c
    else
      let stop : Bool := match s.region c.die c.rblk with | some y => y.held | none => false
      s.updCmd c.id fun _ => { c with stage := if stop then .parked else .running, due := t + 64 }

/-- MMA (R240). -/
def execMma (w : EngWords) (s : State) : Out := engineTurn w s (mulTurn s)

/-- MMAS (R241). -/
def execMmas (w : EngWords) (s : State) : Out := engineTurn w s (mulTurn s)

/-! MDRAIN (R242). -/

/-- Ring hops between two islands. -/
def ringHops (i j : Nat) : Nat := let d := max i j - min i j; min d (48 - d)

/-- The merge is applied at the target (R242). -/
def drainApply (s : State) (c : Cmd) : State :=
  match drainMerge s c with
  | .inl (code, detail) => failCmd s c code detail 0
  | .inr s => finishCmd s c

/-- MDRAIN (R242). -/
def execMdrain (w : EngWords) (s : State) : Out :=
  engineTurn w s fun c =>
    if c.begun then drainApply s c
    else if !drainOk s c then failCmd s c fcEngine 0 noStep
    else
      let h := ringHops c.isl (c.f1 58 6)
      s.updCmd c.id fun x => { x with begun := true, due := s.now c.die + 3 * h + 63 }

/-! NORM (R243, R244). -/

/-- The element of a reading that a lane carries: as F32 with its flags, or handed over. -/
def normToken (t : Tile) (hand : Bool) (i : Nat) : Token × FlagBits :=
  let a := t.anchor.getD 0
  let x := t.ent i
  if hand then
    (⟨.val, x.t.extractLsb' 0 64, false, .hand a (x.t.extractLsb' 64 64) x.handCls, 0, false⟩, noFlag)
  else
    let r := x.toF32 a.toInt
    (.plain .val (BitVec.ofNat 64 r.1), r.2)

/-- Item n of the stream of L lanes: one token per lane, the flags, and whether it is the last (R243). -/
def normItem (t : Tile) (hand : Bool) (lanes n : Nat) : List Token × FlagBits × Bool :=
  let per := if lanes == 64 then 1 else 64 / lanes + 1
  let all (k : Token) : List Token := List.replicate lanes k
  if n == 0 then (all (.plain .hdr (if hand then handHdr else plainHdr 9)), noFlag, false)
  else
    let row := (n - 1) / per
    let q := (n - 1) % per
    if row < 64 then
      if q == per - 1 && lanes != 64 then (all (.plain .eor 0), noFlag, false)
      else
        let ks := (List.range lanes).map fun j => normToken t hand (64 * row + q * lanes + j)
        (ks.map (·.1), ks.foldl (fun f k => f ||| k.2) noFlag, false)
    else if lanes == 64 && n == 65 then (all (.plain .eor 0), noFlag, false)
    else (all (.plain .eot 0), noFlag, true)

/-- Reads the tile in the start cycle (R243). -/
def normBegin (s : State) (c : Cmd) : Option State :=
  let t := ((s.die c.die).island c.isl).tile c.accTile
  if t.owner == c.seq && t.anchor.isSome then
    let s := s.updCmd c.id fun c => { c with begun := true, reading := some t }
    some (if c.clr then updIsland s c.die c.isl fun x => x.setTile c.accTile t.restart else s)
  else none

/-- Sends the next item if every receiving port has a free slot (R243). -/
def normSend (s : State) (c : Cmd) : State :=
  match s.region c.die c.rblk, s.cmd c.id with
  | some r, some c =>
    let t := s.now c.die
    let port := c.f0 15 2
    if r.held || !(c.normCells.all fun x => returnRoom r x.1 port t) then s
    else
      let i := normItem (c.reading.getD .empty) (c.f0 34 1 == 1) (2 ^ c.f0 31 3) c.item
      let s := s.updRegion c.die c.rblk fun r =>
        orFlags (c.normCells.foldl (fun r x => returnTok r x.1 port t (i.1.getD x.2 .voidVal)) r) i.2.1
      let c := { c with item := c.item + 1 }
      let s := s.updCmd c.id fun _ => c
      if i.2.2 then finishCmd s c else s
  | _, _ => s

/-- NORM (R243). -/
def execNorm (w : EngWords) (s : State) : Out :=
  engineTurn w s fun c =>
    if c.begun then normSend s c
    else match normBegin s c with
      | some s => normSend s c
      | none => failCmd s c fcEngine 0 noStep

end Sys2Proof.Machine
end

