-- ==== Sys2Proof/Machine/Random.lean ====
section
/-! DEFINITION. Random draws and keys (R149-R152) and the device allocator (R153-R155). -/

namespace Sys2Proof.Machine

/-! The draw function (R149). -/

/-- Rotation of a 32-bit word to the left. -/
def rotl32 (x : W32) (n : Nat) : W32 := x <<< n ||| x >>> (32 - n)

/-- Rotation amounts (Table 10.3). -/
def drawRot (n : Nat) : Nat × Nat × Nat × Nat :=
  match n % 4 with
  | 0 => (16, 12, 8, 7) | 1 => (13, 19, 5, 29) | 2 => (11, 23, 17, 3) | _ => (9, 14, 21, 26)

/-- The four words of a draw. -/
abbrev Draw := W32 × W32 × W32 × W32

/-- Word i of a key. -/
def keyWord (k : BitVec 128) (i : Nat) : W32 := k.extractLsb' (32 * (i % 4)) 32

/-- One round without the key. -/
def drawMix (n : Nat) (x : Draw) : Draw :=
  let (ra, rb, rc, rd) := drawRot n
  let (x0, x1, x2, x3) := x
  let x0 := x0 + x1; let x3 := rotl32 (x3 ^^^ x0) ra
  let x2 := x2 + x3; let x1 := rotl32 (x1 ^^^ x2) rb
  let x0 := x0 + x1; let x3 := rotl32 (x3 ^^^ x0) rc
  let x2 := x2 + x3; let x1 := rotl32 (x1 ^^^ x2) rd
  (x0, x1, x2, x3)

/-- One round; every fourth adds the key. -/
def drawRound (k : BitVec 128) (n : Nat) (x : Draw) : Draw :=
  let (x0, x1, x2, x3) := drawMix n x
  if n % 4 == 3 then
    let j := (n + 1) / 4
    let c : W32 := BitVec.ofNat 32 (j * 0x9E3779B9)
    (x0 + keyWord k j + c, x1 + keyWord k (1 + j) + c + 1, x2 + keyWord k (2 + j) + c + 2, x3 + keyWord k (3 + j) + c + 3)
  else (x0, x1, x2, x3)

/-- D(K, C) (R149). -/
def drawD (k c : BitVec 128) : W64 :=
  let x : Draw := (keyWord c 0 ^^^ keyWord k 0, keyWord c 1 ^^^ keyWord k 1, keyWord c 2 ^^^ keyWord k 2,
    keyWord c 3 ^^^ keyWord k 3)
  let (x0, x1, x2, x3) := (List.range 12).foldl (fun x n => drawRound k n x) x
  (x3 ^^^ x1) ++ (x2 ^^^ x0)

/-- v of a draw d by TYPE (R150). -/
def drawValue (ty : Nat) (d : W64) : W64 :=
  match ty with
  | 8 => d
  | 7 => d &&& 0xFFFFFFFF#64
  | _ => BitVec.ofNat 64 (roundFin 9 .rne false (d.toNat / 2 ^ 40) (-24)).bits

/-- The pair of main registers n + 1 : n. -/
def regPair (y : CellRt) (n : Nat) : BitVec 128 := y.g.getD (n + 1) 0 ++ y.g.getD n 0

/-- Writes a pair of main registers. -/
def setPair (y : CellRt) (n : Nat) (v : BitVec 128) : CellRt :=
  { y with g := (y.g.set n (v.extractLsb' 0 64)).set (n + 1) (v.extractLsb' 64 64) }

/-- RND (R150): phase counts the CTLs of a LOADS group, begun says that the seed is loaded, and outCnt is 1 from each EOT on. Before the
first EOT a group is taken once a VAL heads in0; behind an EOT it is due at once, and neither a VAL nor the next EOT goes before it
(log 64). -/
def execRnd (m : Mods) (s : State) : Out :=
  cellTurn s m fun cx =>
    let kb := m.modF 0 5
    let cb := m.modF 5 5
    let loads := m.modF 10 1 == 1
    let save := m.modF 11 1 == 1
    let outs := cx.x.cfg.dataOuts.filter fun d => !(save && d == 1)
    let all (k : Token) : List (Nat × Token) := outs.map fun d => (d, k)
    let y := cx.x.rt
    let is (kd : Kind) : Bool := (cx.head 0).any (·.kind == kd)
    let due := loads && !y.begun && (y.outCnt == 1 || is .val)
    if cx.refuses 0 markKinds hdrMove then .reject 0
    else if loads && refusesCtl cx 1 then .reject 1
    else if due && (cx.head 1).isSome then
      let reg := match y.phase with | 0 => kb | 1 => kb + 1 | 2 => cb | _ => cb + 1
      let v := (cx.head 1).elim 0 (·.pay)
      .act { takes := [1], upd := fun y => { y with g := y.g.set reg v, phase := (y.phase + 1) % 4, begun := y.phase == 3 } }
    else if due && (is .val || is .eot) then .idle
    else match cx.head 0 with
      | none => .idle
      | some k =>
        match k.kind with
        | .val =>
          if k.void then .act { takes := [0], sends := all .voidVal }
          else if [kb, kb + 1, cb, cb + 1].any (fun i => cx.pendingReg (0x20 + i)) then .idle
          else
            let c := regPair y cb
            let v := drawValue m.tyNat (drawD (regPair y kb) c)
            .act { takes := [0], sends := all (.plain .val v), val := some v,
                   upd := fun y => setPair y cb (c + (cx.x.cfg.const 0).setWidth 128) }
        | .eot =>
          let owed := if save && cx.x.cfg.dataOuts.contains 1 then
              [kb, kb + 1, cb, cb + 1].map fun i => (2, Token.plain .ctl (y.g.getD i 0))
            else []
          .act { takes := [0], sends := all (.plain .eot 0),
                 upd := fun y => { y with begun := false, phase := 0, outCnt := 1, owed := y.owed ++ owed } }
        | _ => .act { takes := [0], sends := all (markerOf k (plainHdr m.tyNat)) }

/-- A token of an ADD128 group sent void: a VAL as a void VAL, a CTL with payload 0. -/
def voidAs (k : Kind) : Token := if k == .val then .voidVal else .plain k 0

/-- ADD128 (R151): phase is the position in the group; acc and acc2 hold token AT and the low addend until token AT + 1
decides whether both go void. Markers that come between the two wait behind token AT in results; an EOT there ends the group, so that
token AT leaves alone. -/
def execAdd128 (m : Mods) (s : State) : Out :=
  cellTurn s m fun cx =>
    let grp := m.modF 0 4
    let at_ := m.modF 4 3
    let y := cx.x.rt
    let pos := y.phase
    let linked := cx.bound 1
    if cx.refuses 0 markKinds hdrMove then .reject 0
    else if linked && cx.refuses 1 [.val, .ctl] (fun _ => true) then .reject 1
    else match cx.head 0 with
      | none => .idle
      | some k =>
        let step (y : CellRt) : CellRt := { y with phase := (pos + 1) % grp }
        let held : List (Nat × Token) := y.results.map fun r => (r.mask, r.tok)
        let kd := Kind.ofCode y.runIdx
        match k.kind with
        | .val | .ctl =>
          if pos == at_ || pos == at_ + 1 then
            match (if linked then cx.head 1 else some (.plain .ctl (cx.x.cfg.const (pos - at_)))) with
            | none => .idle
            | some x =>
              let takes := if linked then [0, 1] else [0]
              let gone := k.void || x.void
              if pos == at_ then
                let keep (y : CellRt) : CellRt :=
                  step { y with acc := k.pay, acc2 := x.pay, begun := gone, runIdx := k.kind.code }
                .act { takes := takes, upd := keep }
              else
                let sum : BitVec 128 := (k.pay ++ y.acc) + (x.pay ++ y.acc2)
                let void := gone || y.begun
                let lo : Token := if void then voidAs kd else .plain kd (sum.extractLsb' 0 64)
                let hi : Token := if void then voidAs k.kind else .plain k.kind (sum.extractLsb' 64 64)
                let done (y : CellRt) : CellRt :=
                  step { y with begun := false, results := [], owed := y.owed ++ held ++ [(cx.outMask, hi)] }
                let val := if lo.kind == .val && !void then some lo.pay else none
                .act { takes := takes, sends := cx.toAll lo, val := val, upd := done }
          else
            let e := moveAll cx (if k.kind == .val then bareVal k else k) [0]
            .act { e with upd := step }
        | .eot =>
          let ended (y : CellRt) : CellRt := { y with phase := 0, begun := false }
          if pos == at_ + 1 then
            let lo : Token := if y.begun then voidAs kd else .plain kd (y.acc + y.acc2)
            .act { takes := [0], sends := cx.toAll lo, val := if lo.kind == .val && !lo.void then some lo.pay else none,
                   upd := fun y => ended { y with results := [], owed := y.owed ++ held ++ [(cx.outMask, .plain .eot 0)] } }
          else .act { takes := [0], sends := cx.toAll (.plain .eot 0), upd := ended }
        | _ =>
          if pos == at_ + 1 then
            .act { takes := [0], upd := fun y => y.addResult { cx.ready (markerOf k k.pay) cx.t with ready := false } }
          else .act (moveAll cx (markerOf k k.pay) [0])

/-- Deliveries so far at this cell's index and region number (R152). -/
def keyCount (cx : Cx) : Nat :=
  match cx.s.task cx.r.seq with
  | some t => lookD t.keys (cx.r.num, cx.c) 0
  | none => 0

/-- RNDKEY: each CTL delivers key n as two CTLs, with the seed constants after it (R152). -/
def execRndkey (m : Mods) (s : State) : Out :=
  cellTurn s m fun cx =>
    if refusesCtl cx 0 then .reject 0
    else if !cx.x.rt.results.isEmpty || (cx.head 0).isNone then .idle
    else
      let log := m.modF 2 2
      let n := keyCount cx
      let count (s : State) : State := s.updTask cx.r.seq fun t => { t with keys := put t.keys (cx.r.num, cx.c) (n + 1) }
      let seed : List Result := if m.modF 4 1 == 1 then
          [cx.ready (.plain .ctl (cx.x.cfg.const 0)) cx.t, cx.ready (.plain .ctl (cx.x.cfg.const 1)) cx.t] else []
      if log == 0 then
        let key := Config.freshKey cx.s.module.nextKey
        .act
          { takes := [0]
            upd := fun y => { y with results := y.results ++
              [cx.ready (.plain .ctl (key.extractLsb' 0 64)) cx.t, cx.ready (.plain .ctl (key.extractLsb' 64 64)) cx.t] ++ seed }
            after := fun s => count (s.updMod fun x => { x with nextKey := x.nextKey + 1 }) }
      else
        let ks := m.modF 0 2
        if cx.kPending ks || !tileRoom cx 1 then .idle
        else
          let k := cx.kreg ks [0]
          let need := if log == 1 then rRead ||| rWrite else rRead
          let b : Int := (k.cursor : Int) + 16 * (n : Int)
          let a := { cx.access 0 0 255 k b need n with pos := n }
          match capCheckAt k need b 16 1 with
          | some c => .violate c { a with ofs := faultOfs k c b 16 }
          | none => .act
            { takes := [0]
              upd := fun y => { y with results := y.results ++
                [cx.awaits (.plain .ctl 0), cx.awaits (.plain .ctl 0)] ++ seed }
              after := fun s => count (issueReq s { cx.request .keyRead k b.toNat 16 a with form := log }) }

/-! The allocator (R153-R155). -/

/-- An arena header as read: OWNER, TOP, TOP0, NEXTN, and whether its reserved bits are zero (Table 10.4). -/
structure Arena where
  owner : Nat
  top : Nat
  top0 : Nat
  nextn : Nat
  clean : Bool

/-- The header in 64 bytes. -/
def arenaOf (bs : List Byte) : Arena :=
  let n := leNat bs
  ⟨n % 2 ^ 24, n / 2 ^ 64 % 2 ^ 64, n / 2 ^ 128 % 2 ^ 64, n / 2 ^ 192 % 2 ^ 64,
   n / 2 ^ 24 % 2 ^ 40 == 0 && n / 2 ^ 256 == 0⟩

/-- The bytes of a header. -/
def Arena.bytes (a : Arena) : List Byte :=
  natLe 64 (a.owner + a.top <<< 64 + a.top0 <<< 128 + a.nextn <<< 192)

/-- Length of an arena: of its object, as far as the capability covers it. -/
def arenaLen (s : State) (k : Cap) : Nat :=
  min k.top (match (s.dies.flatMap (·.xlates)).find? fun x => x.oid == k.oid with
    | some x => fieldNat x.desc 140 44
    | none => fieldNat (BitVec.ofNat 256 (physNat s (s.module.otb.toNat + 32 * k.oid) 32)) 140 44)

/-- How the controller reaches an arena's header: at home, outside race detection. -/
def arenaMode (d blk : Nat) : Mode := ⟨d, blk, false, none, false, false, []⟩

/-- The fault of a write to the first byte of an object (R164). -/
def writeBad (s : State) (d blk oid : Nat) : Option Nat :=
  match translate s d blk oid 0 true false with
  | (.bad c, _) => some c
  | _ => none

/-- Reads and checks the header, for a change where writes is set: the fault code, the header, the state (R153, R164). -/
def readArena (s : State) (d blk : Nat) (k : Cap) (writes : Bool) : Nat × Arena × State :=
  match loadAt s (arenaMode d blk) k.oid 0 64 true with
  | .ok bs s =>
    let a := arenaOf bs
    match if writes && s.wants.isEmpty then writeBad s d blk k.oid else none with
    | some c => (c, a, s)
    | none => if a.top % 64 != 0 || a.top < 64 || arenaLen s k < a.top || !a.clean then (fcBounds, a, s) else (0, a, s)
  | .bad c _ _ s => (c, ⟨0, 0, 0, 0, true⟩, s)

/-- Writes the header. -/
def writeArena (s : State) (d blk : Nat) (k : Cap) (a : Arena) : State :=
  match storeAt s (arenaMode d blk) k.oid 0 a.bytes true with
  | .ok _ s => s
  | .bad _ _ _ s => s

/-- The extent granted: exponent, base and length, from the smallest exponent whose granularity bounds it exactly (R154,
R156). -/
def grantExtent (top len : Nat) : Nat → Nat → Option (Nat × Nat × Nat)
  | 0, _ => none
  | f + 1, e =>
    let g := 2 ^ e
    let b := ceilDiv top g * g
    let l := ceilDiv len g * g
    if (b + l) / g ≤ 2 ^ 18 - 1 then some (e, b, l) else grantExtent top len f (e + 1)

/-- A turn that lacks bytes of another module: it is settled as not taken (R315). -/
def waitFar (s1 : State) : Fire := .eff { after := fun s => { s with wants := s1.wants } }

/-- ALLOC (R154). -/
def execAlloc (m : Mods) (s : State) : Out :=
  settleOut s <| cellTurn s m fun cx =>
    elemTurn cx [0] (fun _ => hdrOnly m.tyNat) (plainHdr m.tyNat) fun os =>
      let ks := m.modF 0 2
      let a := (opPay os 0).toNat
      let n := match cx.s.task cx.r.seq with | some t => t.grants | none => 0
      if cx.kPending ks then .hold
      else
        let k := cx.kreg ks [0]
        let need := rRead ||| rWrite ||| rDerive
        let rec_ (ofs : Nat) : Access := { cx.access 0 2 255 k ofs need a with pos := n }
        match capCheck k need 0 64 with
        | some c => .violate c (rec_ (faultOfs k c 0 64))
        | none =>
          match readArena cx.s cx.r.die cx.blk k true with
          | (code, h, s1) =>
            if !s1.wants.isEmpty then waitFar s1
            else if code != 0 then .violate code (rec_ 0)
            else
              let h : Arena :=
                if n == 0 then
                  (if h.owner == cx.r.seq then { h with top := h.top0 } else { h with owner := cx.r.seq, top0 := h.top })
                else h
              let len := ceilDiv (max a 64) 64 * 64
              let count (s : State) : State := s.updTask cx.r.seq fun t => { t with grants := t.grants + 1 }
              let grant := (grantExtent h.top len 27 0).bind fun x =>
                if a == 0 || arenaLen s1 k < x.2.1 + x.2.2 then none else some x
              match grant with
              | none =>
                if m.modF 2 1 == 1 then
                  .eff { sends := cx.toAll .voidVal, after := fun s => count (writeArena s cx.r.die cx.blk k h) }
                else .violate fcAlloc (rec_ h.top)
              | some (e, b, l) =>
                let k' := ((k.withBounds e (b / 2 ^ e) ((b + l) / 2 ^ e)).withCursor b).withRights (k.rights &&& 0x3F)
                match sendCap cx k' with
                | .eff ef =>
                  let grow (s : State) : State :=
                    count (writeArena s cx.r.die cx.blk k { h with top := b + l, nextn := n + 1 })
                  .eff { ef with after := grow }
                | x => x

/-- FREE records an extent for the belay (R155). -/
def execFree (m : Mods) (s : State) : Out :=
  settleOut s <| cellTurn s m fun cx =>
    elemTurn cx [0] (fun _ => hdrOnly m.tyNat) (plainHdr m.tyNat) fun os =>
      let ks := m.modF 0 2
      let as_ := m.modF 2 2
      if cx.kPending ks || cx.kPending as_ then .hold
      else
        let k := cx.kreg ks [0]
        let ar := cx.kreg as_ [0]
        let rec_ : Access := cx.access 0 1 255 k k.base 0 0
        let head : Access := cx.access 0 0 255 ar 0 rRead (opPay os 0).toNat
        let (code, h, s1) := readArena cx.s cx.r.die cx.blk ar false
        if !s1.wants.isEmpty then waitFar s1
        else if !k.tag || !ar.tag || k.oid != ar.oid || k.base % 64 != 0 || k.top % 64 != 0 || k.base < 64 then .violate fcBounds rec_
        else if code != 0 then .violate code head
        else if h.top < k.top then .violate fcBounds { rec_ with ofs := max k.base h.top }
        else if 64 ≤ cx.r.freeList.length then .violate fcAlloc { rec_ with ofs := h.top, base := (opPay os 0).toNat }
        else .eff { after := fun s => s.updRegion cx.r.die cx.r.rblk fun r =>
          { r with freeList := r.freeList ++ [(ar, k.base, k.top)] } }

/-- Extents in descending base order (R155). -/
def freeOrder (l : List (Cap × Nat × Nat)) : List (Cap × Nat × Nat) :=
  l.foldl (fun acc x => acc.takeWhile (fun y => x.2.1 ≤ y.2.1) ++ [x] ++ acc.dropWhile (fun y => x.2.1 ≤ y.2.1)) []

/-- Applies extents in order: one whose top is TOP sets TOP to its base, any other goes, with one whose header is none any more. A
header that cannot be read faults as an access of the controller; that extent and those behind it stay on the list (R155, R297). -/
def applyExtents (s : State) (r : Region) : List (Cap × Nat × Nat) → Option Unit × State
  | [] => (some (), s.updRegion r.die r.rblk fun r => { r with freeList := [] })
  | x :: l =>
    match loadAt s (arenaMode r.die r.rblk) x.1.oid 0 64 true with
    | .bad code o tag s =>
      (none, ctlFault (s.updRegion r.die r.rblk fun r => { r with freeList := x :: l }) r code true x.1 o (rRead ||| rWrite) tag)
    | .ok _ s1 =>
      match readArena s r.die r.rblk x.1 true with
      | (0, h, s) =>
        if h.top == x.2.2 then
          match storeAt s (arenaMode r.die r.rblk) x.1.oid 0 (Arena.bytes { h with top := x.2.1 }) true with
          | .bad code o tag s =>
            (none, ctlFault (s.updRegion r.die r.rblk fun r => { r with freeList := x :: l }) r code true x.1 o (rRead ||| rWrite) tag)
          | .ok _ s => applyExtents s r l
        else applyExtents s r l
      | _ => applyExtents s1 r l

/-- The free list at the belay (R155); none where an access stops. -/
def applyFrees (s : State) (r : Region) : Option Unit × State := applyExtents s r (freeOrder r.freeList)

end Sys2Proof.Machine
end

