-- ==== Sys2Proof/Machine/Stages.lean ====
section
/-! DEFINITION. Stages and their memory queues (R213, R281-R286), and the completion of a BELAY with the commit of its stage
(R206, R284). -/

namespace Sys2Proof.Machine

/-! Queue headers (R281, Table 20.5). -/

/-- A queue header: where it stands, and its fields. -/
structure QHead where
  slot : Nat
  ofs : Nat
  head : Nat
  tail : Nat
  nrec : Nat
  rsz : Nat
  hiwat : Nat
  lowfree : Nat
  ovr : Bool
  deriving DecidableEq, Repr

/-- A header from its words. -/
def qhead (slot ofs : Nat) (ws : List W64) : QHead :=
  let f (w lo n : Nat) : Nat := fieldNat (ws.getD w 0) lo n
  { slot := slot, ofs := ofs, head := f 0 0 64, tail := f 1 0 64, nrec := f 2 0 32, rsz := f 2 32 16,
    hiwat := f 2 48 16 + f 3 0 8 * 2 ^ 16, lowfree := f 3 8 24, ovr := (ws.getD 3 0).getLsbD 37 }

namespace QHead

/-- Object offset of record k. -/
def rec_ (q : QHead) (k : Nat) : Nat := q.ofs + 64 + q.rsz * 64 * (k % q.nrec)
/-- Free records. -/
def free (q : QHead) : Nat := q.nrec - (q.tail - q.head)
/-- F: records that a producer may write (R283). -/
def room (q : QHead) : Nat := min (q.free - 1) (q.nrec - q.tail % q.nrec)

end QHead

/-- The capability of a slot. -/
def taskSlot (s : State) (r : Region) (n : Nat) : Cap := s.arg r.seq n

/-- An access within a sequence of the hardware that is all or nothing: where it stops, it stops in the state in which the sequence
began. -/
def onBase (base s : State) (f : State → CAcc) : Option W64 × State :=
  match f s with
  | .ok v t => (some v, t)
  | .stop t => match f base with
    | .stop u => (none, { u with wants := t.wants })
    | .ok _ _ => (none, { base with wants := t.wants })

/-- Reads words of a queue from offset o up, in a sequence that began in base; none where an access stops. -/
def stageReads (base s : State) (r : Region) (k : Cap) (o : Nat) : Nat → Option (List W64) × State
  | 0 => (some [], s)
  | n + 1 =>
    match onBase base s fun s => ctlRead s r k o 8 rRead with
    | (none, s) => (none, s)
    | (some v, s) =>
      match stageReads base s r k (o + 8) n with
      | (some vs, s) => (some (v :: vs), s)
      | x => x

/-- Writes a word of a queue in such a sequence. -/
def stageWrite (base s : State) (r : Region) (k : Cap) (o : Nat) (v : W64) : Option W64 × State :=
  onBase base s fun s => ctlWrite s r k o 8 v rWrite

/-- Reads a queue header; none where an access stops. -/
def readQueue (base s : State) (r : Region) (slot ofs : Nat) : Option QHead × State :=
  match stageReads base s r (taskSlot s r slot) ofs 8 with
  | (some ws, s) => (some (qhead slot ofs ws), s)
  | (none, s) => (none, s)

/-- Bytes of n elements in a stage queue: C4 codes lie two to a byte (R62). -/
def tensorBytes (fmt n : Nat) : Nat := (n * tyWidth fmt + 7) / 8

/-- The checks of SETQ on a header (R282). -/
def queueOk (r : Region) (ws : List W64) : Bool :=
  let q := qhead 0 0 ws
  let fmt := fieldNat (ws.getD 3 0) 32 5
  let entry := (List.range 7).map fun i => (ws.getD (4 + i / 2) 0).extractLsb' (32 * (i % 2)) 32
  match OMap.ofEntry entry with
  | none => false
  | some m =>
    m.canon == m && r.orders.any (· == some m) && 1 ≤ fmt && fmt ≤ 14 &&
    tensorBytes fmt (m.cycles * m.lanes) ≤ q.rsz * 64 - 8 && 1 ≤ q.rsz && q.rsz ≤ 1024 && 2 ≤ q.nrec && q.nrec ≤ 2 ^ 24 &&
    1 ≤ q.lowfree && q.lowfree ≤ q.nrec - 1 && fieldNat (ws.getD 3 0) 38 26 == 0 && fieldNat (ws.getD 7 0) 32 32 == 0

/-- Data records of a queue from record k up, kind words read at home: count of leading data records, count of data records in
all, among n records; none where an access stops. -/
def countRecords (base s : State) (r : Region) (q : QHead) (k : Nat) : Nat → Option (Nat × Nat) × State
  | 0 => (some (0, 0), s)
  | n + 1 =>
    match onBase base s fun s => ctlRead s r (taskSlot s r q.slot) (q.rec_ k) 8 rRead with
    | (none, s) => (none, s)
    | (some v, s) =>
      match countRecords base s r q (k + 1) n with
      | (none, s) => (none, s)
      | (some (lead, all), s) => (some (if v == 0 then lead + 1 else 0, if v == 0 then all + 1 else all), s)

/-- D: data records from HEAD up to the first boundary or the ring's end; and all the data records held (R283, R285). -/
def queueData (base s : State) (r : Region) (q : QHead) : Option (Nat × Nat) × State :=
  match countRecords base s r q q.head (q.tail - q.head) with
  | (some (lead, all), s) => (some (min lead (q.nrec - q.head % q.nrec), all), s)
  | x => x

/-! Declarations (R213, R282). -/

/-- Where SETSTAGE.DECL and SETQ are allowed: region 0, before its ENTER, with no pitch running (R202, R282). -/
def declares (s : State) (r : Region) : Bool :=
  !r.running && r.num == 0 && (match s.task r.seq with | some t => !t.entered | none => false)

/-- Changes a stage of a task, adding it in ascending number if it is not there. -/
def putStage : List Stage → Nat → (Stage → Stage) → List Stage
  | [], n, f => [f ⟨n, none, none, none, false⟩]
  | x :: r, n, f =>
    if n < x.num then f ⟨n, none, none, none, false⟩ :: x :: r
    else if n = x.num then f x :: r
    else x :: putStage r n f

/-- SETSTAGE.DECL (R213). -/
def execSetstageDecl (g : FmtG) (s : State) : Out :=
  ctlTurn s fun r =>
    let b := (r.opB g).toNat
    let e := (r.wreg g.wa).toNat
    if !declares s r || 256 ≤ b || e % 8 != 0 then .next (trapIllegal s r)
    else .next ((ctlNext s r id).updTask r.seq fun t =>
      { t with stages := putStage t.stages b fun x => { x with entry := some e } })

/-- The queue is bound already on a side of some stage other than b, or stage b has one on that side (R282). -/
def bindingClash (s : State) (t : Task) (b slot ofs : Nat) (input : Bool) : Bool :=
  let side (x : Stage) : Option (Nat × Nat) := if input then x.inq else x.outq
  let same (p : Nat × Nat) : Bool := (s.arg t.seq p.1).oid == (s.arg t.seq slot).oid && p.2 == ofs
  t.stages.any fun x => (x.num == b && (side x).isSome) || (match side x with | some p => same p | none => false)

/-- SETQ: the header is checked, then bound (R282). -/
def setQueue (g : FmtG) (s : State) (input : Bool) : Out :=
  ctlMem s fun r =>
    let b := (r.opB g).toNat
    let slot := g.slot.toNat
    let ofs := (r.wreg g.wa).toNat
    match s.task r.seq with
    | none => .next (trapIllegal s r)
    | some t =>
      if !declares s r || 256 ≤ b || bindingClash s t b slot ofs input then .next (trapIllegal s r)
      else match ctlReads s r (taskSlot s r slot) ofs rRead 8 with
        | (none, s) => .next s
        | (some ws, s) =>
          if !queueOk r ws then .next (joinFault s r fcOrder 0 0 0)
          else .next ((ctlNext s r id).updTask r.seq fun t =>
            { t with stages := putStage t.stages b fun x =>
                if input then { x with inq := some (slot, ofs) } else { x with outq := some (slot, ofs) } })

/-- SETQ.IN. -/
def execSetqIn (g : FmtG) (s : State) : Out := setQueue g s true
/-- SETQ.OUT. -/
def execSetqOut (g : FmtG) (s : State) : Out := setQueue g s false

/-! The stage scheduler (R283, R285, R286). -/

/-- What the scheduler sees of a stage: eligible, data records of its input above HIWAT, and the headers. -/
structure StageView where
  stage : Stage
  eligible : Bool
  above : Nat
  inq : Option QHead
  outq : Option QHead
  deriving DecidableEq, Repr

/-- Looks at a stage; none where an access stops. -/
def viewStage (s : State) (r : Region) (x : Stage) : Option StageView × State :=
  let outRead : Option (Option QHead) × State := match x.outq with
    | none => (some none, s)
    | some (sl, o) => match readQueue s s r sl o with
      | (some q, s) => (some (some q), s)
      | (none, s) => (none, s)
  match outRead with
  | (none, s) => (none, s)
  | (some oq, s) =>
    let space : Bool := match oq with | none => true | some q => decide (q.lowfree ≤ q.room)
    match x.inq with
    | none => (some ⟨x, space && !x.exhausted, 0, none, oq⟩, s)
    | some (sl, o) =>
      match readQueue s s r sl o with
      | (none, s) => (none, s)
      | (some q, s) =>
        match queueData s s r q with
        | (none, s) => (none, s)
        | (some (_, all), s) => (some ⟨x, space && 1 ≤ all, all - q.hiwat, some q, oq⟩, s)

/-- Looks at every stage; none where an access stops. -/
def viewStages (s : State) (r : Region) : List Stage → Option (List StageView) × State
  | [] => (some [], s)
  | x :: rest =>
    match viewStage s r x with
    | (none, s) => (none, s)
    | (some v, s) =>
      match viewStages s r rest with
      | (some l, s) => (some (v :: l), s)
      | y => y

/-- The stage chosen for a region whose last stage is given (R285). -/
def chooseStage (vs : List StageView) (last : Option Nat) : Option StageView :=
  let el := vs.filter (·.eligible)
  match el.find? fun v => last == some v.stage.num with
  | some v => some v
  | none =>
    match el.foldl (fun (b : Option StageView) v =>
        match b with
        | some x => if x.above < v.above then some v else b
        | none => if 0 < v.above then some v else none) none with
    | some v => some v
    | none => el.head?

/-- Consumes boundaries at HEAD: their kind words become 0 (R283); none where an access stops. -/
def eatBoundaries (base s : State) (r : Region) (q : QHead) : Nat → Option QHead × State
  | 0 => (some q, s)
  | n + 1 =>
    let k := taskSlot s r q.slot
    if q.tail ≤ q.head then (some q, s)
    else match onBase base s fun s => ctlRead s r k (q.rec_ q.head) 8 rRead with
      | (none, s) => (none, s)
      | (some v, s) =>
        if v == 0 then (some q, s)
        else match stageWrite base s r k (q.rec_ q.head) 0 with
          | (none, s) => (none, s)
          | (some _, s) =>
            match stageWrite base s r k q.ofs (BitVec.ofNat 64 (q.head + 1)) with
            | (none, s) => (none, s)
            | (some _, s) => eatBoundaries base s r { q with head := q.head + 1 } n

/-- Moves the cursor of an argument slot (R283). -/
def moveSlot (s : State) (q slot ofs : Nat) : State :=
  s.updTask q fun t => { t with args := modNth t.args slot fun c => c.withCursor ofs }

/-- A stage's queues as its offer finds them: boundaries at HEAD consumed, then both headers read (R283). -/
def openQueues (s : State) (r : Region) (v : StageView) : Option (Option (QHead × Nat) × Option QHead) × State :=
  let input : Option (Option (QHead × Nat)) × State := match v.inq with
    | none => (some none, s)
    | some q => match eatBoundaries s s r q (q.tail - q.head) with
      | (none, t) => (none, t)
      | (some q, t) => match queueData s t r q with
        | (some (d, _), t) => (some (some (q, d)), t)
        | (none, t) => (none, t)
  match input, v.outq with
  | (none, t), _ => (none, t)
  | (some iq, t), none => (some (iq, none), t)
  | (some iq, t), some q =>
    match readQueue s t r q.slot q.ofs with
    | (some oq, t) => (some (iq, some oq), t)
    | (none, t) => (none, t)

/-- Physical address of the record at an offset of a queue's object. -/
def recordPlace (s : State) (r : Region) (k : Cap) (o : Nat) : Option Nat :=
  match translate s r.die r.rblk k.oid o true false with
  | (.ok pa, _) => some pa
  | _ => none

/-- The records that a commit adds carry the committing task's snapshot (R171, R284). -/
def leaveEdges (s : State) (r : Region) (q : QHead) (n : Nat) : State :=
  (List.range n).foldl (fun s i =>
    match recordPlace s r (taskSlot s r q.slot) (q.rec_ (q.tail + i)) with
    | some a => { s with queueEdges := put s.queueEdges a (s.edgeOf r.seq) }
    | none => s) s

/-- The task takes the queue edge of each record that a stage is offered: another task's snapshot (R171, Table 11.7). -/
def takeEdges (s : State) (r : Region) (q : QHead) (n : Nat) : State :=
  (List.range n).foldl (fun s i =>
    match (recordPlace s r (taskSlot s r q.slot) (q.rec_ (q.head + i))).bind (look s.queueEdges) with
    | some e => if e.2.getLast? == some r.seq then s else takeSnapshot s r.seq e
    | none => s) s

/-- The region starts a stage with its offer (R283), ordered behind what wrote the records of it (R284). -/
def enterStage (s : State) (r : Region) (v : StageView) : State :=
  match openQueues s r v with
  | (none, s) => s
  | (some (iq, oq), s) =>
    let s := match iq with | some (q, d) => moveSlot (takeEdges s r q d) r.seq q.slot (q.rec_ q.head + 8) | none => s
    let s := match oq with | some q => moveSlot s r.seq q.slot (q.rec_ q.tail + 8) | none => s
    let d := match iq with | some (_, d) => d | none => 0
    let f := match oq with | some q => q.room | none => 0
    ctlGo s r.die r.rblk (v.stage.entry.getD 0) 1 fun r =>
      { r with i := (r.i.set 0 (BitVec.ofNat 32 d)).set 1 (BitVec.ofNat 32 f), stage := some v.stage.num }

/-- Staging ends for a region: it goes on after its ENTER with empty offers (R286). -/
def endStaging (s : State) (r : Region) : State :=
  ctlNext s r fun r => { r with i := (r.i.set 0 0).set 1 0, stage := none }

/-- Some region of the task runs a stage body (R286). -/
def bodyRuns (s : State) (q : Nat) : Bool := (s.regionsOf q).any fun x => x.stage.isSome && x.ctl != .stage

/-- The scheduler looks at a region at its ENTER: a stage, the end of staging for every waiting region, or a wait (R285, R286). -/
def scheduleStage (s : State) (r : Region) (t : Task) : State :=
  match viewStages s r t.stages with
  | (none, s) => s
  | (some vs, s) =>
    match chooseStage vs r.stage with
    | some v => enterStage s r v
    | none =>
      let s := s.updRegion r.die r.rblk fun r => { r with ctl := .stage }
      if bodyRuns s r.seq then s
      else (s.regionsOf r.seq).foldl (fun s x => if x.ctl == .stage then endStaging s x else s) s

/-- ENTER once region 0 has executed its own: a stage with a queue and no declaration is undeclared (R213, R282). -/
def enterStages (s : State) (r : Region) (t : Task) : State :=
  if t.stages.any (·.entry.isNone) then trapIllegal s r
  else scheduleStage (if r.num == 0 then s.updTask r.seq fun t => { t with entered := true } else s) r t

/-- SETSTAGE.ENTER (R213, R285). Regions other than region 0 wait for region 0's ENTER (R282). -/
def execSetstageEnter (_g : FmtG) (s : State) : Out :=
  ctlMem s fun r =>
    match s.task r.seq with
    | none => .next (trapIllegal s r)
    | some t =>
      if r.running then .next (trapIllegal s r)
      else if r.num == 0 || t.entered then .next (enterStages s r t)
      else .next (s.updRegion r.die r.rblk fun r => { r with ctl := .stage })

/-- STAGE_RESUME: a region waiting at ENTER is looked at again (R285). -/
def execStageResume (s : State) : Out :=
  ctlMem s fun r =>
    match r.ctl, s.task r.seq with
    | .stage, some t => if t.entered then .next (enterStages s r t) else .next s
    | _, _ => .next s

/-! The commit of a stage (R284). -/

/-- Register i0 or i1 as a number. -/
def offerOf (r : Region) (n : Nat) : Nat := (r.i.getD n 0).toNat

/-- c, the records that a commit counts: w13, at most i1 (R284). -/
def commitCount (r : Region) : Nat := min (r.w.getD 13 0).toNat (offerOf r 1)

/-- Commits the output queue: the clamp, the boundary, TAIL, and the snapshot of the records; none where an access stops. -/
def commitOut (base s : State) (r : Region) (p : Nat × Nat) : Option Unit × State :=
  let k := taskSlot s r p.1
  let c := commitCount r
  match readQueue base s r p.1 p.2 with
  | (none, s) => (none, s)
  | (some q, s) =>
    match stageWrite base s r k (q.rec_ (q.tail + c)) 7 with
    | (none, s) => (none, s)
    | (some _, s) =>
      match stageWrite base s r k (q.ofs + 8) (BitVec.ofNat 64 (q.tail + c + 1)) with
      | (none, s) => (none, s)
      | (some _, s) =>
        let s := leaveEdges s r q (c + 1)
        if (r.w.getD 13 0).toNat ≤ offerOf r 1 then (some (), s)
        else match onBase base s fun s => ctlRead s r k (q.ofs + 24) 8 rRead with
          | (none, s) => (none, s)
          | (some v, s) =>
            match stageWrite base s r k (q.ofs + 24) (v ||| (1#64 <<< 37)) with
            | (none, s) => (none, s)
            | (some _, s) => (some (), s)

/-- Commits the input queue: HEAD moves by i0. -/
def commitIn (base s : State) (r : Region) (p : Nat × Nat) : Option Unit × State :=
  match readQueue base s r p.1 p.2 with
  | (none, s) => (none, s)
  | (some q, s) =>
    match stageWrite base s r (taskSlot s r p.1) q.ofs (BitVec.ofNat 64 (q.head + offerOf r 0)) with
    | (none, s) => (none, s)
    | (some _, s) => (some (), s)

/-- Commits both queues of a stage; none, with nothing written, where an access stops. -/
def commitQueues (s : State) (r : Region) (x : Stage) : Option Unit × State :=
  let out : Option Unit × State := match x.outq with
    | none => (some (), s)
    | some p => commitOut s s r p
  match out, x.inq with
  | (none, t), _ => (none, t)
  | (some _, t), none => (some (), t)
  | (some _, t), some p => commitIn s t r p

/-- Commits the queues of the stage that a region is in (R284); a source whose commit has c = 0 is exhausted (R285). None where an
access stops. -/
def commitStage (s : State) (r : Region) : Option Unit × State :=
  match r.stage, s.task r.seq with
  | some n, some t =>
    (match t.stages.find? (·.num == n) with
     | none => (some (), s)
     | some x =>
       match commitQueues s r x with
       | (none, s) => (none, s)
       | (some _, s) =>
         (some (), if x.inq.isNone && commitCount r == 0 then
             s.updTask r.seq fun t => { t with stages := putStage t.stages n fun y => { y with exhausted := true } }
           else s))
  | _, _ => (some (), s)

/-! The completion of a BELAY (R206). -/

/-- Requests of scouts are dropped (R35). -/
def dropScouts (s : State) (r : Region) : State :=
  { s with reqs := s.reqs.filter fun q => !(q.die == r.die && q.rblk == r.rblk && q.scout) }

/-- The engine fault is reported: the vector for RACE, SPARSE_META, ANCHOR, STASH_SIZE and FUTURE_TWICE, the system fault queue
for the others, whose record the island has posted; in a handler a cause for the vector is posted there and freezes the region (R206,
R220). -/
def reportEngine (s : State) (r : Region) (e : EngFault) : State :=
  let t := s.now r.die
  let s := s.updRegion r.die r.rblk fun r => { r with engFaults := r.engFaults.drop 1 }
  if !e.vec then s.updRegion r.die r.rblk fun r => stopAt r r.pc t
  else if r.trapd then
    let s := post s r.place e.code e.src false e.tseq e.words
    s.updRegion r.die r.rblk fun r => { stopAt r r.pc t with frozen := .violation }
  else s.updRegion r.die r.rblk fun r => enterVector r (s.tvecOf r) (0xFF00 + e.code) r.pc t

/-- The BELAY may complete: two cycles after the pitch fell quiet, or after it issued where no pitch runs (R17, R206). One that issues when
the pitch has been quiet for longer completes in the cycle after it issues, for which no rule gives a cycle (log 14). -/
def belayDue (s : State) (r : Region) (issued t : Nat) : Bool :=
  if r.running then r.lastAct + 3 ≤ t && nothingDue s r t else issued + 2 ≤ t

/-- The pitch stops running, and a DRAIN in progress stops the region here (R206, R304). -/
def belayEnd (s : State) (r : Region) : State :=
  let draining : Bool := match s.task r.seq with
    | some t => match t.pre with | .drain _ => true | _ => false
    | none => false
  let s := dropScouts (invalidateL1 s r) r
  ctlNext s r fun r => { r with running := false, held := draining }

/-- BELAY_PASS: a waiting BELAY that may complete reports an engine fault, or takes the steps of its completion (R206). -/
def execBelayPass (s : State) : Out :=
  ctlMem s fun r =>
    match r.ctl with
    | .belay issued =>
      if !belayDue s r issued (s.now r.die) then .next s
      else match r.engFaults with
        | e :: _ => .next (reportEngine s r e)
        | [] =>
          match applyFrees s r with
          | (none, s) => .next s
          | (some _, s) =>
            match commitStage s r with
            | (none, s) => .next s
            | (some _, s) => .next (belayEnd s r)
    | _ => .next s

end Sys2Proof.Machine
end

