-- ==== Sys2Proof/Machine/Start.lean ====
section
/-! DEFINITION. Starting, firmware, attestation, clock and power (R4, R324-R331), and the fabric cycle. -/

namespace Sys2Proof.Machine

/-! Start and reset (R324, R325, R330). -/

/-- The first step of a start of a kind (Table 25.1). -/
def firstStep (warm : Bool) : Nat := if warm then 4 else 1

/-- A die after a reset: its defects stay. -/
def Die.restart (x : Die) : Die := { Die.reset with sites := x.sites, badBlocks := x.badBlocks, badIslands := x.badIslands }

/-- Module registers after a reset: the flash and the parts stay, and what the expanders back until they are trained again. -/
def Module.restart (m : Module) : Module :=
  { Module.reset with fwAct := m.fwAct, fwBytes := m.fwBytes, fwErased0 := m.fwErased0, fwErased1 := m.fwErased1,
                      backed := m.backed, parts := m.parts }

/-- A reset: every task ends without a completion record, committed XFERs are abandoned, every register takes its reset value;
memory stays (R325). -/
def resetModule (s : State) : State :=
  { State.reset with
    module := s.module.restart, dies := s.dies.map Die.restart, mem := s.mem, capTags := s.capTags, accTags := s.accTags, bad := s.bad,
    outbox := s.outbox, replies := s.replies, inputs := s.inputs, agenda := [] }

/-- A start of a kind begins. -/
def beginStart (s : State) (warm : Bool) : State :=
  s.updMod fun m => { m with phase := .starting, step := firstStep warm, warm := warm, cold := !warm }

/-- POWER_ON: a cold start, with ATT 0 (R324, R330). -/
def execPowerOn (s : State) : Out := .next (beginStart (resetModule s) false)

/-- MODULE_START: STCTL.GO is a reset, and the start of kind KIND begins, CLR as written; the sequence counter goes on, since the
access tags that memory keeps name earlier tasks (R325). During a start GO does nothing. -/
def execModuleStart (v : BitVec 64) (s : State) : Out :=
  if s.module.phase == .starting then .next s
  else
    let s' := (resetModule s).updMod fun m => { m with clr := v.getLsbD 2, nextSeq := s.module.nextSeq }
    .next (beginStart s' (v.getLsbD 1))

/-! Firmware images (R326). -/

/-- Byte i of a flash bank. -/
def flashByte (m : Module) (bank : Bool) (i : Nat) : Byte :=
  match look m.fwBytes (bank, i) with
  | some b => b
  | none => if (if bank then m.fwErased1 else m.fwErased0) then 0 else Config.flash (boolNat bank) i

/-- Bytes of a flash bank. -/
def flashBytes (m : Module) (bank : Bool) (i n : Nat) : List Byte := (List.range n).map fun j => flashByte m bank (i + j)

/-- A digest as a number, its first byte lowest. -/
def digestOf (bs : List Byte) : BitVec 256 := BitVec.ofNat 256 (leNat (sha3 bs))

/-- Body length L of an image, from its header. -/
def imageLength (m : Module) (bank : Bool) : Nat := leNat (flashBytes m bank 3732 8)

/-- Digest of an image: of its body. -/
def imageDigest (m : Module) (bank : Bool) : BitVec 256 := digestOf (flashBytes m bank 4096 (imageLength m bank))

/-- The header's layout: L from 1 to 2^25 - 4096, zeros behind it. -/
def imageLaidOut (m : Module) (bank : Bool) : Bool :=
  1 ≤ imageLength m bank && imageLength m bank ≤ 2 ^ 25 - 4096 && (flashBytes m bank 3740 356).all (· == 0)

/-- The checks of R326: layout, the key's hash, the signature of the body's digest. -/
def imageOk (m : Module) (bank : Bool) : Bool :=
  imageLaidOut m bank &&
  digestOf (flashBytes m bank 2420 1312) == Config.fusedVendorHash &&
  Config.mldsaVerify (flashBytes m bank 0 2420) (flashBytes m bank 2420 1312) (imageDigest m bank)

/-! Start steps (Table 25.1). -/

/-- Blocks with more than two defective sites become unusable (R36, R309). -/
def Die.markBlocks (x : Die) : Die :=
  { x with badBlocks := (List.range 256).filter fun b => x.badBlocks.contains b || 2 < (x.sites.filter (·.1 == b)).length }

/-- Usable blocks of a die, in ascending order (R20, R36). -/
def Die.usable (x : Die) : List Nat := (List.range 256).filter fun b => !x.badBlocks.contains b

/-- Step 1: the fused defect map (R36, R309). -/
def readFuses (s : State) : State :=
  let p := s.module.parts
  { s with dies := (List.range s.dies.length).map fun d =>
      let x := s.die d
      Die.markBlocks { x with
        sites := (x.sites ++ (p.fusedSites.filter (·.1 == d)).map (·.2)).dedup,
        badBlocks := x.badBlocks ++ (p.fusedBlocks.filter (·.1 == d)).map (·.2) } }

/-- Step 3: blocks that the self-test finds defective are excluded. -/
def selfTest (s : State) : State :=
  { s with dies := (List.range s.dies.length).map fun d =>
      let x := s.die d
      { x with badBlocks := (x.badBlocks ++ (s.module.parts.testBlocks.filter (·.1 == d)).map (·.2)).dedup } }

/-- Bytes that an expander of a capacity backs: 15/16 of it, at most its range (R313). -/
def backedBytes (capacity : Nat) : Nat := min (capacity / 16 * 15) Config.farStride

/-- Step 4: firmware has written NRID, and the ports are trained; one that does not train backs nothing, or stays out of service (R313,
R314). -/
def trainPorts (s : State) : State :=
  let p := s.module.parts
  let backed := (List.range 8).map fun i => backedBytes (p.expanders.getD i 0)
  let s := s.updMod fun m => { m with nrid := p.index, nridLocked := true, backed := backed }
  p.deadPorts.foldl (fun s n => putPort s { LinkPort.reset n with up := false }) s

/-- Every die has a usable region of one block. -/
def diesUsable (s : State) : Bool := s.dies.all fun x => !x.usable.isEmpty

/-- The system region of a die: one block, no task, its controller idle until system software runs there (R20). -/
def systemRegion (d b : Nat) : Region :=
  { die := d, rblk := b, width := 1, height := 1, seq := 0, num := 0, pc := 0, w := List.replicate 16 0, i := List.replicate 4 0,
    ks := .none, st := 0, depth := 0, frames := [], ctl := .halted, frozen := .no, cellsHeld := false, cells := [], running := false,
    runAt := 0, passes := 0, passNext := 0, lastAct := 0, cfg := none, runTrap := none, orders := [], stores := [], cellTraps := [],
    engFaults := [], freeList := [], stage := none, brkDue := none, ctlw := [], cfgAt := 0, held := false }

/-- Step 7: the digest of the image that started, each die's system region on its highest usable block, cycle counters zero
(R4, R20, R327). -/
def lastStep (s : State) : State :=
  let s := s.updMod fun m => { m with digest := some (imageDigest m m.fwAct) }
  let s : State := { s with dies := s.dies.map fun x => { x with sysBlock := x.usable.getLast?.getD 255, cycle := 0 } }
  { s with regions := s.regions ++ (List.range s.dies.length).map fun d => systemRegion d (s.die d).sysBlock }

/-- The attempt under way is cold: the start is, or it repeats an attempt that failed (R324, R330). -/
def coldNow (m : Module) : Bool := m.cold || m.attempts != 0

/-- What a step does where it meets no fault that it cannot correct; none where it fails. -/
def stepWork (s : State) (k : Nat) : Option State :=
  match k with
  | 1 => let s := readFuses s; if diesUsable s then some s else none
  | 3 => let s := selfTest s; if diesUsable s then some s else none
  | 4 => some (trainPorts s)
  | 5 => if coldNow s.module || s.module.clr then some { s with mem := [], capTags := [], accTags := [] } else some s
  | 6 => if imageOk s.module s.module.fwAct then some s else none
  | 7 => if diesUsable s then some (lastStep s) else none
  | _ => some s

/-- The work of a step (Table 25.1); none where it fails. -/
def startWork (s : State) (k : Nat) : Option State := if s.module.parts.faults.contains k then none else stepWork s k

/-- A failed start is repeated once, cold, KIND as written; a second failure is recovery (R325, R330). -/
def startFails (s : State) (k : Nat) : State :=
  let s := s.updMod fun m => { m with attempts := m.attempts + 1, fstep := k }
  if 2 ≤ s.module.attempts then s.updMod fun m => { m with phase := .recovery, step := 0 }
  else s.updMod fun m => { m with phase := .starting, step := firstStep false }

/-- START_STEP_DONE: the step in progress completes, and the next begins (R324, R330). -/
def execStartStepDone (s : State) : Out :=
  let k := s.module.step
  if s.module.phase != .starting || s.module.off || k == 0 then .next s
  else match startWork s k with
    | none => .next (startFails s k)
    | some s =>
      if k < 7 then .next (s.updMod fun m => { m with step := k + 1 })
      else .next (s.updMod fun m => { m with phase := .running, step := 0, attempts := m.attempts + 1 })

/-! The firmware registers (R328). -/

/-- The firmware registers take a command. -/
def fwOpen (m : Module) : Bool := m.phase != .starting && m.fwBusy == 0

/-- FWDATA: 8 bytes go to word OFS of the inactive bank. -/
def execFwdata (v : BitVec 64) (s : State) : Out :=
  let m := s.module
  if !fwOpen m || 2 ^ 22 ≤ m.fwOfs then .next s
  else
    let bs := natLe 8 v.toNat
    .next (s.updMod fun m =>
      { m with fwOfs := m.fwOfs + 1, fwVok := false,
               fwBytes := (List.range 8).foldl (fun l j => put l (!m.fwAct, 8 * m.fwOfs + j) (bs.getD j 0)) m.fwBytes })

/-- FW_ERASE: every byte of the inactive bank becomes zero. -/
def execFwErase (_v : BitVec 64) (s : State) : Out :=
  if !fwOpen s.module then .next s
  else .next (s.updMod fun m =>
    { m with fwOfs := 0, fwVok := false, fwBusy := 1, fwBytes := m.fwBytes.filter fun e => e.1.1 == m.fwAct,
             fwErased0 := m.fwErased0 || m.fwAct, fwErased1 := m.fwErased1 || !m.fwAct })

/-- FW_ERASE_DONE. -/
def execFwEraseDone (s : State) : Out :=
  if s.module.fwBusy == 1 then .next (s.updMod fun m => { m with fwBusy := 0 }) else .next s

/-- FW_VERIFY: the checks of R326 begin on the inactive bank. -/
def execFwVerify (_v : BitVec 64) (s : State) : Out :=
  if !fwOpen s.module then .next s else .next (s.updMod fun m => { m with fwBusy := 2 })

/-- FW_VERIFY_DONE: VOK says whether every check passed. -/
def execFwVerifyDone (s : State) : Out :=
  if s.module.fwBusy == 2 then .next (s.updMod fun m => { m with fwBusy := 0, fwVok := imageOk m (!m.fwAct) }) else .next s

/-- FW_ACTIVATE: with VOK the inactive bank is the active one from the next start on. -/
def execFwActivate (_v : BitVec 64) (s : State) : Out :=
  if fwOpen s.module && s.module.fwVok then .next (s.updMod fun m => { m with fwAct := !m.fwAct }) else .next s

/-! Attestation (R327, R329). -/

/-- Bytes of a 256-bit value. -/
def bytes32 (v : BitVec 256) : List Byte := natLe 32 v.toNat

/-- Seed of the attestation key pair. -/
def attestSeed (digest : BitVec 256) : BitVec 256 := digestOf (bytes32 Config.deviceSecret ++ bytes32 digest)

/-- Seed of the identity key pair. -/
def identitySeed : BitVec 256 := digestOf (bytes32 Config.deviceSecret)

/-- Public key of a seed. -/
def publicKey (seed : BitVec 256) : List Byte := (List.range 1312).map (Config.mldsaPublicKey seed)

/-- Signature of a digest by the pair of a seed. -/
def signature (seed digest : BitVec 256) : List Byte := (List.range 2420).map (Config.mldsaSignature seed digest)

/-- Hash of the module's defect map: its sites as they are marked, and its blocks as fused (R36, R309, Table 25.5). -/
def defectMap (s : State) : BitVec 256 :=
  Config.defectMapDigest ((List.range s.dies.length).flatMap fun d => (s.die d).sites.map fun p => (d, p.1, p.2)) s.module.parts.fusedBlocks

/-- The report (Table 25.5). -/
def report (s : State) (digest : BitVec 256) : List Byte :=
  let a := attestSeed digest
  let key := publicKey a
  let head := (s.module.attn.flatMap fun v => natLe 8 v.toNat) ++ bytes32 digest ++
    bytes32 (defectMap s) ++ natLe 8 (s.module.attempts % 4) ++ key ++ publicKey identitySeed ++
    signature identitySeed (digestOf key)
  head ++ signature a (digestOf head)

/-- Bytes of a report. -/
def reportBytes : Nat := 7568

/-- ATTEST: the report is built and written at ATTDST; in recovery, or where the buffer is no bonded memory of this module, the
request fails (R329). -/
def execAttest (_v : BitVec 64) (s : State) : Out :=
  let m := s.module
  let fail := s.updMod fun m => { m with attState := 3 }
  let pa := m.attDst.toNat
  if m.phase == .starting || m.attState == 1 then .next s
  else match m.digest with
    | none => .next fail
    | some dg =>
      if m.phase == .recovery || !s.isLocal pa || Config.bondedEnd < paLocal pa + reportBytes then .next fail
      else .next ((pokeBytes s (paLocal pa) (report s dg)).updMod fun m => { m with attState := 2 })

/-! Clock and power (R331). -/

/-- Cycles in one millisecond at a clock step. -/
def cyclesPerMs (step : BitVec 3) : Nat :=
  match step.toNat with | 0 => 3300000 | 1 => 2800000 | 2 => 2200000 | 3 => 1600000 | _ => 800000

/-- The die's share of the power exceeds PWRLIM / 16. -/
def overPower (s : State) (x : Die) : Bool := s.module.pwrlim.toNat * 1000 < x.power.toNat * 16

/-- TEMP exceeds 105 degrees. -/
def overHeat (x : Die) : Bool := 105 * 16 < x.temp.toNat

/-- A reading of the sensors: TELEM, and a reading above 105 degrees is a reason to step down. -/
def readSensor (s : State) (d : Nat) (mw : BitVec 32) (temp : BitVec 16) : State :=
  s.updDie d fun x =>
    let x := { x with power := mw, temp := temp }
    if overHeat x then { x with hot := max x.hot (cyclesPerMs x.cstep) } else x

/-- The die has a reason to step down. -/
def stepsDown (x : Die) : Bool := cyclesPerMs x.cstep ≤ x.hot && x.cstep.toNat < 4

/-- Neither condition for 10 ms. -/
def stepsUp (x : Die) : Bool := 10 * cyclesPerMs x.cstep ≤ x.cool && 0 < x.cstep.toNat

/-- A step change: the clock stops at a cycle boundary. -/
def Die.setStep (x : Die) (n : Nat) : Die := { x with cstep := BitVec.ofNat 3 n, stopped := true, hot := 0, cool := 0 }

/-- CLOCK_STEP_DOWN (R331). -/
def execClockStepDown (s : State) : Out :=
  .next (s.updDie s.focus.die fun x => if stepsDown x then x.setStep (x.cstep.toNat + 1) else x)

/-- CLOCK_STEP_UP (R331). -/
def execClockStepUp (s : State) : Out :=
  .next (s.updDie s.focus.die fun x => if stepsUp x then x.setStep (x.cstep.toNat - 1) else x)

/-- Some die is at 115 degrees. -/
def tooHot (s : State) : Bool := s.dies.any fun x => 115 * 16 ≤ x.temp.toNat

/-- THERMAL_SHUTDOWN: every task ends as at a reset, the dies lose power, STATE stays 0 until the next power-on (R331). -/
def execThermalShutdown (s : State) : Out :=
  if tooHot s then .next ((resetModule s).updMod fun m => { m with off := true }) else .next s

/-! The fabric cycle (R4). -/

/-- What takes effect in a region at a cycle boundary: CTLW writes, a breakpoint (R225, R226). -/
def Region.boundary (r : Region) : Region :=
  { r with w := r.ctlw.foldl (fun w e => w.set e.1 e.2) r.w, ctlw := [], brkDue := none,
           frozen := match r.brkDue with
             | some c => if r.frozen == .no then .brk c else r.frozen
             | none => r.frozen }

/-- FABRIC_CYCLE: the die's counter advances by one, unless its clock is stopped; what was due at the boundary takes effect (R4,
R331). -/
def execFabricCycle (s : State) : Out :=
  let d := s.focus.die
  let x := s.die d
  if x.stopped then .next (s.updDie d fun x => { x with stopped := false })
  else
    let over_ := overPower s x
    let s := s.updDie d fun x =>
      { x.applyBooks with cycle := x.cycle + 1, hot := if over_ then x.hot + 1 else if overHeat x then x.hot else 0,
                          cool := if over_ || overHeat x then 0 else x.cool + 1 }
    .next { s with regions := s.regions.map fun r => if r.die == d then r.boundary else r }

end Sys2Proof.Machine
end

