-- ==== Sys2Proof/Machine/Tile.lean ====
section
/-! DEFINITION. The tile-register forms (R30, R144-R148) and the engine-token emitters (R18, R233). -/

namespace Sys2Proof.Machine

/-- The head is a trigger of TLD and TSWAP: HDR with AT 0, CTL with AT 1 (R144). -/
def isTrigger (m : Mods) (at_ : Nat) (k : Token) : Bool := k.kind == if m.modF at_ 1 == 1 then .ctl else .hdr

/-- A SWP that this cell has sent still fills a slot of the target's port in this cycle: a SWP among the port's initial tokens was never
sent (R144). -/
def swpWaiting (cx : Cx) (tgt port : Nat) : Bool :=
  let p := (cx.r.cell tgt).rt.port port
  (p.q.any fun k => k.kind == .swp && k.hid == .emit cx.c) || p.swpAt == cx.t + 1

/-- Byte of element 0 of a tile (R144, R148). -/
def tileByte (cx : Cx) (ks : Nat) (takes : List Nat) (a : Int) : Int := elemByte cx ks takes a cx.z

/-- Byte of element i of a tile that begins at b. -/
def tileAt (cx : Cx) (b : Int) (i : Nat) : Int := b + i * cx.m.modF 2 8 * cx.z

/-- The check of all 16 elements of a tile access: the fault code of the first that fails, its number and the first byte that does
(R114, R144, R292). -/
def tileCheck (cx : Cx) (k : Cap) (need : Nat) (b : Int) : Option (Nat × Nat × Nat) :=
  (List.range 16).findSome? fun i =>
    (capCheckAt k need (tileAt cx b i) cx.z 1).map fun code => (code, i, faultOfs k code (tileAt cx b i) cx.z)

/-- The record of a tile access (R292). -/
def tileAccess (cx : Cx) (acc port : Nat) (k : Cap) (b : Int) (need : Nat) (a : W64) : Access :=
  { cx.access port acc (cx.x.cfg.inIdx 0) k b need a.toNat with strides := [(cx.m.modF 2 8 : Int)], pos := 0 }

/-- TLD: at a trigger it issues the tile request and sends the SWP, which is known as its own; the trigger goes in a cycle of its own (R144). -/
def execTld (m : Mods) (s : State) : Out :=
  cellTurn s m fun cx =>
    if cx.refuses 0 markKinds hdrMove then .reject 0
    else if refusesCtl cx 1 then .reject 1
    else match cx.head 0 with
      | none => .idle
      | some k =>
        let tgt := cx.x.cfg.tindex 0
        if isTrigger m 10 k && !cx.x.rt.begun then
          match cx.head 1 with
          | none => .idle
          | some c =>
            let ks := m.modF 0 2
            if swpWaiting cx tgt (cx.x.cfg.tport 0) || cx.kPending ks || !tileRoom cx 1 || (cx.r.cell tgt).rt.pending.contains 64 then .idle
            else
              let kc := cx.kreg ks [1]
              let b := tileByte cx ks [1] c.pay.toInt
              let a := tileAccess cx 4 1 kc b rRead c.pay
              match tileCheck cx kc rRead b with
              | some (code, i, x) => .violate code { a with ofs := x, pos := i }
              | none => .act
                { takes := [1]
                  sends := [(0, { Token.plain .swp 0 with hid := .emit cx.c })]
                  upd := fun y => { y with begun := true }
                  after := fun s =>
                    issueReq (s.updRegion cx.r.die cx.r.rblk fun r => r.updRt tgt fun y => { y with pending := y.pending ++ [64] })
                      { cx.request .tile kc b.toNat cx.z a with form := tgt, stride := m.modF 2 8 } }
        else
          let e := moveAll cx k [0]
          .act { e with upd := fun y => { y with begun := false } }

/-- TSWAP: a SWP in a cycle of its own before each trigger (R145). -/
def execTswap (m : Mods) (s : State) : Out :=
  cellTurn s m fun cx =>
    if cx.refuses 0 markKinds hdrMove then .reject 0
    else match cx.head 0 with
      | none => .idle
      | some k =>
        if isTrigger m 0 k && !cx.x.rt.begun then
          .act { sends := cx.toAll (.plain .swp 0), upd := fun y => { y with begun := true } }
        else
          let e := moveAll cx k [0]
          .act { e with upd := fun y => { y with begun := false } }

/-- A SWP at the head is consumed and not sent on (R146 to R148); the exchange comes with its consumption (R30). -/
def swpTurn : Turn := .act { takes := [0] }

/-- Headers that TDOT accepts: in TYPE for integers, those of the floating-point forms otherwise (R107, R146). -/
def hdrTdot (m : Mods) (h : W64) : Bool := if m.tyNat ≤ 8 then hdrOnly m.tyNat h else hdrFloat h

/-- The default NaN that an invalid operation leaves in P: no operand has so large a fraction. -/
def invalidSum : FVal := .nan false false 0x800000

/-- P after one more product: the exact sum, the first NaN operand, and whether some operation was invalid or some operand
signalling (R69, R146). P begins at 0, and the sign of an exact zero sum follows the mode (R68). -/
def dotStep (mode : RMode) (p x t : FVal) (nv : Bool) : FVal × Bool :=
  match [x, t].find? FVal.isNaN with
  | some n => (if p.isNaN && p != invalidSum then p else n, nv || x.isSig || t.isSig)
  | none =>
    match mulF x t with
    | none => (if p.isNaN then p else invalidSum, true)
    | some q =>
      if p.isNaN then (p, nv)
      else match addF mode p q with
        | some v => (v, nv)
        | none => (invalidSum, true)

/-- The value of a run: modulo 2^w for an integer TYPE, rounded once otherwise (R146). -/
def dotValue (cx : Cx) : W64 × FlagBits :=
  let ty := cx.m.tyNat
  let y := cx.x.rt
  if ty ≤ 8 then (ofInt ty (match y.exact with | .fin n m _ => signedM n m | _ => 0), 0)
  else match y.exact with
    | .nan n _ f => (BitVec.ofNat 64 (if f == 0x800000 then defaultNaN ty false else nanBits ty n f),
        if y.exactNV then flagNV else 0)
    | v =>
      let r := deliver ty (rmodeOf cx.m.rmNat) v
      (BitVec.ofNat 64 r.bits, if y.exactNV then r.flags ||| flagNV else r.flags)

/-- TDOT (R146): runPos is p, exact is P. -/
def execTdot (m : Mods) (s : State) : Out :=
  cellTurn s m fun cx =>
    if cx.refuses 0 [.val, .eor, .eot, .hdr, .swp] (hdrTdot m) then .reject 0
    else match cx.head 0 with
      | none => .idle
      | some k =>
        let y := cx.x.rt
        if m.rdstNat != 0 && cx.pendingReg m.rdstNat then .idle
        else
          let close (takes : List Nat) : Turn :=
            let r := dotValue cx
            closeRun cx takes r.1 r.2 fun y _ => { y with exact := .fin false 0 0, exactNV := false }
          match k.kind with
          | .val =>
            if 16 ≤ y.runPos then .reject 0
            else if k.void then .act { takes := [0], upd := fun y => { y with runPos := y.runPos + 1 } }
            else
              let ta := y.ta.getD y.runPos 0
              let r : FVal × Bool :=
                if m.tyNat ≤ 8 then
                  let p := match y.exact with | .fin n a _ => signedM n a | _ => 0
                  (ofIntF (p + intOf m.tyNat k.pay * intOf m.tyNat ta), false)
                else dotStep (rmodeOf m.rmNat) y.exact (cx.fArg m.tyNat ⟨k.pay, 0, true⟩) (decodeF m.tyNat (ta.toNat % 2 ^ tyWidth m.tyNat)) y.exactNV
              .act { takes := [0], upd := fun y =>
                { y with exact := r.1, exactNV := r.2, runPos := y.runPos + 1 } }
          | .eor => close [0]
          | .eot =>
            if y.runPos == 0 then
              .act { takes := [0], sends := cx.toAll (.plain .eot 0), upd := fun y => { y with outCnt := 0 } }
            else close []
          | .swp => swpTurn
          | _ => .act { takes := [0], sends := cx.toAll (markerOf k (plainHdr m.tyNat)) }

/-- TBCAST: on a CTL, ta[0] to ta[N - 1], EOR and EOT, one per cycle (R147). -/
def execTbcast (m : Mods) (s : State) : Out :=
  cellTurn s m fun cx =>
    let n := m.modF 0 4 + 1
    let next (g : Nat) (takes : List Nat) : Turn :=
      if g < n then
        let v := extendTy m.tyNat (cx.x.rt.ta.getD g 0).toNat
        .act { takes := takes, sends := cx.toAll (.plain .val v), val := some v,
               upd := fun y => { y with gen := some ⟨0, g + 1⟩ } }
      else if g == n then
        .act { takes := takes, sends := cx.toAll (.plain .eor 0), upd := fun y => { y with gen := some ⟨0, g + 1⟩ } }
      else .act { takes := takes, sends := cx.toAll (.plain .eot 0), upd := fun y => { y with gen := none } }
    match cx.x.rt.gen with
    | some g => next g.next []
    | none =>
      if cx.refuses 0 [.ctl, .swp] (fun _ => true) then .reject 0
      else match cx.head 0 with
        | none => .idle
        | some k => if k.kind == .swp then swpTurn else next 0 [0]

/-- TSTO: the sixteen elements of ta are stored, colour 0, no done token (R148). -/
def execTsto (m : Mods) (s : State) : Out :=
  cellTurn s m fun cx =>
    if cx.refuses 0 markKinds hdrMove then .reject 0
    else match cx.head 0 with
      | none => .idle
      | some k =>
        match k.kind with
        | .swp => swpTurn
        | .val =>
          let ks := m.modF 0 2
          if k.void then .act { takes := [0] }
          else if cx.kPending ks || !tileRoom cx 16 then .idle
          else
            let kc := cx.kreg ks [0]
            let b := tileByte cx ks [0] k.pay.toInt
            let a := tileAccess cx 1 0 kc b rWrite k.pay
            match tileCheck cx kc rWrite b with
            | some (code, i, x) => .violate code { a with ofs := x, pos := i }
            | none => .act
              { takes := [0]
                after := fun s => (List.range 16).foldl (fun s i =>
                  issueReq s { cx.request .store kc (b.toNat + i * m.modF 2 8 * cx.z) cx.z { a with pos := i } with
                    colour := 0, form := 1, data := cx.x.rt.ta.getD i 0 }) s }
        | _ => .act { takes := [0] }

/-! Emitters (R18, R233). -/

/-- One step of an emitter: 2 x FWD CTLs from in1, then c0, then c1; the in0 token goes with the first (R233). A hand-over header is none
that it accepts (R244). -/
def emitTurn (cx : Cx) : Turn :=
  let fwd := fieldNat (cx.x.cfg.const 2) 0 8
  let k := cx.x.rt.phase
  if (cx.head 0).any fun k => k.kind == .hdr && k.pay == handHdr then .reject 0
  else if k == 0 && (cx.head 0).isNone then .idle
  else
    let first := if k == 0 then [0] else []
    let step (y : CellRt) : CellRt := { y with phase := if k + 1 == 2 * fwd + 2 then 0 else k + 1 }
    if k < 2 * fwd then
      if refusesCtl cx 1 then .reject 1
      else match cx.head 1 with
        | none => .idle
        | some c => .act { takes := first ++ [1], sends := [(0, c)], upd := step }
    else
      let w := if k == 2 * fwd then cx.x.cfg.const 0 else cx.x.cfg.const 1
      .act { takes := first, sends := [(0, ⟨.ctl, w, false, .emit cx.c, 0, false⟩)], upd := step }

/-- MMA_EMIT (R18, R233). -/
def execMmaEmit (m : Mods) (s : State) : Out := cellTurn s m emitTurn
/-- MMAS_EMIT (R233). -/
def execMmasEmit (m : Mods) (s : State) : Out := cellTurn s m emitTurn
/-- MLOAD_EMIT (R233). -/
def execMloadEmit (m : Mods) (s : State) : Out := cellTurn s m emitTurn
/-- MCLAIM_EMIT (R233). -/
def execMclaimEmit (m : Mods) (s : State) : Out := cellTurn s m emitTurn
/-- MRELEASE_EMIT (R233). -/
def execMreleaseEmit (m : Mods) (s : State) : Out := cellTurn s m emitTurn
/-- MDRAIN_EMIT (R233). -/
def execMdrainEmit (m : Mods) (s : State) : Out := cellTurn s m emitTurn
/-- NORM_EMIT (R233). -/
def execNormEmit (m : Mods) (s : State) : Out := cellTurn s m emitTurn
/-- COPY_EMIT (R250). -/
def execCopyEmit (m : Mods) (s : State) : Out := cellTurn s m emitTurn
/-- CHAIN_EMIT (R250). -/
def execChainEmit (m : Mods) (s : State) : Out := cellTurn s m emitTurn
/-- STASH_EMIT (R250). -/
def execStashEmit (m : Mods) (s : State) : Out := cellTurn s m emitTurn
/-- RESTORE_EMIT (R250). -/
def execRestoreEmit (m : Mods) (s : State) : Out := cellTurn s m emitTurn
/-- CONV_EMIT (R250). -/
def execConvEmit (m : Mods) (s : State) : Out := cellTurn s m emitTurn
/-- FPRINT_EMIT (R250). -/
def execFprintEmit (m : Mods) (s : State) : Out := cellTurn s m emitTurn
/-- DEDUP_EMIT (R250). -/
def execDedupEmit (m : Mods) (s : State) : Out := cellTurn s m emitTurn
/-- XFER_EMIT (R250). -/
def execXferEmit (m : Mods) (s : State) : Out := cellTurn s m emitTurn

end Sys2Proof.Machine
end

