-- ==== Sys2Proof/Machine/Dispatch.lean ====
section
/-! DEFINITION. One arm per step: each calls the step's meaning. -/

namespace Sys2Proof.Machine

def exec (i : Instr) (s : State) : Host.Outcome State Fault Refusal :=
  match i with
  | .write c f v => Sys2Proof.Machine.execWrite c f v s
  | .extend v => Sys2Proof.Machine.execExtend v s
  | .selectBase b => Sys2Proof.Machine.execSelectBase b s
  | .selectRepeat st n => Sys2Proof.Machine.execSelectRepeat st n s
  | .selectBmask a b c d => Sys2Proof.Machine.execSelectBmask a b c d s
  | .token k c p v => Sys2Proof.Machine.execToken k c p v s
  | .start c p => Sys2Proof.Machine.execStart c p s
  | .cfgEnd => Sys2Proof.Machine.execCfgEnd s
  | .cfg k => Sys2Proof.Machine.execCfg k s
  | .pcfg k => Sys2Proof.Machine.execPcfg k s
  | .run r => Sys2Proof.Machine.execRun r s
  | .runPass => Sys2Proof.Machine.execRunPass s
  | .belay => Sys2Proof.Machine.execBelay s
  | .belayPass => Sys2Proof.Machine.execBelayPass s
  | .waitc g => Sys2Proof.Machine.execWaitc g s
  | .waitcEnd => Sys2Proof.Machine.execWaitcEnd s
  | .joinReorder j => Sys2Proof.Machine.execJoinReorder j s
  | .joinCheck j => Sys2Proof.Machine.execJoinCheck j s
  | .joinComplete => Sys2Proof.Machine.execJoinComplete s
  | .unjoin j => Sys2Proof.Machine.execUnjoin j s
  | .spawn g => Sys2Proof.Machine.execSpawn g s
  | .grpl g => Sys2Proof.Machine.execGrpl g s
  | .setstageDecl g => Sys2Proof.Machine.execSetstageDecl g s
  | .setstageEnter g => Sys2Proof.Machine.execSetstageEnter g s
  | .stageResume => Sys2Proof.Machine.execStageResume s
  | .setqIn g => Sys2Proof.Machine.execSetqIn g s
  | .setqOut g => Sys2Proof.Machine.execSetqOut g s
  | .br b => Sys2Proof.Machine.execBr b s
  | .brc b => Sys2Proof.Machine.execBrc b s
  | .loop b => Sys2Proof.Machine.execLoop b s
  | .call b => Sys2Proof.Machine.execCall b s
  | .ret => Sys2Proof.Machine.execRet s
  | .yieldOp => Sys2Proof.Machine.execYieldOp s
  | .saveW g => Sys2Proof.Machine.execSaveW g s
  | .saveIs g => Sys2Proof.Machine.execSaveIs g s
  | .rstrW g => Sys2Proof.Machine.execRstrW g s
  | .rstrIs g => Sys2Proof.Machine.execRstrIs g s
  | .movw g => Sys2Proof.Machine.execMovw g s
  | .movwI g => Sys2Proof.Machine.execMovwI g s
  | .movwR g => Sys2Proof.Machine.execMovwR g s
  | .addw g => Sys2Proof.Machine.execAddw g s
  | .cmpw g => Sys2Proof.Machine.execCmpw g s
  | .ldw g => Sys2Proof.Machine.execLdw g s
  | .stw g => Sys2Proof.Machine.execStw g s
  | .rdst g => Sys2Proof.Machine.execRdst g s
  | .wrst g => Sys2Proof.Machine.execWrst g s
  | .rdcyc g => Sys2Proof.Machine.execRdcyc g s
  | .trapCode code => Sys2Proof.Machine.execTrapCode code s
  | .trapService code => Sys2Proof.Machine.execTrapService code s
  | .eret => Sys2Proof.Machine.execEret s
  | .setks g => Sys2Proof.Machine.execSetks g s
  | .rdfq g => Sys2Proof.Machine.execRdfq g s
  | .halt => Sys2Proof.Machine.execHalt s
  | .trapEntry => Sys2Proof.Machine.execTrapEntry s
  | .add m => Sys2Proof.Machine.execAdd m s
  | .sub m => Sys2Proof.Machine.execSub m s
  | .mul m => Sys2Proof.Machine.execMul m s
  | .mulh m => Sys2Proof.Machine.execMulh m s
  | .div m => Sys2Proof.Machine.execDiv m s
  | .rem m => Sys2Proof.Machine.execRem m s
  | .and m => Sys2Proof.Machine.execAnd m s
  | .or m => Sys2Proof.Machine.execOr m s
  | .xor m => Sys2Proof.Machine.execXor m s
  | .not m => Sys2Proof.Machine.execNot m s
  | .shl m => Sys2Proof.Machine.execShl m s
  | .shr m => Sys2Proof.Machine.execShr m s
  | .sar m => Sys2Proof.Machine.execSar m s
  | .rot m => Sys2Proof.Machine.execRot m s
  | .min m => Sys2Proof.Machine.execMin m s
  | .max m => Sys2Proof.Machine.execMax m s
  | .cmp m => Sys2Proof.Machine.execCmp m s
  | .sel m => Sys2Proof.Machine.execSel m s
  | .clz m => Sys2Proof.Machine.execClz m s
  | .popc m => Sys2Proof.Machine.execPopc m s
  | .addc m => Sys2Proof.Machine.execAddc m s
  | .subb m => Sys2Proof.Machine.execSubb m s
  | .capofs m => Sys2Proof.Machine.execCapofs m s
  | .capset m => Sys2Proof.Machine.execCapset m s
  | .capnar m => Sys2Proof.Machine.execCapnar m s
  | .caprgt m => Sys2Proof.Machine.execCaprgt m s
  | .captag m => Sys2Proof.Machine.execCaptag m s
  | .affine m => Sys2Proof.Machine.execAffine m s
  | .ctr m => Sys2Proof.Machine.execCtr m s
  | .fadd m => Sys2Proof.Machine.execFadd m s
  | .fsub m => Sys2Proof.Machine.execFsub m s
  | .fmul m => Sys2Proof.Machine.execFmul m s
  | .fma m => Sys2Proof.Machine.execFma m s
  | .fmin m => Sys2Proof.Machine.execFmin m s
  | .fmax m => Sys2Proof.Machine.execFmax m s
  | .fcmp m => Sys2Proof.Machine.execFcmp m s
  | .fabs m => Sys2Proof.Machine.execFabs m s
  | .fneg m => Sys2Proof.Machine.execFneg m s
  | .rcpa m => Sys2Proof.Machine.execRcpa m s
  | .rsqa m => Sys2Proof.Machine.execRsqa m s
  | .exp2a m => Sys2Proof.Machine.execExp2a m s
  | .log2a m => Sys2Proof.Machine.execLog2a m s
  | .fclass m => Sys2Proof.Machine.execFclass m s
  | .cvt m => Sys2Proof.Machine.execCvt m s
  | .qnt m => Sys2Proof.Machine.execQnt m s
  | .dqnt m => Sys2Proof.Machine.execDqnt m s
  | .cbload m => Sys2Proof.Machine.execCbload m s
  | .hdrset m => Sys2Proof.Machine.execHdrset m s
  | .steer m => Sys2Proof.Machine.execSteer m s
  | .merge m => Sys2Proof.Machine.execMerge m s
  | .amerge m => Sys2Proof.Machine.execAmerge m s
  | .gate m => Sys2Proof.Machine.execGate m s
  | .repeatOp m => Sys2Proof.Machine.execRepeatOp m s
  | .drop m => Sys2Proof.Machine.execDrop m s
  | .take m => Sys2Proof.Machine.execTake m s
  | .zip m => Sys2Proof.Machine.execZip m s
  | .split m => Sys2Proof.Machine.execSplit m s
  | .mark m => Sys2Proof.Machine.execMark m s
  | .strip m => Sys2Proof.Machine.execStrip m s
  | .voidOp m => Sys2Proof.Machine.execVoidOp m s
  | .dup m => Sys2Proof.Machine.execDup m s
  | .red m => Sys2Proof.Machine.execRed m s
  | .scan m => Sys2Proof.Machine.execScan m s
  | .tld m => Sys2Proof.Machine.execTld m s
  | .tswap m => Sys2Proof.Machine.execTswap m s
  | .tdot m => Sys2Proof.Machine.execTdot m s
  | .tbcast m => Sys2Proof.Machine.execTbcast m s
  | .tsto m => Sys2Proof.Machine.execTsto m s
  | .rnd m => Sys2Proof.Machine.execRnd m s
  | .rndkey m => Sys2Proof.Machine.execRndkey m s
  | .add128 m => Sys2Proof.Machine.execAdd128 m s
  | .alloc m => Sys2Proof.Machine.execAlloc m s
  | .free m => Sys2Proof.Machine.execFree m s
  | .lds m => Sys2Proof.Machine.execLds m s
  | .sts m => Sys2Proof.Machine.execSts m s
  | .ldg m => Sys2Proof.Machine.execLdg m s
  | .stg m => Sys2Proof.Machine.execStg m s
  | .ldl m => Sys2Proof.Machine.execLdl m s
  | .stl m => Sys2Proof.Machine.execStl m s
  | .ldfe m => Sys2Proof.Machine.execLdfe m s
  | .stfe m => Sys2Proof.Machine.execStfe m s
  | .pref m => Sys2Proof.Machine.execPref m s
  | .atomAdd m => Sys2Proof.Machine.execAtomAdd m s
  | .atomMin m => Sys2Proof.Machine.execAtomMin m s
  | .atomMax m => Sys2Proof.Machine.execAtomMax m s
  | .atomAnd m => Sys2Proof.Machine.execAtomAnd m s
  | .atomOr m => Sys2Proof.Machine.execAtomOr m s
  | .atomXor m => Sys2Proof.Machine.execAtomXor m s
  | .atomXchg m => Sys2Proof.Machine.execAtomXchg m s
  | .atomCas m => Sys2Proof.Machine.execAtomCas m s
  | .ldacq m => Sys2Proof.Machine.execLdacq m s
  | .strel m => Sys2Proof.Machine.execStrel m s
  | .fence m => Sys2Proof.Machine.execFence m s
  | .monw m => Sys2Proof.Machine.execMonw m s
  | .waitw m => Sys2Proof.Machine.execWaitw m s
  | .monitorWake => Sys2Proof.Machine.execMonitorWake s
  | .futnew m => Sys2Proof.Machine.execFutnew m s
  | .futres m => Sys2Proof.Machine.execFutres m s
  | .futreg m => Sys2Proof.Machine.execFutreg m s
  | .futget m => Sys2Proof.Machine.execFutget m s
  | .cellTrap m => Sys2Proof.Machine.execCellTrap m s
  | .brk m => Sys2Proof.Machine.execBrk m s
  | .ctlw m => Sys2Proof.Machine.execCtlw m s
  | .sysrd m => Sys2Proof.Machine.execSysrd m s
  | .syswr m => Sys2Proof.Machine.execSyswr m s
  | .perf m => Sys2Proof.Machine.execPerf m s
  | .mmaEmit m => Sys2Proof.Machine.execMmaEmit m s
  | .mmasEmit m => Sys2Proof.Machine.execMmasEmit m s
  | .mloadEmit m => Sys2Proof.Machine.execMloadEmit m s
  | .mclaimEmit m => Sys2Proof.Machine.execMclaimEmit m s
  | .mreleaseEmit m => Sys2Proof.Machine.execMreleaseEmit m s
  | .mdrainEmit m => Sys2Proof.Machine.execMdrainEmit m s
  | .normEmit m => Sys2Proof.Machine.execNormEmit m s
  | .copyEmit m => Sys2Proof.Machine.execCopyEmit m s
  | .chainEmit m => Sys2Proof.Machine.execChainEmit m s
  | .stashEmit m => Sys2Proof.Machine.execStashEmit m s
  | .restoreEmit m => Sys2Proof.Machine.execRestoreEmit m s
  | .convEmit m => Sys2Proof.Machine.execConvEmit m s
  | .fprintEmit m => Sys2Proof.Machine.execFprintEmit m s
  | .dedupEmit m => Sys2Proof.Machine.execDedupEmit m s
  | .xferEmit m => Sys2Proof.Machine.execXferEmit m s
  | .streamPortIssue => Sys2Proof.Machine.execStreamPortIssue s
  | .landingBufferWrite => Sys2Proof.Machine.execLandingBufferWrite s
  | .reorderStoreAdmit => Sys2Proof.Machine.execReorderStoreAdmit s
  | .reorderStoreIssue => Sys2Proof.Machine.execReorderStoreIssue s
  | .memoryTileRequest => Sys2Proof.Machine.execMemoryTileRequest s
  | .storeAck => Sys2Proof.Machine.execStoreAck s
  | .doneToken => Sys2Proof.Machine.execDoneToken s
  | .tagSweep => Sys2Proof.Machine.execTagSweep s
  | .mclaim w => Sys2Proof.Machine.execMclaim w s
  | .mrelease w => Sys2Proof.Machine.execMrelease w s
  | .mload w => Sys2Proof.Machine.execMload w s
  | .mloadAccumulate w => Sys2Proof.Machine.execMloadAccumulate w s
  | .mloadCommit => Sys2Proof.Machine.execMloadCommit s
  | .mma w => Sys2Proof.Machine.execMma w s
  | .mmas w => Sys2Proof.Machine.execMmas w s
  | .mdrain w => Sys2Proof.Machine.execMdrain w s
  | .norm w => Sys2Proof.Machine.execNorm w s
  | .engineCommandStart => Sys2Proof.Machine.execEngineCommandStart s
  | .engineCommandComplete => Sys2Proof.Machine.execEngineCommandComplete s
  | .copy w => Sys2Proof.Machine.execCopy w s
  | .chain w => Sys2Proof.Machine.execChain w s
  | .stash w => Sys2Proof.Machine.execStash w s
  | .restore w => Sys2Proof.Machine.execRestore w s
  | .convToCsr w => Sys2Proof.Machine.execConvToCsr w s
  | .convFromCsr w => Sys2Proof.Machine.execConvFromCsr w s
  | .convToC4 w => Sys2Proof.Machine.execConvToC4 w s
  | .fprint w => Sys2Proof.Machine.execFprint w s
  | .dedup w => Sys2Proof.Machine.execDedup w s
  | .xferPut w => Sys2Proof.Machine.execXferPut w s
  | .xferGet w => Sys2Proof.Machine.execXferGet w s
  | .kick => Sys2Proof.Machine.execKick s
  | .launchReread => Sys2Proof.Machine.execLaunchReread s
  | .packetAccept => Sys2Proof.Machine.execPacketAccept s
  | .continuationEnqueue => Sys2Proof.Machine.execContinuationEnqueue s
  | .lqConfigWrite num v => Sys2Proof.Machine.execLqConfigWrite num v s
  | .tprio v => Sys2Proof.Machine.execTprio v s
  | .agePromote => Sys2Proof.Machine.execAgePromote s
  | .taskSelect => Sys2Proof.Machine.execTaskSelect s
  | .taskBind => Sys2Proof.Machine.execTaskBind s
  | .taskDropUnbindable => Sys2Proof.Machine.execTaskDropUnbindable s
  | .fqpop v => Sys2Proof.Machine.execFqpop v s
  | .mctlRelease v => Sys2Proof.Machine.execMctlRelease v s
  | .mctlKill v => Sys2Proof.Machine.execMctlKill v s
  | .mctlResume v => Sys2Proof.Machine.execMctlResume v s
  | .preAbort v => Sys2Proof.Machine.execPreAbort v s
  | .preDrain v => Sys2Proof.Machine.execPreDrain v s
  | .preFreeze v => Sys2Proof.Machine.execPreFreeze v s
  | .drainDeadline => Sys2Proof.Machine.execDrainDeadline s
  | .pageFaultWindowClose => Sys2Proof.Machine.execPageFaultWindowClose s
  | .xinv v => Sys2Proof.Machine.execXinv v s
  | .apertureRegWrite num v => Sys2Proof.Machine.execApertureRegWrite num v s
  | .registerWrite num v => Sys2Proof.Machine.execRegisterWrite num v s
  | .hostBar0Access wr ofs len v => Sys2Proof.Machine.execHostBar0Access wr ofs len v s
  | .hostHdmAccess wr adr len data => Sys2Proof.Machine.execHostHdmAccess wr adr len data s
  | .flitReceive flit crcOk => Sys2Proof.Machine.execFlitReceive flit crcOk s
  | .narebRequest flit => Sys2Proof.Machine.execNarebRequest flit s
  | .xferHoldRetranslate => Sys2Proof.Machine.execXferHoldRetranslate s
  | .rdmaInboundWrite adr data => Sys2Proof.Machine.execRdmaInboundWrite adr data s
  | .powerOn => Sys2Proof.Machine.execPowerOn s
  | .moduleStart v => Sys2Proof.Machine.execModuleStart v s
  | .fwdata v => Sys2Proof.Machine.execFwdata v s
  | .fwErase v => Sys2Proof.Machine.execFwErase v s
  | .fwVerify v => Sys2Proof.Machine.execFwVerify v s
  | .fwActivate v => Sys2Proof.Machine.execFwActivate v s
  | .attest v => Sys2Proof.Machine.execAttest v s
  | .clockStepDown => Sys2Proof.Machine.execClockStepDown s
  | .clockStepUp => Sys2Proof.Machine.execClockStepUp s
  | .thermalShutdown => Sys2Proof.Machine.execThermalShutdown s
  | .fabricCycle => Sys2Proof.Machine.execFabricCycle s
  | .startStepDone => Sys2Proof.Machine.execStartStepDone s
  | .fwEraseDone => Sys2Proof.Machine.execFwEraseDone s
  | .fwVerifyDone => Sys2Proof.Machine.execFwVerifyDone s

end Sys2Proof.Machine
end

