-- ==== Sys2Proof/Machine/Plan.lean ====
section
/-! DEFINITION. One step of the machine: the events of a cycle in the model's order, what each event does, and the placing of
one instruction where the next step fetches it. -/

namespace Sys2Proof.Machine

/-! The events of a cycle. -/

/-- Focus on a region. -/
def Region.focus (r : Region) : Focus := { Focus.none with die := r.die, rblk := r.rblk }

/-- Focus on a die. -/
def focusDie (d : Nat) : Focus := { Focus.none with die := d }

/-- Focus on a numbered thing. -/
def focusId (n : Nat) : Focus := { Focus.none with id := n }

/-- Focus of a pre-emption: what it lacks of other modules is its own (R315). -/
def preFocus (n : Nat) : Focus := { Focus.none with port := 66, id := n }

/-- Focus of step k of a die's launch unit. -/
def launchFocus (d k : Nat) : Focus := { focusDie d with port := 68, id := k }

/-- Focus of a cell. -/
def Region.cellFocus (r : Region) (c : Nat) : Focus := { r.focus with cell := c, port := cellPort }

/-- Whom an acknowledgement reaches that no step waits for. -/
def idleFocus : Focus := { Focus.none with port := 71 }

/-- The die's clock runs in this cycle (R331). -/
def State.clocked (s : State) (d : Nat) : Bool := !(s.die d).stopped

/-- Regions whose clock runs. -/
def State.active (s : State) : List Region := s.regions.filter fun r => s.clocked r.die

/-- Dies by number. -/
def State.dieNums (s : State) : List Nat := List.range s.dies.length

/-- A cell's turn: a monitor it waits on, its form, a done token that is due. -/
def cellEvents (r : Region) (c : Nat) (x : Cell) : List Event :=
  let f := r.cellFocus c
  (if x.rt.waiting.isSome then [.run f .monitorWake] else []) ++
  (if x.cfg.opc == 0 && x.cfg.op == 0 then [] else [.cell f]) ++
  (if x.rt.done.isEmpty then [] else [.run f .doneToken])

/-- The cells of a region, in ascending order, after a pass that may be delivered. -/
def regionEvents (r : Region) : List Event :=
  if r.running then .run r.focus .runPass :: r.cells.flatMap fun c => cellEvents r c.1 c.2 else []

/-- Stream ports and reorder stores of a region. -/
def portEvents (r : Region) : List Event :=
  if r.running then
    (r.cells.filterMap fun c => if c.2.cfg.opc == 0x180 || c.2.cfg.opc == 0x182 then some (.run (r.cellFocus c.1) .streamPortIssue) else none) ++
    (List.range r.stores.length).flatMap fun i =>
      [.run { r.focus with id := i } .reorderStoreAdmit, .run { r.focus with id := i } .reorderStoreIssue]
  else []

/-- Requests that may arrive at their memory tiles. -/
def arriveEvents (s : State) : List Event :=
  s.reqs.filterMap fun q => if q.stage == .queued && s.clocked q.die then some (.run (reqFocus q.id) .memoryTileRequest) else none

/-- Requests that may land or be acknowledged. -/
def landEvents (s : State) : List Event :=
  s.reqs.filterMap fun q =>
    if s.clocked q.die && (q.stage == .queued || q.stage == .performed) then
      some (.run (reqFocus q.id) (if q.returns then .landingBufferWrite else .storeAck))
    else none

/-- Control ports that hold tokens. -/
def controlEvents (s : State) : List Event :=
  s.iports.filterMap fun i =>
    if i.lane == 0 && (i.target == 3 || i.port < 2) && !i.q.isEmpty && s.clocked i.die then
      some (.port { Focus.none with die := i.die, rblk := i.rblk, isl := i.isl, port := i.port, id := i.target })
    else none

/-- Commands: starts, the lower control port first (R238), then steps, commits, completions. -/
def commandEvents (s : State) : List Event :=
  let cs := s.cmds.filter fun c => s.clocked c.die
  let at_ (st : List CmdStage) (e : Focus → Event) : List Event :=
    cs.filterMap fun c => if st.contains c.stage then some (e (cmdFocus c.id)) else none
  let starts := (List.range 4).flatMap fun p =>
    cs.filterMap fun c => if c.stage == .decoded && c.port == p then some (.run (cmdFocus c.id) .engineCommandStart) else none
  starts ++ at_ [.decoded, .running, .draining] .cmd ++
  at_ [.commit] (.run · .mloadCommit) ++ at_ [.complete] (.run · .engineCommandComplete)

/-- Controllers. -/
def controlTurns (s : State) : List Event :=
  s.active.map fun r => if r.ctl == .cfg then .cfg r.focus else .ctl r.focus

/-- Launch unit and distributor of a die. -/
def dieEvents (s : State) (d : Nat) : List Event :=
  let l := (s.die d).launch
  let ts := s.tasks.filter (·.die == d)
  let f := focusDie d
  (if l.kicks.isEmpty then [] else [.run (launchFocus d 0) .kick, .run (launchFocus d 1) .launchReread]) ++
  (if l.held.isSome || !l.kicks.isEmpty then [.run (launchFocus d 2) .packetAccept] else []) ++
  (if l.conts.isEmpty then [] else [.run (launchFocus d 3) .continuationEnqueue]) ++
  (ts.filterMap fun t => if t.state == .queued then some (.run (focusId t.seq) .agePromote) else none) ++
  (ts.filterMap fun t =>
    if t.state == .queued || t.state == .selected then some (.run (focusId t.seq) .taskDropUnbindable) else none) ++
  (if ts.isEmpty then [] else [.run f .taskSelect, .run f .taskBind])

/-- Page-fault windows and pre-emptions. -/
def faultEvents (s : State) : List Event :=
  s.tasks.flatMap fun t =>
    if !s.clocked t.die then []
    else
      (match t.state with | .window _ => [.run (focusId t.seq) .pageFaultWindowClose] | _ => []) ++
      (match t.pre with
        | .no => []
        | .drain _ => [.pre (preFocus t.seq), .run (focusId t.seq) .drainDeadline]
        | .freeze => [.pre (preFocus t.seq)])

/-- Errands in progress (R315). -/
def errandEvents (s : State) : List Event := s.errands.map fun e => .errand (errandFocus e.1)

/-- Ports with held beats (R316). -/
def holdEvents (s : State) : List Event :=
  s.dieNums.flatMap fun d => (s.die d).links.filterMap fun p =>
    if p.hold.isEmpty then none else some (.run { focusDie d with port := p.id } .xferHoldRetranslate)

/-- Clock and power (R331). -/
def powerEvents (s : State) : List Event :=
  (s.dieNums.filterMap fun d =>
    let x := s.die d
    if x.stopped then none
    else if stepsDown x then some (.run (focusDie d) .clockStepDown)
    else if stepsUp x then some (.run (focusDie d) .clockStepUp)
    else none) ++
  (if tooHot s then [.run .none .thermalShutdown] else [])

/-- Cycles of die 0 between two background passes over the access tags (R172). -/
def sweepPeriod : Nat := 2 ^ 20

/-- The clocks of the dies (R4). -/
def clockEvents (s : State) : List Event := s.dieNums.map fun d => .run (focusDie d) .fabricCycle

/-- The events of a cycle of a running module: the memory tiles, the cells, landings and ports, the islands, the controllers
after everything that they wait for, launch and distributor, faults. -/
def cycleEvents (s : State) : List Event :=
  clockEvents s ++ arriveEvents s ++ s.active.flatMap regionEvents ++ landEvents s ++
  s.active.flatMap portEvents ++ controlEvents s ++ commandEvents s ++ controlTurns s ++
  (s.dieNums.filter s.clocked).flatMap (dieEvents s) ++ faultEvents s ++ errandEvents s ++ holdEvents s ++
  (if s.now 0 % sweepPeriod == 0 && !s.accTags.isEmpty then [.run .none .tagSweep] else []) ++ powerEvents s

/-- Erase and verify in progress (R328). -/
def flashEvents (m : Module) : List Event :=
  if m.fwBusy == 1 then [.run .none .fwEraseDone] else if m.fwBusy == 2 then [.run .none .fwVerifyDone] else []

/-! What arrives from outside. -/

/-- An arrival that cannot be taken yet: a flit whose port a held beat stops (R316), or the write of an aperture register while pieces
are under way (R323). -/
def mustWait (s : State) (e : Event) : Bool :=
  match e with
  | .run f (.flitReceive ..) => !(s.port f.port).hold.isEmpty
  | .run _ (.apertureRegWrite ..) => s.writesOut
  | _ => false

/-- The first host request, unless the port is frozen. -/
def hostInput (s : State) : Option Event :=
  if s.module.hostFrozen || s.module.off then none else s.inputs.find? isHostReq

/-- Power is applied. -/
def isPowerOn (e : Event) : Bool := match e with | .run _ .powerOn => true | _ => false

/-- The first other arrival that can be taken; without power, the power that returns alone (R331). -/
def otherInput (s : State) : Option Event :=
  s.inputs.find? fun e => !isHostReq e && !mustWait s e && (!s.module.off || isPowerOn e)

/-- Arrivals taken in this cycle: one of the host and one other, with what is left. -/
def takeInputs (s : State) : List Event × List Event :=
  let h := (hostInput s).toList
  let o := (otherInput s).toList
  (h ++ o, (h ++ o).foldl List.erase s.inputs)

/-- Refills the agenda: the next start step, or a cycle, then arrivals. -/
def planCycle (s : State) : State :=
  let (ins, rest) := takeInputs s
  let m := s.module
  let own := if m.off then [] else match m.phase with
    | .starting => clockEvents s ++ [.run .none .startStepDone] ++ powerEvents s
    | .running => cycleEvents s ++ flashEvents m
    | .recovery => clockEvents s ++ flashEvents m ++ powerEvents s
  { s with agenda := own ++ ins, inputs := rest }

/-! What an event does. -/

/-- The actor of a planned step is still there: an earlier event of the cycle may have ended it. -/
def actorThere (s : State) (f : Focus) (i : Instr) : Bool :=
  match i with
  | .memoryTileRequest | .landingBufferWrite | .storeAck => (s.req f.id).isSome
  | .doneToken | .runPass | .monitorWake | .streamPortIssue => (s.region f.die f.rblk).isSome
  | .reorderStoreAdmit | .reorderStoreIssue =>
    match s.region f.die f.rblk with
    | some r => f.id < r.stores.length
    | none => false
  | .engineCommandStart | .engineCommandComplete | .mloadCommit => (s.cmd f.id).isSome
  | .agePromote | .taskDropUnbindable | .pageFaultWindowClose | .drainDeadline => (s.task f.id).isSome
  | _ => true

/-- Executes an instruction for an actor. -/
def execFor (i : Instr) (s : State) (f : Focus) : Out := exec i { s with focus := f }

/-- What stands of a word fetched in focus: where it lies on another module, nothing until it is there (R315). -/
def fetched (s : State) (f : Focus) (w : State → CAcc) (g : W64 → State → Out) : Out :=
  let s := { s with focus := f }
  settleOut s <|
    match w s with
    | .stop t => .next t
    | .ok v t => if t.wants.isEmpty then g v t else .next t

/-- The instruction at pc: an encoding that is none is illegal (R101). -/
def fetchTurn (s : State) (r : Region) (f : Focus) : Out :=
  fetched s f (fetchCtl · r) fun w t =>
    match decode64 w with
    | some i => execFor i t f
    | none => .next (trapIllegal t r)

/-- A trap that is due comes first; otherwise g (R220). -/
def boundaryTurn (s : State) (r : Region) (f : Focus) (g : Out) : Out :=
  if (trapDue r).isSome then execFor .trapEntry s f else g

/-- The turn of a controller (R201): frozen or held, it stays at its boundary. -/
def ctlEvent (s : State) (f : Focus) : Out :=
  match s.region f.die f.rblk with
  | none => .next s
  | some r =>
    let stay := r.frozen != .no || r.held
    match r.ctl with
    | .join .. => execFor .joinComplete s f
    | .ready issueAt => if stay || s.now f.die < issueAt then .next s else boundaryTurn s r f (fetchTurn s r f)
    | .belay _ => if stay then .next s else boundaryTurn s r f (execFor .belayPass s f)
    | .waitc .. => if stay then .next s else boundaryTurn s r f (execFor .waitcEnd s f)
    | .spawn .. => if stay then .next s else fetchTurn s r f
    | .halt => if stay then .next s else fetchTurn s r f
    | .stage => if stay then .next s else execFor .stageResume s f
    | .cfg => .next s
    | .fault => .next s
    | .halted => .next s

/-- The next command of a CFG in progress (R203): a word that is no command faults (R94). A frozen region takes none (R201, R300). -/
def cfgEvent (s : State) (f : Focus) : Out :=
  match s.region f.die f.rblk with
  | none => .next s
  | some r =>
    match r.cfg with
    | none => .next s
    | some run =>
      if r.frozen != .no || r.ctl != .cfg || s.now f.die < run.at_ then .next s
      else fetched s f (fetchCfg · r run) fun w t =>
        match decode32 (w.setWidth 32) with
        | some i => execFor i t f
        | none => .next (configFault t r run 0 0)

/-- The turn of a cell: its operation word is decoded (R23). -/
def cellEvent (s : State) (f : Focus) : Out :=
  match s.region f.die f.rblk with
  | none => .next s
  | some r =>
    if r.cellCount ≤ f.cell then .next s
    else match decode40 (r.cell f.cell).cfg.op with
      | some i => execFor i s f
      | none => .next s

/-- The step of a command: its words are decoded (R102). Words of an MLOAD that are no command only consume their stream
(R246); a streamer command whose MODE is none of its values reads its block before it faults (R252). -/
def cmdEvent (s : State) (f : Focus) : Out :=
  match s.cmd f.id with
  | none => .next s
  | some c =>
    match decode128 c.words.w0 c.words.w1 with
    | some i => execFor i s f
    | none =>
      if c.target == 3 then streamTurn c.words { s with focus := f } badMode
      else if c.isLoad then execFor (.mload c.words) s f
      else .next s

/-- The progress of a pre-emption, once it has what it needs of other modules (R304, R305, R315). -/
def preEvent (s : State) (f : Focus) : State :=
  let s := { s with focus := f }
  settle s (preProgress s f.id)

/-- Does what an event is. -/
def doEvent (e : Event) (s : State) : Out :=
  match e with
  | .run f i => if actorThere s f i then execFor i s f else .next s
  | .ctl f => ctlEvent s f
  | .cfg f => cfgEvent s f
  | .cell f => cellEvent s f
  | .cmd f => cmdEvent s f
  | .pre f => .next (preEvent s f)
  | .port f => .next (portTurn s f)
  | .sensor d mw temp => .next (readSensor s d mw temp)
  | .lasting d unit part index => .next (lastingError s d unit part index)
  | .transient d => .next (transientError s d)
  | .failed d b q src oid o ws => .next (accessLost s d b q src oid o ws)
  | .errand f => .next (runErrand s f)
  | .nak port n => .next (peerFails s port n)
  | .rdmaRead port qp adr n => .next (rdmaRead s port qp adr n)
  | .rdmaSend port qp bs => .next (rdmaSend s port qp bs)
  | .rdmaWrite port qp adr bs cadr entry => .next (rdmaWrite s port qp adr bs cadr entry)
  | .rdmaPost port qp verb adr n far => .next (rdmaPost s port qp verb adr n far)

/-- After an event: what it has still to write on other modules leaves, and nothing stays wanted (R315). -/
def eventDone (s : State) : State := { s.flush idleFocus with wants := [] }

/-- Runs an event. -/
def runEvent (e : Event) (s : State) : Out :=
  match doEvent e s with
  | .next t => .next (eventDone t)
  | o => o

/-- The next event, or the planning of a cycle where none is due. -/
def turn (s : State) : Out :=
  match s.agenda with
  | [] => .next (planCycle s)
  | e :: es => runEvent e { s with agenda := es }

/-! Placing one instruction where the next step fetches it. -/

/-- Sequence number of the task that the placed instruction runs under. -/
def placedSeq : Nat := 1

/-- Object that holds its route image, and the image's capability: every right, offsets from 0. -/
def placedRoute : Cap := ⟨1#32 ++ 0xFF#8 ++ 0#44 ++ 14#6 ++ 0#18 ++ 0x10#18 ++ 0#2, true⟩

/-- Task bound to one region of one block. -/
def placedTask : Task :=
  { seq := placedSeq, die := 0, state := .bound, packet := 0, args := [], args0 := [], done := .none, save := .none, spill := .none,
    route := placedRoute, entry := 64, tvec := 64, saveSize := 0, orders := [], queue := 0, prio := 0, queuedAt := 0, place := 0,
    selPrio := 0, m := placedSeq, acq := [], edge := none, rises := 0, keys := [], grants := 0, halted := 0, stages := [],
    entered := false, pre := .no, snap := none }

/-- The translation of the image's object at block 0: one page of 8 GiB from the start of this module's memory. -/
def placedXlate (s : State) : Xlate :=
  { blk := 0, oid := 1, desc := BitVec.ofNat 256 (2 ^ 33 * 2 ^ 140 + 0x40), ext := BitVec.ofNat 128 (1 * 2 ^ 64 + 3 * 2 ^ 6), page := 0,
    pdesc := BitVec.ofNat 128 (s.module.nrid.toNat * 2 ^ 44 * 2 ^ 72 + 0xC0), prior := [] }

/-- Bytes at the image's offset 64, from which both an instruction and a command stream are fetched. -/
def placedBytes (nbits w : Nat) : List Byte := natLe (if nbits ≤ 32 then 4 else 8) w

/-- A CFG in progress whose next command is at offset 64: one command where it is END, else two. -/
def placedCfg (w now : Nat) : CfgRun :=
  { off := 16, count := if decode32 (BitVec.ofNat 32 w) == some .cfgEnd then 1 else 2, pos := 0, base := 0, cover := .none,
    exts := [], at_ := now, pc := 64 }

/-- The region that runs the placed instruction: its controller, a CFG in progress or its cell 0. -/
def placedRegion (nbits w now : Nat) : Region :=
  let r := { freshRegion placedTask 0 0 now with pc := 64, ctl := .ready now }
  if nbits ≤ 32 then { r with ctl := .cfg, cfg := some (placedCfg w now) }
  else if nbits ≤ 40 then
    { r with running := true, runAt := now,
             cells := [(0, { Cell.reset with cfg := { CellCfg.reset with op := BitVec.ofNat 40 w } })] }
  else r

/-- The island command of two words, running. -/
def placedCmd (s : State) (r : Region) (w : Nat) : Cmd :=
  let c := newCmd s r (if w / 2 ^ 56 % 256 < 0x20 then 2 else 3) 0 0 0 (BitVec.ofNat 64 w) (BitVec.ofNat 64 (w >>> 64))
  { c with stage := .running }

/-- A state whose next step fetches and runs the instruction of nbits bits w. -/
def placeWord (s : State) (nbits w : Nat) : State :=
  let now := s.now 0
  let r := placedRegion nbits w now
  let f := r.focus
  let s := { s with
    module := { s.module with phase := .running, otlen := if s.module.otlen.toNat < 2 then 2 else s.module.otlen },
    regions := r :: s.regions.filter fun x => !(x.die == 0 && x.blocks.contains 0),
    tasks := placedTask :: s.tasks.filter (·.seq != placedSeq),
    bad := s.bad.filter (· != 1), asks := [], words := [], wants := [], puts := [] }
  let s := s.updDie 0 fun x => { x with xlates := placedXlate s :: x.xlates }
  let s := pokeBytes s 64 (placedBytes nbits w)
  let s := { s with accTags := setTag s.accTags 1 (mkTag tagSync 0) }
  if nbits ≤ 32 then { s with agenda := [.cfg f] }
  else if nbits ≤ 40 then { s with agenda := [.cell f] }
  else if nbits ≤ 64 then { s with agenda := [.ctl f] }
  else
    let c := placedCmd s r w
    { s with cmds := c :: s.cmds.filter (·.id != c.id), agenda := [.cmd (cmdFocus c.id)] }

end Sys2Proof.Machine
end

