-- ==== Sys2Proof/Machine/Step.lean ====
section
/-! DEFINITION. The step of the machine, and the placing of one instruction for it. -/

namespace Sys2Proof.Machine

/-- One step: the next event due in the cycle, or, where none is due, the events of the next cycle. -/
def step (s : State) : Host.Outcome State Fault Refusal := turn s

/-- The state with the instruction of nbits bits w where the next step fetches it. -/
def State.withFetchWord (s : State) (nbits w : Nat) : State := placeWord s nbits w

end Sys2Proof.Machine
end

