-- ==== Sys2Proof/Safety.lean ====
section
/-! DEFINITION. What claims call safe, and the terms they are stated in: the data of a state keeps its forms, a step goes on,
an actor stands ready for its step, and a firing delivers a value. -/

namespace Sys2Proof.Machine

/-- The byte store is in its one canonical form. -/
def State.memOk (s : State) : Prop := Memory.wf s.mem = true

/-- No die's system fault queue holds more than its 512 records (R294). -/
def State.queuesOk (s : State) : Prop := ∀ x ∈ s.dies, x.faults.recs.length ≤ Config.faultQueueSize

/-- The forms that every step keeps. -/
structure State.Inv (s : State) : Prop where
  mem : s.memOk
  queues : s.queuesOk

/-- A step from s answers a next state. -/
def State.goesOn (s : State) : Prop := ∃ t, step s = .next t

/-- A state is reached from another one by steps. -/
inductive Reaches : State → State → Prop where
  | refl (s : State) : Reaches s s
  | step {s t u : State} : Reaches s t → Machine.step t = .next u → Reaches s u

/-- The actor in focus has nothing under way with other modules: no answer or acknowledgement is due to it, none waits to be used, and the
step has neither wanted nor written anything there yet (R315). -/
structure State.Alone (s : State) : Prop where
  asked : s.asking s.focus = false
  told : ∀ a ∈ s.words, a.who ≠ s.focus
  wants : s.wants = []
  puts : s.puts = []

/-! Cells. -/

/-- The cell in focus stands where a turn finds it: its region is live, it is neither stopped nor a discarded scout, and no result of an
earlier firing goes first; results that may not go yet may wait. cx is the context of its turn. -/
structure CellStands (s : State) (cx : Cx) : Prop where
  state : cx.s = s
  region : s.region s.focus.die s.focus.rblk = some cx.r
  cell : cx.c = s.focus.cell
  inside : cx.c < cx.r.cellCount
  live : cx.r.live = true
  here : cx.x = cx.r.cell cx.c
  time : cx.t = s.now s.focus.die
  clear : sendResult s cx.r cx.c cx.t = s
  going : cx.x.rt.stopped = false
  kept : cx.x.rt.lost = false

/-- The cell in focus has a turn: it stands, it has not fired in this cycle, a scout keeps its pace (R35), and no token owed by an
earlier firing goes first. -/
structure CellTurns (s : State) (cx : Cx) : Prop extends CellStands s cx where
  fresh : cx.x.rt.fired ≠ cx.t + 1
  pace : paced cx.r cx.c = true
  owing : cx.x.rt.owed = []

/-- The cell in focus is awake: it has a turn, and no head that its form does not accept stands at a port (R24). -/
structure CellAwake (s : State) (cx : Cx) : Prop extends CellTurns s cx where
  accepted : cx.wrongKind = none

/-- The cell in focus may fire in this cycle: it is awake, and the time of an earlier DIV or REM is over (R108). -/
structure CellReady (s : State) (cx : Cx) : Prop extends CellAwake s cx where
  rested : cx.x.rt.busy ≤ cx.t

/-- The element-wise form on ports ps has its operands (R106, R107): every port is bound, every link's head is a non-void VAL that
the port accepts, no register read or written is pending, and some operand is a link. -/
structure ElemReady (cx : Cx) (ps : List Nat) (os : List Operand) : Prop where
  bound : ∀ p ∈ ps, cx.bound p = true
  operands : cx.operands ps = some os
  linked : ps.filter cx.isLink ≠ []
  values : ∀ p ∈ ps, cx.isLink p = true → ∃ k, cx.head p = some k ∧ k.kind = .val ∧ k.void = false
  taken : ∀ p ∈ ps, cx.isLink p = true → cx.refuses p markKinds (fun _ => true) = false
  free : cx.m.rdstNat = 0 ∨ cx.pendingReg cx.m.rdstNat = false

/-- The firing that consumes the heads of the links among ps and sends one VAL v on every data destination (R23): v goes to l0
and to the register RDST, fl into the sticky flags. -/
def Cx.deliver (cx : Cx) (ps : List Nat) (v : W64) (fl : FlagBits) : State :=
  commit cx { takes := ps.filter cx.isLink, sends := cx.toAll (.plain .val v), val := some v, rdst := cx.m.rdstNat,
              rdstVal := v, flags := fl }

end Sys2Proof.Machine
end

