-- ==== Sys2Proof/Certificates/Slice0/Obligations.lean ====
section
/-! DEFINITION. The statements for the provers: what the spec's rules say the instructions and the machine do. A statement that has
several parts names them; each part stands under Claims with the terms it is stated in. -/

open Sys2Proof Sys2Proof.Machine

namespace Sys2Proof.Machine

/-! Element-wise forms: the value each delivers. -/

/-- A form that delivers one value: its step, its operand count and its value on operand payloads a, b, c. -/
structure ValueForm where
  op : Mods → Instr
  arity : Nat
  value : Mods → W64 → W64 → W64 → W64

/-- The integer of TYPE in a payload: signed for I types, unsigned for N types (R62, R109). -/
def Claims.int (m : Mods) (a : W64) : Int := intOf m.tyNat a

/-- The low w bits of a payload. -/
def Claims.pat (m : Mods) (a : W64) : Nat := a.toNat % 2 ^ tyWidth m.tyNat

/-- The shift count n := b mod w, b read unsigned (R109). -/
def Claims.places (m : Mods) (b : W64) : Nat := Claims.pat m b % tyWidth m.tyNat

/-- The exact result modulo 2^w, or clamped to the range of TYPE with SAT (R109). -/
def Claims.wrap (m : Mods) (v : Int) : W64 :=
  if m.modF 0 1 = 1 then ofInt m.tyNat (clampTy m.tyNat v) else ofInt m.tyNat v

/-- Table 9.1, but for DIV, REM, ADDC and SUBB. -/
def intForms : List ValueForm :=
  [ ⟨.add, 2, fun m a b _ => Claims.wrap m (Claims.int m a + Claims.int m b)⟩,
    ⟨.sub, 2, fun m a b _ => Claims.wrap m (Claims.int m a - Claims.int m b)⟩,
    ⟨.mul, 2, fun m a b _ => Claims.wrap m (Claims.int m a * Claims.int m b)⟩,
    ⟨.mulh, 2, fun m a b _ => ofInt m.tyNat (Int.fdiv (Claims.int m a * Claims.int m b) (2 ^ tyWidth m.tyNat : Nat))⟩,
    ⟨.and, 2, fun m a b _ => extendTy m.tyNat (a &&& b).toNat⟩,
    ⟨.or, 2, fun m a b _ => extendTy m.tyNat (a ||| b).toNat⟩,
    ⟨.xor, 2, fun m a b _ => extendTy m.tyNat (a ^^^ b).toNat⟩,
    ⟨.not, 1, fun m a _ _ => extendTy m.tyNat (~~~a).toNat⟩,
    ⟨.shl, 2, fun m a b _ => extendTy m.tyNat (Claims.pat m a * 2 ^ Claims.places m b)⟩,
    ⟨.shr, 2, fun m a b _ => extendTy m.tyNat (Claims.pat m a / 2 ^ Claims.places m b)⟩,
    ⟨.sar, 2, fun m a b _ => ofInt m.tyNat (Int.fdiv
      (if (Claims.pat m a).testBit (tyWidth m.tyNat - 1) then (Claims.pat m a : Int) - (2 ^ tyWidth m.tyNat : Nat)
       else Claims.pat m a) (2 ^ Claims.places m b : Nat))⟩,
    ⟨.rot, 2, fun m a b _ => extendTy m.tyNat
      (Claims.pat m a * 2 ^ Claims.places m b + Claims.pat m a / 2 ^ (tyWidth m.tyNat - Claims.places m b))⟩,
    ⟨.min, 2, fun m a b _ => ofInt m.tyNat (min (Claims.int m a) (Claims.int m b))⟩,
    ⟨.max, 2, fun m a b _ => ofInt m.tyNat (max (Claims.int m a) (Claims.int m b))⟩,
    ⟨.cmp, 2, fun m a b _ =>
      let holds : Bool := match m.modF 0 3 with
        | 0 => Claims.int m a == Claims.int m b
        | 1 => Claims.int m a != Claims.int m b
        | 2 => Claims.int m a < Claims.int m b
        | 3 => Claims.int m a ≤ Claims.int m b
        | 4 => Claims.int m b < Claims.int m a
        | _ => Claims.int m b ≤ Claims.int m a
      if holds then 1 else 0⟩,
    ⟨.sel, 3, fun m a b c => ofInt m.tyNat (if Claims.int m a = 0 then Claims.int m c else Claims.int m b)⟩,
    ⟨.clz, 1, fun m a _ _ => BitVec.ofNat 64
      (if Claims.pat m a = 0 then tyWidth m.tyNat else tyWidth m.tyNat - 1 - (Claims.pat m a).log2)⟩,
    ⟨.popc, 1, fun m a _ _ => BitVec.ofNat 64 ((List.range 64).filter fun i => (Claims.pat m a).testBit i).length⟩ ]

end Sys2Proof.Machine

/-- Each integer form of Table 9.1 fires on its operands and delivers the value the table gives, without a flag (R109). -/
def Obligations.IntegerFormsDeliverTableValues : Prop :=
  ∀ e ∈ intForms, ∀ (s : State) (cx : Cx) (os : List Operand), CellReady s cx → ElemReady cx (List.range e.arity) os →
    exec (e.op cx.m) s = .next (cx.deliver (List.range e.arity) (e.value cx.m (opPay os 0) (opPay os 1) (opPay os 2)) 0)

namespace Sys2Proof.Machine

/-- DIV truncates toward zero and REM leaves what is left; a divisor of 0 gives all ones and a. Both hold the cell for w / 2 cycles,
and a cell so held does nothing, whatever its heads are (R108, R109). -/
def Claims.DividersDeliverAndHoldTheirUnit : Prop :=
  (∀ (s : State) (cx : Cx), CellAwake s cx → cx.t < cx.x.rt.busy → exec (.div cx.m) s = .next s ∧ exec (.rem cx.m) s = .next s) ∧
  ∀ (s : State) (cx : Cx) (os : List Operand), CellReady s cx → ElemReady cx [0, 1] os →
    let a := Claims.int cx.m (opPay os 0)
    let b := Claims.int cx.m (opPay os 1)
    let t := cx.m.tyNat
    let q : W64 := if b = 0 then ofInt t (-1) else ofInt t (Int.tdiv a b)
    let rm : W64 := if b = 0 then ofInt t a else ofInt t (a - b * Int.tdiv a b)
    let fired (v : W64) : State := commit cx
      { takes := [0, 1].filter cx.isLink, sends := cx.toAll (.plain .val v), val := some v, rdst := cx.m.rdstNat, rdstVal := v,
        upd := fun y => { y with busy := cx.t + tyWidth t / 2 } }
    exec (.div cx.m) s = .next (fired q) ∧ exec (.rem cx.m) s = .next (fired rm)

/-- ADDC and SUBB send v on out0 and out1 and the carry or borrow on out2 and out3; RDST takes v (R110). -/
def Claims.CarryFormsDeliverSumAndCarry : Prop :=
  ∀ (s : State) (cx : Cx) (os : List Operand), CellReady s cx → ElemReady cx [0, 1, 2] os →
    let m := cx.m
    let w := tyWidth m.tyNat
    let a := Claims.pat m (opPay os 0)
    let b := Claims.pat m (opPay os 1)
    let c := (opPay os 2).toNat % 2
    let d : Int := a - b - c
    let fired (v : W64) (x : Nat) : State := commit cx
      { takes := [0, 1, 2].filter cx.isLink
        sends := cx.x.cfg.dataOuts.map fun o => (o, Token.plain .val (if o < 2 then v else extendTy m.tyNat x))
        val := some v, rdst := m.rdstNat, rdstVal := v }
    exec (.addc m) s = .next (fired (extendTy m.tyNat ((a + b + c) % 2 ^ w)) ((a + b + c) / 2 ^ w)) ∧
    exec (.subb m) s = .next (fired (extendTy m.tyNat (d % (2 ^ w : Nat)).toNat) (if d < 0 then 1 else 0))

/-- AFFINE delivers c0 plus the bound operands, each times its constant, modulo 2^w (R115). -/
def Claims.AffineDeliversTheAffineSum : Prop :=
  ∀ (s : State) (cx : Cx) (os : List Operand), CellReady s cx →
    let ps := (List.range 4).filter cx.bound
    ElemReady cx ps os →
    let m := cx.m
    let c (n : Nat) : Int := Claims.int m (cx.x.cfg.const n)
    let term (p : Nat) : Int := match os.find? (·.port == p) with | some o => Claims.int m o.pay * c (p + 1) | none => 0
    exec (.affine m) s = .next (cx.deliver ps (ofInt m.tyNat (c 0 + term 0 + term 1 + term 2 + term 3)) 0)

end Sys2Proof.Machine

/-- DIV truncates toward zero and REM leaves what is left; a divisor of 0 gives all ones and a. Both hold the cell for w / 2 cycles,
and a cell so held does nothing, whatever its heads are (R108, R109). ADDC and SUBB send v on out0 and out1 and the carry or borrow
on out2 and out3; RDST takes v (R110). AFFINE delivers c0 plus the bound operands, each times its constant, modulo 2^w (R115). -/
def Obligations.DivisionCarryAndAffineForms : Prop := Sys2Proof.Machine.Claims.DividersDeliverAndHoldTheirUnit ∧ Sys2Proof.Machine.Claims.CarryFormsDeliverSumAndCarry ∧ Sys2Proof.Machine.Claims.AffineDeliversTheAffineSum

namespace Sys2Proof.Machine

/-! Capability forms. -/

/-- The firing that derives k' (R111, R112): v is the cursor, zero-extended; with RDST = kn, own kn takes k' and every
destination's token carries it. -/
def Cx.derive (cx : Cx) (k' : Cap) : State :=
  let v := BitVec.ofNat 64 k'.cursor
  let rd := cx.m.rdstNat
  commit cx
    { takes := [0].filter cx.isLink
      sends := cx.toAll (if rd == 0 then .plain .val v else ⟨.val, v, false, .cap (rd - 0x10) k', 0, false⟩)
      val := some v
      upd := fun y => if rd == 0 then y else { y with k := y.k.set (rd - 0x10) k' } }

/-- A derived capability has no bound, right or object that its source lacks (R111). -/
structure Cap.NoMore (k' k : Cap) : Prop where
  oid : k'.oid = k.oid
  tag : k'.tag = k.tag
  rights : k'.rights &&& k.rights = k'.rights
  base : k.base ≤ k'.base
  top : k'.top ≤ k.top

/-- Neither the k register read nor the one written is pending (R29). -/
def Cx.capFree (cx : Cx) : Prop :=
  cx.kPending (cx.m.modF 0 2) = false ∧ (cx.m.rdstNat = 0 ∨ cx.kPending (cx.m.rdstNat - 0x10) = false)

/-- CAPOFS and CAPSET move the cursor modulo 2^44, CAPRGT drops rights, CAPNAR takes the smallest representable bounds that
contain [cursor, cursor + a), which with EXACT are that range itself; each sends K'.cursor. No form widens bounds, adds a right or changes the object (R111). -/
def Claims.CapabilityFormsDeriveWithoutGain : Prop :=
  ∀ (s : State) (cx : Cx) (os : List Operand), CellReady s cx → ElemReady cx [0] os → cx.capFree →
    let m := cx.m
    let k := cx.kreg (m.modF 0 2) [0]
    let a := opPay os 0
    let hi := k.cursor + a.toNat
    k.tag = true → k.wf = true →
    (∃ k', Cap.NoMore k' k ∧ k'.base = k.base ∧ k'.top = k.top ∧ k'.rights = k.rights ∧
      (k'.cursor : Int) = (k.cursor + a.toInt * (2 ^ m.modF 2 3 : Nat)) % (2 ^ 44 : Nat) ∧
      exec (.capofs m) s = .next (cx.derive k')) ∧
    (∃ k', Cap.NoMore k' k ∧ k'.base = k.base ∧ k'.top = k.top ∧ k'.rights = k.rights ∧
      (k'.cursor : Int) = (k.base + a.toInt) % (2 ^ 44 : Nat) ∧ exec (.capset m) s = .next (cx.derive k')) ∧
    (k.rights.testBit 5 = true →
      (∃ k', Cap.NoMore k' k ∧ k'.base = k.base ∧ k'.top = k.top ∧ k'.cursor = k.cursor ∧
        k'.rights = k.rights &&& m.modF 2 8 &&& a.toNat % 256 ∧ exec (.caprgt m) s = .next (cx.derive k')) ∧
      (∀ e bb bt, smallestBounds k.cursor hi = some (e, bb, bt) → k.base ≤ bb * 2 ^ e → bt * 2 ^ e ≤ k.top → hi ≤ 2 ^ 44 →
        (m.modF 2 1 = 1 → bb * 2 ^ e = k.cursor ∧ bt * 2 ^ e = hi) →
        ∃ k', Cap.NoMore k' k ∧ k'.base = bb * 2 ^ e ∧ k'.top = bt * 2 ^ e ∧ k'.cursor = k.cursor ∧
          k'.rights = k.rights ∧ exec (.capnar m) s = .next (cx.derive k')))

/-- A capability form with a fault fires nothing: K untagged gives CAP_TAG, CAPNAR and CAPRGT without the derive right
CAP_RIGHTS, and CAPNAR outside K's bounds CAP_BOUNDS. The region freezes, no cell changes, and a record is posted, in a scout as
elsewhere (R114). -/
def Claims.CapabilityFaultsFreezeTheRegion : Prop :=
  ∀ (s : State) (cx : Cx) (os : List Operand), CellReady s cx → ElemReady cx [0] os → cx.capFree →
    let m := cx.m
    let k := cx.kreg (m.modF 0 2) [0]
    let hi := k.cursor + (opPay os 0).toNat
    let derives : List Instr := [.capnar m, .caprgt m]
    let faults (i : Instr) (code : Nat) : Prop :=
      ∃ t, exec i s = .next t ∧
        (∃ need pos, t = freeze s cx.r code srcCell (capAccess cx k need pos).words) ∧
        ∃ r, t.region s.focus.die s.focus.rblk = some r ∧ r.frozen = .violation ∧ r.cells = cx.r.cells ∧ r.st = cx.r.st
    (k.tag = false → ∀ i ∈ Instr.capofs m :: Instr.capset m :: derives, faults i fcTag) ∧
    (k.tag = true → k.rights.testBit 5 = false → ∀ i ∈ derives, faults i fcRights) ∧
    (k.tag = true → k.rights.testBit 5 = true →
      (2 ^ 44 < hi ∨ smallestBounds k.cursor hi = none ∨ (∃ e bb bt, smallestBounds k.cursor hi = some (e, bb, bt) ∧
        (bb * 2 ^ e < k.base ∨ k.top < bt * 2 ^ e ∨ (m.modF 2 1 = 1 ∧ ¬(bb * 2 ^ e = k.cursor ∧ bt * 2 ^ e = hi))))) →
      faults (.capnar m) fcBounds)

/-- CAPTAG sends the field of K that SEL chooses, zero-extended, whatever K's tag; SEL 6 and 7 are no valid step (R113). -/
def Claims.CaptagSendsTheChosenField : Prop :=
  (∀ (s : State) (cx : Cx) (os : List Operand), CellReady s cx → ElemReady cx [0] os →
    cx.kPending (cx.m.modF 0 2) = false →
    let k := cx.kreg (cx.m.modF 0 2) [0]
    let sends (v : Nat) : Prop := exec (.captag cx.m) s = .next (cx.deliver [0] (BitVec.ofNat 64 v) 0)
    (cx.m.modF 2 3 = 0 → sends (if k.tag then 1 else 0)) ∧ (cx.m.modF 2 3 = 1 → sends k.rights) ∧
    (cx.m.modF 2 3 = 2 → sends k.cursor) ∧ (cx.m.modF 2 3 = 3 → sends k.base) ∧ (cx.m.modF 2 3 = 4 → sends k.top) ∧
    (cx.m.modF 2 3 = 5 → sends k.oid)) ∧
  ∀ m : Mods, 6 ≤ m.modF 2 3 → (Instr.captag m).wf = false

end Sys2Proof.Machine

/-- CAPOFS and CAPSET move the cursor modulo 2^44, CAPRGT drops rights, CAPNAR takes the smallest representable bounds that contain
[cursor, cursor + a), which with EXACT are that range itself; each sends K'.cursor. No form widens bounds, adds a right or changes
the object (R111). CAPTAG sends the field of K that SEL chooses, zero-extended, whatever K's tag; SEL 6 and 7 are no valid step
(R113). -/
def Obligations.CapabilitiesDeriveAndTravel : Prop := Sys2Proof.Machine.Claims.CapabilityFormsDeriveWithoutGain ∧ Sys2Proof.Machine.Claims.CaptagSendsTheChosenField

namespace Sys2Proof.Machine

/-! Floating-point forms. -/

/-- A floating-point form: its step, its operand count and its rounded result on exact operands. -/
structure FloatForm where
  op : Mods → Instr
  arity : Nat
  result : Mods → RMode → FVal → FVal → FVal → Rounded

/-- Table 9.4, but for FCMP, FABS, FNEG and FCLASS. -/
def floatForms : List FloatForm :=
  [ ⟨.fadd, 2, fun m rm a b _ => faddOp m.tyNat rm a b⟩,
    ⟨.fsub, 2, fun m rm a b _ => faddOp m.tyNat rm a (b.flipNum true)⟩,
    ⟨.fmul, 2, fun m rm a b _ => fmulOp m.tyNat rm a b⟩,
    ⟨.fma, 3, fun m rm a b c => fmaOp m.tyNat rm (m.modF 0 1 == 1) (m.modF 1 1 == 1) a b c⟩,
    ⟨.fmin, 2, fun m rm a b _ => fminmaxOp m.tyNat rm false a b⟩,
    ⟨.fmax, 2, fun m rm a b _ => fminmaxOp m.tyNat rm true a b⟩,
    ⟨.rcpa, 1, fun m rm a _ _ => approxOp .rcp m.tyNat rm a⟩,
    ⟨.rsqa, 1, fun m rm a _ _ => approxOp .rsq m.tyNat rm a⟩,
    ⟨.exp2a, 1, fun m rm a _ _ => approxOp .exp2 m.tyNat rm a⟩,
    ⟨.log2a, 1, fun m rm a _ _ => approxOp .log2 m.tyNat rm a⟩ ]

end Sys2Proof.Machine

/-- Each form takes its operands at their exact decoded values and delivers one rounded result, whose flags go to st (R117,
R120). -/
def Obligations.FloatFormsDeliverOneRounding : Prop :=
  ∀ e ∈ floatForms, ∀ (s : State) (cx : Cx) (os : List Operand), CellReady s cx → ElemReady cx (List.range e.arity) os →
    let x (n : Nat) : FVal := cx.fArg cx.m.tyNat (opAt os n)
    let r := e.result cx.m (rmodeOf cx.m.rmNat) (x 0) (x 1) (x 2)
    exec (e.op cx.m) s = .next (cx.deliver (List.range e.arity) (BitVec.ofNat 64 r.bits) r.flags)

namespace Sys2Proof.Machine

/-- The rational number that a finite value is. -/
def Claims.rat : FVal → ℚ
  | .fin n m e => (if n then -(m : ℚ) else m) * 2 ^ e
  | _ => 0

/-- a < b as exact values. -/
def Claims.less (a b : FVal) : Prop :=
  match a, b with
  | .inf n, .inf n' => n = true ∧ n' = false
  | .inf n, _ => n = true
  | _, .inf n => n = false
  | x, y => Claims.rat x < Claims.rat y

/-- FCMP compares exact values, with -0 equal to +0. A NaN operand makes NE and UN hold and no other condition; NV is raised by
a signalling NaN, and by a quiet one under LT, LE, GT and GE. COND 7 is no valid step (R118). -/
def Claims.FcmpComparesExactValues : Prop :=
  (∀ (s : State) (cx : Cx) (os : List Operand), CellReady s cx → ElemReady cx [0, 1] os →
    let a := cx.fArg cx.m.tyNat (opAt os 0)
    let b := cx.fArg cx.m.tyNat (opAt os 1)
    let c := cx.m.modF 0 3
    let gives (v : W64) (fl : FlagBits) : Prop := exec (.fcmp cx.m) s = .next (cx.deliver [0, 1] v fl)
    ((a.isNaN || b.isNaN) = true →
      gives (if c = 1 ∨ c = 6 then 1 else 0) (if (a.isSig || b.isSig) = true ∨ (2 ≤ c ∧ c ≤ 5) then flagNV else 0)) ∧
    ((a.isNaN || b.isNaN) = false →
      let holds : Prop := (c = 0 ∧ ¬Claims.less a b ∧ ¬Claims.less b a) ∨ (c = 1 ∧ (Claims.less a b ∨ Claims.less b a)) ∨
        (c = 2 ∧ Claims.less a b) ∨ (c = 3 ∧ ¬Claims.less b a) ∨ (c = 4 ∧ Claims.less b a) ∨ (c = 5 ∧ ¬Claims.less a b)
      (holds → gives 1 0) ∧ (¬holds → gives 0 0))) ∧
  ∀ m : Mods, m.modF 0 3 = 7 → (Instr.fcmp m).wf = false

/-- FABS clears and FNEG inverts the sign bit of a pattern of TYPE, without a flag; another operand is converted to TYPE by RNE
first. FCLASS sends the one bit of the class of its pattern (R119). -/
def Claims.SignAndClassForms : Prop :=
  ∀ (s : State) (cx : Cx) (os : List Operand), CellReady s cx → ElemReady cx [0] os →
    let t := cx.m.tyNat
    let o := opAt os 0
    let top := 2 ^ (tyWidth t - 1)
    let abs (p : Nat) : W64 := BitVec.ofNat 64 (p % top)
    let neg (p : Nat) : W64 := BitVec.ofNat 64 (p ^^^ top)
    let conv := deliver t .rne (cx.fArg t o)
    (∀ p, ownPattern cx t o = some p →
      exec (.fabs cx.m) s = .next (cx.deliver [0] (abs p) 0) ∧ exec (.fneg cx.m) s = .next (cx.deliver [0] (neg p) 0)) ∧
    (ownPattern cx t o = none →
      exec (.fabs cx.m) s = .next (cx.deliver [0] (abs conv.bits) conv.flags) ∧
      exec (.fneg cx.m) s = .next (cx.deliver [0] (neg conv.bits) conv.flags)) ∧
    exec (.fclass cx.m) s = .next (cx.deliver [0] (BitVec.ofNat 64 (fclassOp t (o.pay.toNat % 2 ^ tyWidth t))) 0)

end Sys2Proof.Machine

/-- FCMP compares exact values, with -0 equal to +0. A NaN operand makes NE and UN hold and no other condition; NV is raised by a
signalling NaN, and by a quiet one under LT, LE, GT and GE. COND 7 is no valid step (R118). FABS clears and FNEG inverts the sign
bit of a pattern of TYPE, without a flag; another operand is converted to TYPE by RNE first. FCLASS sends the one bit of the class
of its pattern (R119). -/
def Obligations.ComparisonSignAndClassForms : Prop := Sys2Proof.Machine.Claims.FcmpComparesExactValues ∧ Sys2Proof.Machine.Claims.SignAndClassForms

namespace Sys2Proof.Machine

/-! Conversions. -/

/-- Port p offers the token k, of an accepted kind: it is the port's valid head, and the port does not refuse it. -/
def Cx.offers (cx : Cx) (p : Nat) (k : Token) (kinds : List Kind) (ok : W64 → Bool) : Prop :=
  cx.head p = some k ∧ cx.refuses p kinds ok = false

/-- The register RDST is not pending. -/
def Cx.rdstFree (cx : Cx) : Prop := cx.m.rdstNat = 0 ∨ cx.pendingReg cx.m.rdstNat = false

/-- The value and flags of CVT under RM 0 to 3: integers by their low bits or with SAT clamped, floats rounded once (R121). -/
def Claims.converted (m : Mods) (a : W64) : W64 × FlagBits :=
  let src := m.modF 0 5
  let ty := m.tyNat
  let i := intOf src a
  let x := if src ≤ 8 then ofIntF i else decodeF src (a.toNat % 2 ^ tyWidth src)
  if src ≤ 8 ∧ ty ≤ 8 then (ofInt ty (if m.modF 5 1 = 1 then clampTy ty i else i), 0)
  else if ty ≤ 8 then toIntOp ty (rmodeOf m.rmNat) x
  else (BitVec.ofNat 64 (deliver ty (rmodeOf m.rmNat) x).bits, (deliver ty (rmodeOf m.rmNat) x).flags)

/-- CVT under RM 0 to 3 delivers the converted value (R121). DQNT delivers the exact decoded value of a scaled or codebook
element, rounded once, and refuses a VAL before its first HDR (R127). -/
def Claims.CvtAndDqntDeliverConvertedValues : Prop :=
  ∀ (s : State) (cx : Cx) (os : List Operand), CellReady s cx → ElemReady cx [0] os →
    let m := cx.m
    let a := opPay os 0
    ((m.tyNat < 10 ∨ m.rmNat < 4) →
      exec (.cvt m) s = .next (cx.deliver [0] (Claims.converted m a).1 (Claims.converted m a).2)) ∧
    (∀ h, (cx.x.rt.port 0).hdr = some h →
      let r := deliver m.tyNat (rmodeOf m.rmNat) (decodeUnder cx.book h a)
      exec (.dqnt m) s = .next (cx.deliver [0] (BitVec.ofNat 64 r.bits) r.flags)) ∧
    ((cx.x.rt.port 0).hdr = none → exec (.dqnt m) s = .next (rejectAt s cx.r cx.c 0))

/-- What a converted element leaves in its cell: the position in the order of in0 and in the dither sequence. -/
def Claims.converts (cx : Cx) (y : CellRt) : CellRt :=
  let y := advVal ((cx.orderIn 0).getD OMap.unit) y
  { y with dpos := (y.dpos + 1) % 32 }

/-- The firing that takes in0's VAL and sends the code of an element. -/
def Claims.sendCode (cx : Cx) (code : Nat) (fl : FlagBits) (upd : CellRt → CellRt) : State :=
  commit cx { takes := [0], sends := cx.toAll (.plain .val (BitVec.ofNat 64 code)), val := some (BitVec.ofNat 64 code),
              rdst := cx.m.rdstNat, rdstVal := BitVec.ofNat 64 code, flags := fl, upd := upd }

/-- QNT with SCALE = 0, and CVT and QNT under DITH and NSH, without residue ports: each element leaves in its firing cycle, rounded
once, dithered by its position, or shaped by the residue of its row (R73, R75, R76, R121 to R125). Dithering beyond the largest
number is the model's choice (log 23). -/
def Claims.QuantisingFormsConvertEachElement : Prop :=
  ∀ (s : State) (cx : Cx) (k : Token) (x : FVal) (i : Instr), CellReady s cx → cx.bound 0 = true → cx.rdstFree →
    let m := cx.m
    let y := cx.x.rt
    ((i = .cvt m ∧ 10 ≤ m.tyNat ∧ 4 ≤ m.rmNat) ∨ (i = .qnt m ∧ m.modF 5 1 = 0)) →
    m.modF 14 1 = 0 → m.modF 15 1 = 0 →
    cx.offers 0 k markKinds (fun _ => true) → k.kind = .val → k.void = false →
    sourceValue cx (cx.fmtOf 0 (m.modF 0 5)) k = some x →
    (m.rmNat ≠ 5 →
      let mode := if m.rmNat = 4 then .dith (ditherTau y.dpos y.phi.toNat) else rmodeOf m.rmNat
      let r := deliver m.tyNat mode x
      exec i s = .next (Claims.sendCode cx r.bits r.flags (Claims.converts cx))) ∧
    (m.rmNat = 5 → ∀ a, axisAt ((cx.orderIn 0).getD OMap.unit) (m.modF 6 2) (posIndex ((cx.orderIn 0).getD OMap.unit) y) = some a →
      let row := m.modF 8 6 + a.key
      let r := shapeOne m.tyNat x (y.sreg.getD row 0).toNat none
      exec i s = .next (Claims.sendCode cx r.code r.flags fun y =>
        let z := Claims.converts cx { y with sreg := y.sreg.set row (BitVec.ofNat 32 r.res) }
        { z with begun := z.begun || a.last }))

/-- QNT with SCALE = 1: a VAL enters the buffer; the element that fills a block of 32 closes it with the block's scale; and the
oldest element of a closed block leaves, when due, as its code with the scale above it (R77, R125). -/
def Claims.BlockQuantiserBuffersAndSends : Prop :=
  ∀ (s : State) (cx : Cx), CellReady s cx → cx.bound 0 = true → cx.m.modF 5 1 = 1 →
    let m := cx.m
    let y := cx.x.rt
    (∀ k x, cx.offers 0 k markKinds hdrQnt → k.kind = .val → k.void = false → y.qbuf = [] →
      cx.fmtOf 0 (m.modF 0 5) ≠ handHdr → sourceValue cx (cx.fmtOf 0 (m.modF 0 5)) k = some x →
      let item : QItem := ⟨k, hdrFmt (cx.fmtOf 0 (m.modF 0 5)), none, cx.t⟩
      exec (.qnt m) s = .next (commit cx
        { takes := [0]
          upd := fun y => if y.phase + 1 = 32 then { y with qbuf := closeBlock cx [item] cx.t, phase := 0 }
                          else { y with qbuf := [item], phase := y.phase + 1 } })) ∧
    (∀ q rest e x, y.qbuf = q :: rest → cx.head 0 = none → q.tok.kind = .val → q.tok.void = false → q.e = some e →
      q.due ≤ cx.t → sourceValue cx (bufHdr q.fmt) q.tok = some x → x.isNaN = false → m.rmNat < 4 → m.modF 14 1 = 0 →
      m.modF 15 1 = 0 →
      let r := deliver m.tyNat (rmodeOf m.rmNat) (scaleF x (254 - e))
      let v := BitVec.ofNat 64 (r.bits + e * 256)
      cx.room cx.x.cfg.dataOuts = true →
      exec (.qnt m) s = .next (commit cx
        { sends := cx.toAll (.plain .val v), val := some v, rdst := m.rdstNat, rdstVal := v, flags := r.flags,
          upd := fun y => let z := Claims.converts cx y; { z with qbuf := z.qbuf.tail } }))

end Sys2Proof.Machine

/-- QNT with SCALE = 0, and CVT and QNT under DITH and NSH, without residue ports: each element leaves in its firing cycle, rounded
once, dithered by its position, or shaped by the residue of its row (R73, R75, R76, R121 to R125). Dithering beyond the largest
number is the model's choice (log 23). QNT with SCALE = 1: a VAL enters the buffer; the element that fills a block of 32 closes it
with the block's scale; and the oldest element of a closed block leaves, when due, as its code with the scale above it (R77, R125).
-/
def Obligations.QuantisersConvertAndBuffer : Prop := Sys2Proof.Machine.Claims.QuantisingFormsConvertEachElement ∧ Sys2Proof.Machine.Claims.BlockQuantiserBuffersAndSends

namespace Sys2Proof.Machine

/-- CBLOAD writes entry j of codebook CB with the payload's low 16 bits, seen from the next cycle on; the sixteenth VAL sends a CTL
with payload CB; a void VAL writes nothing; EOR and HDR restart j (R128). HDRSET sends c0 as an HDR in a cycle of its own before
the first token it forwards after a start, an EOT or ROWS EORs, forwards the others unchanged and drops HDRs (R129). -/
def Claims.CodebookLoadsAndHeadersInPlace : Prop :=
  ∀ (s : State) (cx : Cx) (k : Token), CellReady s cx →
    let m := cx.m
    let y := cx.x.rt
    (cx.offers 0 k [.val, .eor, .eot, .hdr] (hdrOnly 11) →
      let cb := m.modF 0 4
      (k.kind = .val → exec (.cbload m) s = .next (commit cx
        { takes := [0]
          sends := if y.phase = 15 then cx.toAll (.plain .ctl (BitVec.ofNat 64 cb)) else []
          upd := fun y => { y with phase := (cx.x.rt.phase + 1) % 16 }
          after := fun s => if k.void then s else s.updDie cx.r.die fun d =>
            { d with bookDue := d.bookDue ++ [((cx.blk, cb, cx.x.rt.phase), k.pay.setWidth 16)] } })) ∧
      (k.kind = .eor ∨ k.kind = .hdr → exec (.cbload m) s = .next (commit cx { takes := [0], upd := fun y => { y with phase := 0 } })) ∧
      (k.kind = .eot → exec (.cbload m) s = .next (commit cx { takes := [0] }))) ∧
    (cx.offers 0 k markKinds hdrMove →
      (k.kind = .hdr → exec (.hdrset m) s = .next (commit cx { takes := [0] })) ∧
      (k.kind ≠ .hdr → k.kind ≠ .eot → y.begun = false → exec (.hdrset m) s = .next (commit cx
        { sends := cx.toAll (.plain .hdr (cx.x.cfg.const 0)), upd := fun y => { y with begun := true, phase := 0 } })) ∧
      (k.kind = .eot → exec (.hdrset m) s = .next (commit cx
        { takes := [0], sends := cx.toAll k, upd := fun y => { y with begun := false } })) ∧
      (k.kind = .val → k.void = false → y.begun = true → exec (.hdrset m) s = .next (commit cx
        { takes := [0], sends := cx.toAll k, val := some k.pay })) ∧
      (k.kind = .eor → y.begun = true → exec (.hdrset m) s = .next (commit cx
        { takes := [0], sends := cx.toAll k
          upd := fun y => if y.phase = m.modF 0 12 then { y with begun := false, phase := 0 } else { y with phase := y.phase + 1 } })))

end Sys2Proof.Machine

/-- CVT under RM 0 to 3 delivers the converted value (R121). DQNT delivers the exact decoded value of a scaled or codebook element,
rounded once, and refuses a VAL before its first HDR (R127). CBLOAD writes entry j of codebook CB with the payload's low 16 bits,
seen from the next cycle on; the sixteenth VAL sends a CTL with payload CB; a void VAL writes nothing; EOR and HDR restart j (R128).
HDRSET sends c0 as an HDR in a cycle of its own before the first token it forwards after a start, an EOT or ROWS EORs, forwards the
others unchanged and drops HDRs (R129). -/
def Obligations.ConversionsAndCodebooks : Prop := Sys2Proof.Machine.Claims.CvtAndDqntDeliverConvertedValues ∧ Sys2Proof.Machine.Claims.CodebookLoadsAndHeadersInPlace

namespace Sys2Proof.Machine

/-! Stream control and reductions. -/

/-- The token a stream-control form forwards for a token it takes: a VAL without its hidden part, a marker as R107 has it. -/
def Claims.forwarded (k : Token) : Token := if k.kind = .val then bareVal k else markerOf k k.pay

/-- The firing that takes the heads of ports ps and sends the token k on every destination. -/
def Claims.move (cx : Cx) (ps : List Nat) (k : Token) (upd : CellRt → CellRt) : State :=
  commit cx { takes := ps, sends := cx.toAll k, val := if k.kind == .val && !k.void then some k.pay else none, upd := upd }

/-- STEER sends a VAL on the one destination that its CTL selects, and a marker on every destination without a CTL (R134). GATE
takes a CTL with every token, or with FILTER = 1 with a VAL only, whose fate its bit 0 decides: sent, or dropped, or sent as a
void VAL (R134). DUP sends every token unchanged (R141). -/
def Claims.SteerGateAndDupMoveTokens : Prop :=
  ∀ (s : State) (cx : Cx) (k c : Token), CellReady s cx →
    let m := cx.m
    let out := Claims.forwarded k
    let moves (i : Instr) (ps : List Nat) (x : Token) : Prop := exec i s = .next (Claims.move cx ps x id)
    (cx.offers 0 k markKinds hdrMove → refusesCtl cx 1 = false →
      (k.kind ≠ .val → moves (.steer m) [0] out ∧ (m.modF 0 1 = 1 → moves (.gate m) [0] out)) ∧
      (cx.head 1 = some c →
        (k.kind = .val → c.pay.toNat % 4 ∈ cx.x.cfg.dataOuts → exec (.steer m) s = .next (commit cx
          { takes := [0, 1], sends := [(c.pay.toNat % 4, bareVal k)], val := if k.void then none else some k.pay })) ∧
        (k.kind = .val → c.pay.toNat % 4 ∉ cx.x.cfg.dataOuts → exec (.steer m) s = .next (rejectAt s cx.r cx.c 1)) ∧
        (m.modF 0 1 = 0 → moves (.gate m) [0, 1] out) ∧
        (m.modF 0 1 = 1 → k.kind = .val →
          (c.pay.getLsbD 0 = true → moves (.gate m) [0, 1] out) ∧
          (c.pay.getLsbD 0 = false → m.modF 1 1 = 1 → moves (.gate m) [0, 1] .voidVal) ∧
          (c.pay.getLsbD 0 = false → m.modF 1 1 = 0 → exec (.gate m) s = .next (commit cx { takes := [0, 1] }))))) ∧
    (cx.offers 0 k [.val, .eor, .eot, .hdr, .ctl, .swp, .rsd] (fun h => hdrMove h || h == handHdr) → moves (.dup m) [0] k)

/-- MERGE sends the VAL at the input its CTL selects, and one marker once every data input heads one marker of a kind; AMERGE
sends the VAL of its lowest input that heads one, and markers as MERGE does (R135, R136). -/
def Claims.MergesSendSelectedAndArrivingValues : Prop :=
  ∀ (s : State) (cx : Cx) (k c : Token), CellReady s cx →
    let m := cx.m
    let merged := dataIns cx 1
    let any := dataIns cx 0
    let clear (ps : List Nat) : Prop := ∀ p ∈ ps, refusesData cx p = false
    (clear merged → refusesCtl cx 0 = false → merged ≠ [] →
      (oneMarker cx merged = none → cx.head 0 = some c → c.pay.toNat % 4 ∈ merged → cx.head (c.pay.toNat % 4) = some k →
        k.kind = .val → cx.x.rt.outCnt < runBound cx.orderOut0 →
        exec (.merge m) s = .next (Claims.move cx [0, c.pay.toNat % 4] (bareVal k) fun y => { y with outCnt := y.outCnt + 1 })) ∧
      (oneMarker cx merged = some k → k.kind ≠ .eor → k.kind ≠ .eot →
        exec (.merge m) s = .next (Claims.move cx merged (markerOf k k.pay) id)) ∧
      (oneMarker cx merged = some k → k.kind = .eot →
        exec (.merge m) s = .next (Claims.move cx merged (markerOf k k.pay) fun y => { y with outCnt := 0 })) ∧
      (∀ o, oneMarker cx merged = some k → k.kind = .eor → cx.orderOut0 = some o →
        (o.ragged = true ∨ o.runLen ≤ cx.x.rt.outCnt →
          exec (.merge m) s = .next (Claims.move cx merged (markerOf k k.pay) fun y => { y with outCnt := 0 })) ∧
        (o.ragged = false → cx.x.rt.outCnt < o.runLen → exec (.merge m) s = .next (rejectAt s cx.r cx.c 0)))) ∧
    (clear any →
      (oneMarker cx any = some k → exec (.amerge m) s = .next (Claims.move cx any (markerOf k k.pay) id)) ∧
      (∀ p ∈ any, oneMarker cx any = none → cx.head p = some k → k.kind = .val →
        (∀ q ∈ any, q < p → ∀ x, cx.head q = some x → x.kind ≠ .val) →
        exec (.amerge m) s = .next (Claims.move cx [p] (bareVal k) id)))

end Sys2Proof.Machine

/-- STEER sends a VAL on the one destination that its CTL selects, and a marker on every destination without a CTL (R134). GATE
takes a CTL with every token, or with FILTER = 1 with a VAL only, whose fate its bit 0 decides: sent, or dropped, or sent as a void
VAL (R134). DUP sends every token unchanged (R141). MERGE sends the VAL at the input its CTL selects, and one marker once every data
input heads one marker of a kind; AMERGE sends the VAL of its lowest input that heads one, and markers as MERGE does (R135, R136).
-/
def Obligations.RoutingFormsMoveTokens : Prop := Sys2Proof.Machine.Claims.SteerGateAndDupMoveTokens ∧ Sys2Proof.Machine.Claims.MergesSendSelectedAndArrivingValues

namespace Sys2Proof.Machine

/-- The remarking forms of in0 that send a VAL of it or drop it. -/
def Claims.sends (m : Mods) (i : Instr) (n : Nat) (k : Token) : Option Bool :=
  match i with
  | .drop m' => if m' = m then some (decide (m.modF 0 16 ≤ n)) else none
  | .take m' => if m' = m then some (decide (n < m.modF 0 16)) else none
  | .mark m' => if m' = m then some true else none
  | .strip m' => if m' = m then some (!k.void) else none
  | .voidOp m' => if m' = m then some true else none
  | _ => none

/-- The EOR that R42 places in the result order is owed after its element (R131). -/
def Claims.countsOut (cx : Cx) (y : CellRt) : CellRt := countOut cx y

/-- DROP, TAKE, MARK, STRIP and VOID send the VAL at position n of its run or drop it: DROP those before its count, TAKE those after
it, STRIP the void ones, the others none. Each VAL advances the position, and markers go where the result order has them; a VAL or
an EOR where the input order has none is turned away (R41, R42, R131, R138, R140). What is turned away is the model's reading (log 22). -/
def Claims.RemarkingFormsSendOrDropEachElement : Prop :=
  ∀ (s : State) (cx : Cx) (k : Token) (i : Instr) (sent : Bool), CellReady s cx →
    let m := cx.m
    let y := cx.x.rt
    let o := inOrder cx
    Claims.sends m i y.runPos k = some sent → cx.offers 0 k markKinds hdrMove →
    (k.kind = .val → y.runPos < o.runLen → y.runIdx < o.runs →
      exec i s = .next (if sent then Claims.move cx [0] (bareVal k) fun y =>
          let z := Claims.countsOut cx y; { z with runPos := z.runPos + 1, phase := 0 }
        else commit cx { takes := [0], upd := fun y => { y with runPos := y.runPos + 1 } })) ∧
    (k.kind = .val → o.runLen ≤ y.runPos ∨ o.runs ≤ y.runIdx → exec i s = .next (rejectAt s cx.r cx.c 0)) ∧
    (k.kind = .eor → y.runIdx < o.runs → o.runLen ≤ y.runPos ∨ (o.ragged = true ∧ i ≠ .voidOp m) →
      exec i s = .next (commit cx { takes := [0], upd := closeIn cx })) ∧
    (k.kind = .eor → o.runs ≤ y.runIdx ∨ (y.runPos < o.runLen ∧ o.ragged = false) → exec i s = .next (rejectAt s cx.r cx.c 0)) ∧
    (k.kind = .eor → y.runPos < o.runLen → y.runIdx < o.runs → o.ragged = true → i = .voidOp m → exec i s = .next (commit cx
      { sends := cx.toAll .voidVal, upd := fun y => let z := Claims.countsOut cx y; { z with runPos := z.runPos + 1 } })) ∧
    (k.kind = .hdr ∨ k.kind = .ctl ∨ k.kind = .swp → exec i s = .next (Claims.move cx [0] (markerOf k k.pay) id)) ∧
    (k.kind = .eot → exec i s = .next (Claims.move cx [0] (markerOf k k.pay) fun y =>
      { y with runPos := 0, runIdx := 0, outCnt := 0, phase := 0 }))

/-- REPEAT sends its VAL as often as the appended level is long, one copy a cycle, and takes it with the last (R138). ZIP sends in0's
VAL, then in1's and so on, one a cycle (R139). SPLIT sends the element at position i on out i alone (R139). -/
def Claims.RepeatZipAndSplitElements : Prop :=
  ∀ (s : State) (cx : Cx) (k : Token), CellReady s cx →
    let m := cx.m
    let y := cx.x.rt
    let o := inOrder cx
    k.kind = .val → y.runPos < o.runLen → y.runIdx < o.runs →
    (cx.offers 0 k markKinds hdrMove →
      (y.phase + 1 < (outOrder cx).runLen → exec (.repeatOp m) s = .next (Claims.move cx [] (bareVal k) fun y =>
        let z := Claims.countsOut cx y; { z with phase := z.phase + 1 })) ∧
      ((outOrder cx).runLen ≤ y.phase + 1 → exec (.repeatOp m) s = .next (Claims.move cx [0] (bareVal k) fun y =>
        let z := Claims.countsOut cx y; { z with runPos := z.runPos + 1, phase := 0 })) ∧
      exec (.split m) s = .next (commit cx
        { takes := [0]
          sends := if y.runPos ∈ cx.x.cfg.dataOuts then [(y.runPos, bareVal k)] else []
          val := if k.void then none else some k.pay
          upd := fun z =>
            let z := if y.runPos + 1 = o.runLen then Claims.countsOut cx z else z
            { z with runPos := z.runPos + 1 } })) ∧
    (∀ ps ks, dataIns cx 0 = ps → 
      (∀ i p, ps[i]? = some p → refusesData cx p = false ∧ zipWrong cx o p (if i < y.phase then 1 else 0) = false) →
      cx.heads (ps.drop y.phase) = some (k :: ks) →
      (y.phase = 0 → ∀ x ∈ ks, x.kind = .val) → y.phase < ps.length →
      exec (.zip m) s = .next (Claims.move cx [ps.getD y.phase 0] (bareVal k) fun z =>
        let z := Claims.countsOut cx z
        if y.phase + 1 = ps.length then { z with phase := 0, runPos := z.runPos + 1 } else { z with phase := y.phase + 1 }))

end Sys2Proof.Machine

/-- DROP, TAKE, MARK, STRIP and VOID send the VAL at position n of its run or drop it: DROP those before its count, TAKE those after
it, STRIP the void ones, the others none. Each VAL advances the position, and markers go where the result order has them; a VAL or
an EOR where the input order has none is turned away (R41, R42, R131, R138, R140). What is turned away is the model's reading (log
22). REPEAT sends its VAL as often as the appended level is long, one copy a cycle, and takes it with the last (R138). ZIP sends
in0's VAL, then in1's and so on, one a cycle (R139). SPLIT sends the element at position i on out i alone (R139). -/
def Obligations.StreamShapingForms : Prop := Sys2Proof.Machine.Claims.RemarkingFormsSendOrDropEachElement ∧ Sys2Proof.Machine.Claims.RepeatZipAndSplitElements

namespace Sys2Proof.Machine

/-- A result has left: where it completes a run of the result order, an EOR is owed for the next cycle, and the run starts anew
(R14). -/
def Claims.closed (cx : Cx) (y : CellRt) : CellRt :=
  let z := if (redOrder cx).runLen ≤ y.outCnt + 1 then { y with outCnt := 0, owed := y.owed ++ [(cx.outMask, .plain .eor 0)] }
           else { y with outCnt := y.outCnt + 1 }
  { z with begun := false, runPos := 0 }

end Sys2Proof.Machine

/-- RED folds each element of a run of in0 into the running value, from the identity of OP, and at the run's EOR sends what it
holds; SCAN sends after each run the value over every run so far, until the result order's run is full; a void element changes
nothing (R14, R142, R143). An EOT leaves through both as an EOT between runs. With LANE = 1 RED combines the values at in0 and
in1, in0 on the left, and forwards in0 where in1 is unbound. -/
def Obligations.ReductionsFoldRunsFromTheIdentity : Prop :=
  ∀ (s : State) (cx : Cx) (k : Token), CellReady s cx → cx.rdstFree →
    let m := cx.m
    let y := cx.x.rt
    let ident := redIdentity (m.modF 0 4) m.tyNat
    let now := if y.begun then y.acc else ident
    let two := [Instr.red m, Instr.scan m]
    (cx.offers 0 k markKinds (hdrRed m) → m.modF 4 1 = 0 →
      (k.kind = .val → k.void = false → ∀ i ∈ two,
        let r := redStep cx now ⟨k.pay, 0, true⟩
        exec i s = .next (commit cx
          { takes := [0], flags := r.2, upd := fun y => { y with acc := r.1, begun := true, runPos := y.runPos + 1 } })) ∧
      (k.kind = .val → k.void = true → ∀ i ∈ two,
        exec i s = .next (commit cx { takes := [0], upd := fun y => { y with runPos := y.runPos + 1 } })) ∧
      (k.kind = .eor →
        exec (.red m) s = .next (commit cx
          { takes := [0], sends := cx.toAll (.plain .val now), val := some now, rdst := m.rdstNat, rdstVal := now,
            upd := Claims.closed cx }) ∧
        let before := if y.phase = 1 then y.acc2 else ident
        let v := redStep cx before ⟨now, 0, false⟩
        exec (.scan m) s = .next (commit cx
          { takes := [0], sends := cx.toAll (.plain .val v.1), val := some v.1, rdst := m.rdstNat, rdstVal := v.1, flags := v.2,
            upd := fun z =>
              { Claims.closed cx z with acc2 := v.1, phase := if (redOrder cx).runLen ≤ z.outCnt + 1 then 0 else 1 } })) ∧
      (k.kind = .eot → y.runPos = 0 → ∀ i ∈ two, exec i s = .next (commit cx
        { takes := [0], sends := cx.toAll (.plain .eot 0), upd := fun y => { y with outCnt := 0, phase := 0 } }))) ∧
    (m.modF 4 1 = 1 → cx.bound 1 = false → cx.offers 0 k markKinds (hdrRed m) → k.kind = .val → k.void = false →
      exec (.red m) s = .next (commit cx
        { takes := [0], sends := cx.toAll k, val := some k.pay, rdst := m.rdstNat, rdstVal := k.pay })) ∧
    (∀ k', m.modF 4 1 = 1 → cx.bound 1 = true → cx.offers 0 k markKinds (hdrRed m) → cx.offers 1 k' markKinds (hdrRed m) →
      k.kind = .val → k'.kind = .val → k.void = false → k'.void = false →
      let op := m.modF 0 4
      let f := redFloat op m.tyNat (rmodeOf m.rmNat) (cx.fArg m.tyNat ⟨k.pay, 0, true⟩) (cx.fArg m.tyNat ⟨k'.pay, 1, true⟩)
      let v : W64 × FlagBits := if op < 8 then (redInt op m.tyNat k.pay k'.pay, 0) else (BitVec.ofNat 64 f.bits, f.flags)
      exec (.red m) s = .next (commit cx
        { takes := [0, 1], sends := cx.toAll (.plain .val v.1), val := some v.1, rdst := m.rdstNat, rdstVal := v.1,
          flags := v.2 }))

namespace Sys2Proof.Machine

/-! Memory forms of cells. -/

/-- The element-wise memory form on ports ps has its operands (R179, R180): every port is bound, every link's head is a non-void VAL
that the port accepts, and the first access of the tensor need not wait. -/
structure MemReady (cx : Cx) (ps : List Nat) (os : List Operand) : Prop where
  bound : ∀ p ∈ ps, cx.bound p = true
  operands : cx.operands ps = some os
  linked : ps.filter cx.isLink ≠ []
  values : ∀ p ∈ ps, cx.isLink p = true → ∃ k, cx.head p = some k ∧ k.kind = .val ∧ k.void = false
  taken : ∀ p ∈ ps, cx.isLink p = true → cx.refuses p markKinds (fun _ => true) = false
  begun : cx.bound 3 = false ∨ cx.x.rt.after = true

/-- A memory form that sends one request for each element: when it is that form, its ports, its k register, the rights its
request needs, its bytes, whether it answers, and the request's own fields. -/
structure RequestForm where
  op : Mods → Instr
  fits : Mods → Prop
  ports : List Nat
  ks : Mods → Nat
  need : Nat
  acc : Nat
  kind : ReqKind
  size : Mods → Nat
  answers : Bool
  fill : Mods → List Operand → Req → Req

/-- ATOM with a FORM (R189). -/
def Claims.atom (op : Mods → Instr) (form : Nat) : RequestForm :=
  ⟨op, fun m => m.modF 0 4 = form, if form = 7 then [0, 1, 2] else [0, 1], fun m => m.modF 4 2, rAtomic, 2, .atom,
    fun m => tyBytes m.tyNat, true, fun m os q =>
      { q with form := form, data := opPay os 1, data2 := opPay os 2, acq := m.modF 6 1 == 1, rel := m.modF 7 1 == 1,
               scope := m.modF 8 3, mask := 255 }⟩

/-- The forms whose element is one request (R185, R189, R190, R192, R196). -/
def requestForms : List RequestForm :=
  [ Claims.atom .atomAdd 0, Claims.atom .atomMin 1, Claims.atom .atomMax 2, Claims.atom .atomAnd 3, Claims.atom .atomOr 4,
    Claims.atom .atomXor 5, Claims.atom .atomXchg 6, Claims.atom .atomCas 7,
    ⟨.ldacq, fun _ => True, [0], fun m => m.modF 0 2, rRead, 3, .ldacq, fun m => tyBytes m.tyNat, true,
      fun m _ q => { q with acq := true, scope := m.modF 2 3 }⟩,
    ⟨.strel, fun _ => True, [0, 1], fun m => m.modF 0 2, rWrite, 3, .strel, fun m => tyBytes m.tyNat, false,
      fun m os q => { q with rel := true, data := opPay os 1, scope := m.modF 2 3, mask := m.modF 5 8 }⟩,
    ⟨.monw, fun _ => True, [0], fun m => m.modF 0 2, rRead, 3, .monw, fun m => tyBytes m.tyNat, true,
      fun m _ q => { q with scope := m.modF 2 3 }⟩,
    ⟨.stg, fun m => m.modF 2 1 = 0, [0, 1], fun m => m.modF 0 2, rWrite, 1, .store, fun m => tyBytes m.tyNat, false,
      fun _ os q => { q with data := opPay os 1 }⟩,
    ⟨.futnew, fun _ => True, [0], fun m => m.modF 0 2, rFuture, 3, .futnew, fun _ => 8, true, fun _ _ q => q⟩,
    ⟨.futreg, fun _ => True, [0, 1], fun m => m.modF 0 2, rFuture, 3, .futreg, fun _ => 8, true,
      fun _ os q => { q with data := opPay os 1 }⟩,
    ⟨.futres, fun _ => True, [0, 1], fun m => m.modF 0 2, rFuture, 3, .futres, fun _ => 8, true,
      fun m os q => { q with data := opPay os 1, rel := true, mask := 255, scope := m.modF 2 3, form := m.modF 5 1 }⟩,
    ⟨.futget, fun _ => True, [0], fun m => m.modF 0 2, rFuture, 3, .futget, fun _ => 8, true,
      fun m _ q => { q with acq := true, scope := m.modF 2 3 }⟩ ]

/-- The byte that index i names through k register n: cursor + i z (R180). -/
def Claims.byteAt (k : Cap) (i : W64) (z : Nat) : Int := (k.cursor : Int) + i.toInt * z

/-- Capability k lets a request that needs rights have the z bytes from b (R158); synchronising accesses are aligned (R180). -/
structure Cap.lets (k : Cap) (need : Nat) (b : Int) (z align : Nat) : Prop where
  tag : k.tag = true
  rights : k.rights &&& need = need
  low : (k.base : Int) ≤ b
  high : b + z ≤ k.top
  aligned : b % (align : Int) = 0

/-- Each element of an atomic, synchronising, future or scatter form is one request at the byte of its index, numbered next, while its memory tile has one free (R1); a form
with a result keeps the place of its result, and the register it names is pending until the return (R29, R158, R180, R181, R185,
R189, R190, R192, R196). -/
def Claims.MemoryFormsIssueOneRequestPerElement : Prop :=
  ∀ e ∈ requestForms, ∀ (s : State) (cx : Cx) (os : List Operand), CellReady s cx → MemReady cx e.ports os → e.fits cx.m →
    let m := cx.m
    let takes := e.ports.filter cx.isLink
    let z := e.size m
    let k := cx.kreg (e.ks m) takes
    let b := Claims.byteAt k (opPay os 0) z
    cx.kPending (e.ks m) = false → (e.answers = true → cx.rdstFree) → tileRoom cx 1 = true →
    k.lets e.need b z (if e.kind = .store then 1 else z) →
    (e.kind = .futreg ∨ e.kind = .futres → futOffsetOk k (opPay os 1).toNat = true) →
    let rd := if e.answers then m.rdstNat else 0
    let a : Access := { cx.access 0 e.acc (cx.x.cfg.inIdx 0) k b e.need (opPay os 0).toNat with pos := cx.x.rt.runPos }
    exec (e.op m) s = .next (commit cx
      { takes := takes
        upd := fun y => { y with
          results := if e.answers then y.results ++ [cx.awaits (.plain .val 0)] else y.results
          runPos := y.runPos + 1, pending := if rd = 0 then y.pending else y.pending ++ [rd] }
        after := fun s => issueReq s (e.fill m os { cx.request e.kind k b.toNat z a with rdst := rd }) })

/-- A request that fails R158 does not issue: a capability without a tag gives CAP_TAG, without the rights CAP_RIGHTS, and bytes
outside its bounds CAP_BOUNDS, in this order; the region freezes and the record names the first faulting byte. A scout's
delivers a void VAL where it answers (R35, R158). -/
def Claims.MemoryFormsAreCheckedInOrder : Prop :=
  ∀ e ∈ requestForms, ∀ (s : State) (cx : Cx) (os : List Operand), CellReady s cx → MemReady cx e.ports os → e.fits cx.m →
    e.kind ≠ .futreg → e.kind ≠ .futres →
    let m := cx.m
    let takes := e.ports.filter cx.isLink
    let z := e.size m
    let k := cx.kreg (e.ks m) takes
    let b := Claims.byteAt k (opPay os 0) z
    cx.kPending (e.ks m) = false → (e.answers = true → cx.rdstFree) → tileRoom cx 1 = true →
    let fails (code : Nat) (o : Int) : Prop :=
      (cx.x.cfg.scout = false → exec (e.op m) s = .next (freeze s cx.r code srcCell
        ({ cx.access 0 e.acc (cx.x.cfg.inIdx 0) k b e.need (opPay os 0).toNat with
           pos := cx.x.rt.runPos, ofs := (o % (2 ^ 44 : Nat)).toNat } : Access).words)) ∧
      (cx.x.cfg.scout = true → exec (e.op m) s = .next (commit cx
        { takes := takes
          upd := fun y => { y with
            results := if e.answers then y.results ++ [cx.ready .voidVal cx.t] else y.results, runPos := y.runPos + 1 } }))
    (k.tag = false → fails fcTag b) ∧
    (k.tag = true → k.rights &&& e.need ≠ e.need → fails fcRights b) ∧
    (k.tag = true → k.rights &&& e.need = e.need → b < k.base → fails fcBounds b) ∧
    (k.tag = true → k.rights &&& e.need = e.need → (k.base : Int) ≤ b → b < k.top → (k.top : Int) < b + z → fails fcBounds k.top)

end Sys2Proof.Machine

/-- Each element of an atomic, synchronising, future or scatter form is one request at the byte of its index, numbered next, while
its memory tile has one free (R1); a form with a result keeps the place of its result, and the register it names is pending until
the return (R29, R158, R180, R181, R185, R189, R190, R192, R196). A request that fails R158 does not issue: a capability without a
tag gives CAP_TAG, without the rights CAP_RIGHTS, and bytes outside its bounds CAP_BOUNDS, in this order; the region freezes and the
record names the first faulting byte. A scout's delivers a void VAL where it answers (R35, R158). -/
def Obligations.MemoryFormsCheckAndIssue : Prop := Sys2Proof.Machine.Claims.MemoryFormsIssueOneRequestPerElement ∧ Sys2Proof.Machine.Claims.MemoryFormsAreCheckedInOrder

/-- LDS starts a pass on a CTL at its base once the pass before is wholly sent; LDG takes an
index while none waits; STS stores each VAL at its position's address and takes a base CTL first where in1 is bound; STG with a
capability stores it; PREF issues a prefetch (R159, R183 to R186). -/
def Obligations.StreamMemoryFormsTakeTheirElements : Prop :=
  ∀ (s : State) (cx : Cx) (k : Token), CellReady s cx → (cx.bound 3 = false ∨ cx.x.rt.after = true) →
    let m := cx.m
    let y := cx.x.rt
    let o := (cx.orderIn 0).getD OMap.unit
    let ks := m.modF 0 2
    (cx.head 0 = some k → cx.refuses 0 [.ctl] (fun _ => true) = false → y.gen = none → y.results = [] → y.eotAt ≤ cx.t →
      exec (.lds m) s = .next (commit cx
        { takes := [0]
          upd := fun y => { y with
            gen := some ⟨k.pay.toInt, 0⟩, after := true
            results := if m.modF 2 1 = 1 then y.results ++ [cx.ready (.plain .hdr (plainHdr m.tyNat)) cx.t] else y.results } })) ∧
    (cx.offers 0 k markKinds (hdrOnly m.tyNat) → k.kind = .val → y.runPos < o.runLen → y.runIdx < o.runs →
      (k.void = false → (cx.bound 1 = false ∨ (cx.refuses 1 [.ctl] (fun _ => true) = false ∧ y.base.isSome = true)) →
        cx.kPending ks = false → tileRoom cx 1 = true →
        let kc := cx.kreg ks [0]
        let n := y.runIdx * o.runLen + y.runPos
        let base := y.base.getD 0
        let b := (kc.cursor : Int) + affineIndex cx o (cx.x.cfg.lin 0) n base * (tyBytes m.tyNat : Int)
        kc.lets rWrite b (tyBytes m.tyNat) 1 →
        exec (.sts m) s = .next (commit cx
          { takes := [0]
            upd := fun y => { y with runPos := y.runPos + 1 }
            after := fun s => issueReq s { cx.request .store kc b.toNat (tyBytes m.tyNat)
              (affineAccess cx o 1 (cx.x.cfg.inIdx 0) rWrite kc b base n) with data := k.pay } })) ∧
      (∀ c, cx.bound 1 = true → y.base = none → cx.head 1 = some c → cx.refuses 1 [.ctl] (fun _ => true) = false →
        exec (.sts m) s = .next (commit cx { takes := [1], upd := fun y => { y with base := some c.pay.toInt } }))) ∧
    (∀ os, MemReady cx [0] os → cx.rdstFree → y.gen = none → exec (.ldg m) s = .next (commit cx
      { takes := [0].filter cx.isLink, upd := fun y => { y with gen := some ⟨(opPay os 0).toInt, 0⟩ } })) ∧
    (∀ os, MemReady cx [0] os → m.modF 2 1 = 1 → cx.kPending ks = false → cx.kPending (m.modF 3 2) = false → tileRoom cx 1 = true →
      let takes := [0].filter cx.isLink
      let kc := cx.kreg ks takes
      let c := cx.kreg (m.modF 3 2) takes
      let b := Claims.byteAt kc (opPay os 0) 16
      kc.lets rWrite b 16 16 → (c.tag = true → c.rights &&& rShare ≠ 0) →
      exec (.stg m) s = .next (commit cx
        { takes := takes
          upd := fun y => { y with runPos := y.runPos + 1 }
          after := fun s => issueReq s { cx.request .capStore kc b.toNat 16
            { cx.access 0 5 (cx.x.cfg.inIdx 0) kc b rWrite (opPay os 0).toNat with pos := y.runPos } with capData := c } })) ∧
    (∀ os, MemReady cx [0] os → cx.kPending ks = false → tileRoom cx 1 = true →
      let takes := [0].filter cx.isLink
      let kc := cx.kreg ks takes
      let b := Claims.byteAt kc (opPay os 0) (tyBytes m.tyNat)
      kc.lets rRead b (tyBytes m.tyNat) 1 →
      exec (.pref m) s = .next (commit cx
        { takes := takes
          upd := fun y => { y with runPos := y.runPos + 1 }
          after := fun s => issueReq s { cx.request .prefetch kc b.toNat (tyBytes m.tyNat) (cx.access 0 0 255 kc b rRead 0) with
            form := m.modF 2 1, data := BitVec.ofNat 64 (fieldNat (cx.x.cfg.const 0) 0 14) } }))

namespace Sys2Proof.Machine

/-- The byte of local memory that address a names: the cell's own with SPACE 0, else that of the cell of its block which a selects
(R31, R187). -/
def Claims.localAt (cx : Cx) (a : Nat) : Nat × Nat :=
  if cx.m.modF 0 1 = 1 then
    (cx.c / Config.cellsPerBlock * Config.cellsPerBlock + a / Config.localBytes, a % Config.localBytes)
  else (cx.c, a)

/-- LDL and LDFE read z bytes of local memory at an aligned address and deliver them two cycles later; STL and STFE write them. LDFE
fires on a full word and empties it, STFE on an empty word and fills it (R187, R188). -/
def Claims.LocalMemoryFormsReadAndWrite : Prop :=
  ∀ (s : State) (cx : Cx) (os : List Operand), CellReady s cx →
    let m := cx.m
    let z := tyBytes m.tyNat
    let a := (opPay os 0).toNat
    let c := (Claims.localAt cx a).1
    let o := (Claims.localAt cx a).2
    let word := (cx.r.cell c).rt
    a % z = 0 → a + z ≤ (if m.modF 0 1 = 1 then Config.scratchBytes else Config.localBytes) →
    heldByStore cx.r c o z = false →
    (MemReady cx [0] os → cx.rdstFree →
      let v := extendTy m.tyNat (leNat (memReadN word.lmem o z))
      let reads (f : CellRt → CellRt) : State := commit cx
        { takes := [0].filter cx.isLink, rdst := m.rdstNat, rdstVal := v
          upd := fun y => { y with results := y.results ++ [cx.ready (.plain .val v) (cx.t + 2)], runPos := y.runPos + 1 }
          after := fun s => s.updRegion cx.r.die cx.r.rblk fun r => r.updRt c f }
      exec (.ldl m) s = .next (reads id) ∧
      (word.full.contains (o / 8) = true →
        exec (.ldfe m) s = .next (reads fun y => { y with full := y.full.filter (· != o / 8) })) ∧
      (word.full.contains (o / 8) = false → exec (.ldfe m) s = .next s)) ∧
    (MemReady cx [0, 1] os →
      let writes (f : CellRt → CellRt) : State := commit cx
        { takes := [0, 1].filter cx.isLink
          upd := fun y => { y with runPos := y.runPos + 1 }
          after := fun s => s.updRegion cx.r.die cx.r.rblk fun r => r.updRt c fun y =>
            f { y with lmem := memWriteN y.lmem o (natLe z (opPay os 1).toNat) } }
      exec (.stl m) s = .next (writes id) ∧
      (word.full.contains (o / 8) = false →
        exec (.stfe m) s = .next (writes fun y => { y with full := insNat (o / 8) y.full })) ∧
      (word.full.contains (o / 8) = true → exec (.stfe m) s = .next s))

/-- FENCE passes its token, a done token of its scope, once no store of its colours and scope waits and every destination has room, and
till then remembers where it stands; WAITW takes the
value of a MONW and waits on its monitor; a wake sends CTL 1 after a write to the granule, and CTL 0 where the monitor is gone
(R176, R191 to R193). When a store counts as accepted, and the CTL 0 of a lost monitor, are the model's (log 18, log 24). -/
def Claims.FencesAndWaitsHold : Prop :=
  ∀ (s : State) (cx : Cx) (k : Token), CellReady s cx → (cx.bound 3 = false ∨ cx.x.rt.after = true) →
    let m := cx.m
    let y := cx.x.rt
    let n := y.fence.getD s.module.nextReq
    (cx.offers 0 k markKinds hdrMove →
      ((∀ q ∈ s.reqs, q.die = cx.r.die → q.rblk = cx.r.rblk → q.id < n → (m.modF 5 8).testBit q.colour = true →
          (q.kind = .store ∧ q.form = 0) ∨ q.kind = .capStore ∨ q.kind = .strel ∨ q.kind = .atom →
          m.modF 2 3 = 0 ∨ (m.modF 2 3 = 1 ∧ q.accepted = true)) →
        k.kind ≠ .eot → k.kind ≠ .swp → cx.room cx.x.cfg.dataOuts = true →
        exec (.fence m) s = .next (commit cx
          { takes := [0], sends := cx.toAll { k with home := decide (2 ≤ m.modF 2 3) }, val := if k.kind == .val && !k.void then some k.pay else none,
            upd := fun y => { y with fence := none } })) ∧
      ((∃ q ∈ s.reqs, q.die = cx.r.die ∧ q.rblk = cx.r.rblk ∧ q.id < n ∧ (m.modF 5 8).testBit q.colour = true ∧
          ((q.kind = .store ∧ q.form = 0) ∨ q.kind = .capStore ∨ q.kind = .strel ∨ q.kind = .atom) ∧
          m.modF 2 3 ≠ 0 ∧ (m.modF 2 3 ≠ 1 ∨ q.accepted = false)) →
        exec (.fence m) s = .next (s.updRegion cx.r.die cx.r.rblk fun r => r.updRt cx.c fun y => { y with fence := some n })) ∧
      (y.waiting = none → k.kind = .val → ∀ w, k.hid = .mon w →
        exec (.waitw m) s = .next (commit cx { takes := [0], upd := fun y => { y with waiting := some w } }))) ∧
    (∀ w, y.waiting = some w → cx.m = cx.x.cfg.mods →
      let wakes (v : W64) (f : State → State) : State :=
        commit cx { sends := cx.toAll (.plain .ctl v), upd := fun y => { y with waiting := none }, after := f }
      (s.monitors.find? (·.num == w) = none → exec .monitorWake s = .next (wakes 0 id)) ∧
      (∀ mo, s.monitors.find? (·.num == w) = some mo → mo.woken = false → exec .monitorWake s = .next s) ∧
      (∀ mo, s.monitors.find? (·.num == w) = some mo → mo.woken = true → mo.scope < 2 → exec .monitorWake s = .next (wakes 1 fun s =>
        { s with monitors := s.monitors.filter (·.num != w) })) ∧
      (∀ mo, s.monitors.find? (·.num == w) = some mo → mo.woken = true → 2 ≤ mo.scope → exec .monitorWake s = .next (wakes 1 fun s =>
        invalidateL1 { s with monitors := s.monitors.filter (·.num != w) } cx.r)))

end Sys2Proof.Machine

/-- LDL and LDFE read z bytes of local memory at an aligned address and deliver them two cycles later; STL and STFE write them. LDFE
fires on a full word and empties it, STFE on an empty word and fills it (R187, R188). FENCE passes its token, a done token of its
scope, once no store of its colours and scope waits and every destination has room, and till then remembers where it stands; WAITW
takes the value of a MONW and waits on its monitor; a wake sends CTL 1 after a write to the granule, and CTL 0 where the monitor is
gone (R176, R191 to R193). When a store counts as accepted, and the CTL 0 of a lost monitor, are the model's (log 18, log 24). -/
def Obligations.LocalMemoryFencesAndWaits : Prop := Sys2Proof.Machine.Claims.LocalMemoryFormsReadAndWrite ∧ Sys2Proof.Machine.Claims.FencesAndWaitsHold

namespace Sys2Proof.Machine

/-! Requests at their memory tiles. -/

/-- The request in focus may be performed now: it waits, its issue lies in an earlier cycle, the stores that a release waits for are
complete, and its turn has come; it has nothing under way with other modules (R175, R176, R181, R315). -/
structure RequestReady (s : State) (q : Req) : Prop where
  found : s.req s.focus.id = some q
  queued : q.stage = .queued
  later : q.issued < s.now q.die
  released : releaseReady s q = true
  turn : turnReady s q = true
  alone : s.Alone

/-- The n bytes of the request lie in one granule of this module's memory, which can be read, from local address a up, as its
translation at the tile of its block says (R164, R309). -/
def Req.homeAt (s : State) (q : Req) (writes : Bool) (n a : Nat) : Prop :=
  0 < n ∧ q.ofs % 64 + n ≤ 64 ∧ a % 64 + n ≤ 64 ∧ a / 64 ∉ s.bad ∧
  ∃ pa, (translate s q.die (q.blk s) q.cap.oid q.ofs writes false).1 = .ok pa ∧ s.isLocal pa = true ∧ paLocal pa = a

/-- A plain store performed at home: its bytes stand in memory from a up, every other byte is as before, and its granule's tag is
the one that Table 11.9 gives; where the table gives RACE, no byte changes (R166, R173). Its tag check is that of its task. -/
def Claims.PlainStoresWriteTheirBytes : Prop :=
  ∀ (s : State) (q : Req) (a : Nat), s.memOk → RequestReady s q → q.kind = .store → q.homeAt s true q.size a →
    (q.scout = false → ∀ nt, tagCheck (s.racer (q.seq s)) (getTag s.accTags (a / 64)) true = some nt →
      ∃ t, exec .memoryTileRequest s = .next t ∧ getTag t.accTags (a / 64) = nt ∧
        t.req q.id = some { q with stage := .performed } ∧
        ∀ x, memRead t.mem x = if a ≤ x ∧ x < a + q.size then BitVec.ofNat 8 (q.data.toNat / 256 ^ (x - a)) else memRead s.mem x) ∧
    (q.scout = false → tagCheck (s.racer (q.seq s)) (getTag s.accTags (a / 64)) true = none →
      (∀ d, (s.die d).faults.fqdb.getLsbD 0 = false) →
      ∃ t, exec .memoryTileRequest s = .next t ∧ t.mem = s.mem)

/-- A plain load that misses the L1 of its tile takes the bytes of memory at home, extended as its TYPE says, and its granule's tag is
the one that Table 11.9 gives; one that hits takes the line's and makes no tag check. Neither changes memory (R62, R166, R172). Which
lines an L1 keeps is the model's choice (log 17). -/
def Claims.PlainLoadsReadTheirBytes : Prop :=
  ∀ (s : State) (q : Req) (a : Nat), RequestReady s q → q.kind = .load → q.homeAt s false q.size a →
    q.scout = false → (q.mode s).buf = [] → (q.die < s.dies.length) →
    let answers (nt : W32) (bs : List Byte) : Prop := ∃ t, exec .memoryTileRequest s = .next t ∧ t.mem = s.mem ∧
      getTag t.accTags (a / 64) = nt ∧
      t.req q.id = some { q with stage := .performed, value := extendTy q.ty (leNat bs) }
    ((s.die q.die).line (q.blk s) (a / 64) = none →
      ∀ nt, tagCheck (s.racer (q.seq s)) (getTag s.accTags (a / 64)) false = some nt → answers nt (memReadN s.mem a q.size)) ∧
    (∀ l, (s.die q.die).line (q.blk s) (a / 64) = some l →
      answers (getTag s.accTags (a / 64)) ((List.range q.size).map fun i => l.data.bytes.getD ((a + i) % 64) 0))

end Sys2Proof.Machine

/-- A plain store performed at home: its bytes stand in memory from a up, every other byte is as before, and its granule's tag is
the one that Table 11.9 gives; where the table gives RACE, no byte changes (R166, R173). Its tag check is that of its task. A plain
load that misses the L1 of its tile takes the bytes of memory at home, extended as its TYPE says, and its granule's tag is the one
that Table 11.9 gives; one that hits takes the line's and makes no tag check. Neither changes memory (R62, R166, R172). Which lines
an L1 keeps is the model's choice (log 17). -/
def Obligations.PlainAccessesMoveTheirBytes : Prop := Sys2Proof.Machine.Claims.PlainStoresWriteTheirBytes ∧ Sys2Proof.Machine.Claims.PlainLoadsReadTheirBytes

namespace Sys2Proof.Machine

/-- The number that ATOM leaves at its word, none where a CAS that compares unequal leaves it alone (R189). -/
def Claims.atomResult (q : Req) (old : W64) : Option Int :=
  let o := intOf q.ty old
  let x := intOf q.ty q.data
  let w := tyWidth q.ty
  match q.form with
  | 0 => some (o + x)
  | 1 => some (min o x)
  | 2 => some (max o x)
  | 3 => some (old &&& q.data).toNat
  | 4 => some (old ||| q.data).toNat
  | 5 => some (old ^^^ q.data).toNat
  | 6 => some q.data.toNat
  | _ => if old.toNat % 2 ^ w = q.data.toNat % 2 ^ w then some q.data2.toNat else none

end Sys2Proof.Machine

/-- An atomic or synchronising access performed at home returns the old value of its word; an ATOM leaves there its form's number
modulo 2^w and STREL its value, LDACQ leaves the word alone, and every other byte of memory is as before (R169, R189, R190). -/
def Obligations.SynchronisingAccessesReadAndWriteAtHome : Prop :=
  ∀ (s : State) (q : Req) (a : Nat), s.memOk → RequestReady s q → q.die < s.dies.length →
    let z := q.size
    let old := extendTy q.ty (leNat (memReadN s.mem a z))
    let done (v : Option Int) : Prop := ∃ t, exec .memoryTileRequest s = .next t ∧
      t.req q.id = some { q with stage := .performed, value := old } ∧
      ∀ x, memRead t.mem x =
        if a ≤ x ∧ x < a + z then
          match v with
          | some n => BitVec.ofNat 8 ((n % (2 ^ (8 * z) : Nat)).toNat / 256 ^ (x - a))
          | none => memRead s.mem x
        else memRead s.mem x
    z = tyBytes q.ty →
    (q.kind = .atom → q.ty ∈ [3, 4, 7, 8] → q.form ≤ 7 → q.homeAt s true z a → done (Claims.atomResult q old)) ∧
    (q.kind = .strel → q.homeAt s true z a → done (some q.data.toNat)) ∧
    (q.kind = .ldacq → q.homeAt s false z a → done none)

/-- The transitions of a future word (R196): FUTNEW empties it unless consumers are registered, FUTREG on a word without a value
puts its record at the head of the list and counts it, and faults where the list that CURSOR names leaves the capability, FUTRES without
consumers leaves its value and the state FULL, and FUTGET reads. Each returns the word as it was; FUTRES on a word that holds a value is the fault FUTURE_TWICE. -/
def Obligations.FutureFormsMakeTheirTransitions : Prop :=
  ∀ (s : State) (q : Req) (a : Nat), s.memOk → RequestReady s q → q.homeAt s true 8 a → q.die < s.dies.length → q.scout = false →
    let w := leNat (memReadN s.mem a 8)
    let st := futState w
    let word (t : State) : Nat := leNat (memReadN t.mem a 8)
    let answers (t : State) : Prop := exec .memoryTileRequest s = .next t ∧
      t.req q.id = some { q with stage := .performed, value := BitVec.ofNat 64 w }
    (q.kind = .futnew → ∃ t, answers t ∧ word t = (if st = 1 then w else 0)) ∧
    (q.kind = .futget → ∃ t, answers t ∧ t.mem = s.mem) ∧
    (q.kind = .futreg → st < 2 → ∀ b, q.data.toNat % 16 = 0 → q.data.toNat < 2 ^ 40 → Req.homeAt s { q with ofs := q.data.toNat } true 16 b →
      (st = 1 → futOffsetOk q.cap (futCursor w) = true) → a + 8 ≤ b ∨ b + 16 ≤ a → ∃ t, answers t ∧ word t = mkFuture 1 (futWait w + 1) q.data.toNat ∧
        leNat (memReadN t.mem b 8) = (if st = 1 then futCursor w else 0)) ∧
    (q.kind = .futreg → st = 1 → q.data.toNat % 16 = 0 → q.data.toNat < 2 ^ 40 →
      (∃ b, Req.homeAt s { q with ofs := q.data.toNat } true 16 b) → futOffsetOk q.cap (futCursor w) = false →
      ∃ t, exec .memoryTileRequest s = .next t ∧ ∀ r, s.region q.die q.rblk = some r → ∃ r', t.region q.die q.rblk = some r' ∧
        r'.frozen = .violation) ∧
    (q.kind = .futres → st = 0 → ∃ t, answers t ∧ word t = mkFuture (if q.form = 1 then 3 else 2) (futWait w) q.data.toNat) ∧
    (q.kind = .futres → 2 ≤ st → ∃ t, exec .memoryTileRequest s = .next t ∧ t.req q.id = none ∧
      ∀ r, s.region q.die q.rblk = some r → ∃ r', t.region q.die q.rblk = some r' ∧
        r'.cellTraps = r.cellTraps ++ [⟨q.cell, 0xFF00 + fcTwice, none⟩] ∧ (r'.cell q.cell).rt.stopped = true)

namespace Sys2Proof.Machine

/-- A return lands whole in one cycle: the results that wait for it take its value, the register it names takes it and is pending no
longer, and the request goes; a store is acknowledged; a done token that is due leaves on every done destination; a write to a
granule older than 2^22 numbers loses its tag in a sweep (R29, R172, R175, R181, R182). The moment of a sweep is the model's choice
(log 27). -/
def Claims.ReturnsAcknowledgementsAndSweeps : Prop :=
  (∀ (s : State) (q : Req) (r : Region), s.req s.focus.id = some q → q.stage = .performed → s.region q.die q.rblk = some r →
    (q.kind = .load ∨ q.kind = .atom) → q.void = false → (q.acq = false ∨ q.scope < 2) → (r.cell q.cell).rt.faultReq = none →
    ∃ t r', exec .landingBufferWrite s = .next t ∧ t.region q.die q.rblk = some r' ∧ t.reqs = s.reqs.filter (·.id != q.id) ∧
      t.mem = s.mem ∧
      let y := (r.cell q.cell).rt
      let z := (r'.cell q.cell).rt
      z.results = y.results.map (fun k => if k.req == q.id then { k with tok := { k.tok with pay := q.value }, ready := true } else k) ∧
      z.pending = (if q.rdst = 0 then y.pending else y.pending.erase q.rdst) ∧
      (q.rdst ≠ 0 → q.rdst < 9 → z.p = y.p.set (q.rdst - 1) q.value) ∧
      (32 ≤ q.rdst → z.g = y.g.set (q.rdst - 32) q.value)) ∧
  (∀ (s : State) (q : Req), s.req s.focus.id = some q → q.stage = .performed →
    (q.kind = .store ∨ q.kind = .capStore ∨ q.kind = .strel ∨ q.kind = .prefetch) →
    exec .storeAck s = .next ((s.updRegion q.die q.rblk fun r => r.actBy q.cell (s.now q.die)).dropReq q.id)) ∧
  (∀ (s : State) (r : Region) (n : Nat) (rest : List Nat), s.region s.focus.die s.focus.rblk = some r → r.live = true →
    let c := s.focus.cell
    let t := s.now s.focus.die
    let x := r.cell c
    x.rt.done = n :: rest → (∀ k ∈ x.rt.results, k.tok.kind ≠ .eot) →
    cellComplete s r.die r.rblk c n x.cfg.doneScope = true → (∀ m ∈ x.cfg.doneOuts, hasRoom s r c m t = true) →
    exec .doneToken s = .next (x.cfg.doneOuts.foldl (fun s m => sendTok s r.die r.rblk c m t (.doneTok x.cfg.doneScope))
      (s.updRegion r.die r.rblk fun r => (r.updRt c fun y => { y with done := rest }).actBy c t))) ∧
  (∀ s : State, ∃ t, exec .tagSweep s = .next t ∧ t.mem = s.mem ∧ t.regions = s.regions ∧
    ∀ g old, (g, old) ∈ s.accTags → s.accTags.Pairwise (fun x y => x.1 < y.1) →
      let age := (s.watermark + 2 ^ 24 - fieldNat old 8 24) % 2 ^ 24
      fieldNat (getTag t.accTags g) 0 2 = (if 2 ^ 22 ≤ age ∧ age ≤ 2 ^ 23 then tagSync else fieldNat old 0 2))

/-- A stream port issues the request of its next element when it may: LDS at the address of its position in the pass, LDG at its
index's; the result keeps its place, and LDG's index waits no more (R27, R183, R185). -/
def Claims.StreamPortsIssueTheirNextElement : Prop :=
  ∀ (s : State) (cx : Cx) (g : Gen), cxOf s s.focus.die s.focus.rblk s.focus.cell = some cx → cx.r.live = true →
    cx.x.rt.stopped = false → cx.x.rt.gen = some g → portMayIssue cx = true → cx.kPending (cx.m.modF 0 2) = false →
    cx.rdstFree →
    let m := cx.m
    let o := streamOrder cx
    let k := cx.x.rt.k.getD (m.modF 0 2) .none
    let outCell := cx.x.cfg.dataOuts.headD 0
    let n := g.next / (o.runLen + 1) * o.runLen + g.next % (o.runLen + 1)
    let wait (y : CellRt) : CellRt :=
      { y with results := y.results ++ [cx.awaits (.plain .val 0)]
               pending := if m.rdstNat = 0 then y.pending else y.pending ++ [m.rdstNat] }
    let issued (f : CellRt → CellRt) (q : Req) : State :=
      issueReq (s.updRegion cx.r.die cx.r.rblk fun r => (r.updRt cx.c fun y => f (wait y)).actBy cx.c cx.t) q
    (cx.x.cfg.opc = 0x180 → m.rdstK = false →
      let b := (k.cursor : Int) + affineIndex cx o (cx.x.cfg.lout 0) n g.base * (tyBytes m.tyNat : Int)
      k.lets rRead b (tyBytes m.tyNat) 1 →
      exec .streamPortIssue s = .next (issued (passMarkers cx o (g.next + 1))
        { cx.request .load k b.toNat (tyBytes m.tyNat)
            (affineAccess cx o 0 (cx.x.cfg.outOrder outCell) rRead k b g.base n) with rdst := m.rdstNat })) ∧
    (cx.x.cfg.opc ≠ 0x180 →
      let z := if m.rdstK = true then 16 else tyBytes m.tyNat
      let b := (k.cursor : Int) + g.base * (z : Int)
      k.lets rRead b z (if m.rdstK = true then 16 else 1) →
      exec .streamPortIssue s = .next (issued (fun y => { y with gen := none, runPos := y.runPos + 1 })
        { cx.request (if m.rdstK = true then .capLoad else .load) k b.toNat z
            { cx.access 0 (if m.rdstK = true then 4 else 0) (cx.x.cfg.inIdx 0) k b rRead (g.base % (2 ^ 64 : Nat)).toNat with
              pos := cx.x.rt.runPos } with rdst := m.rdstNat }))

end Sys2Proof.Machine

/-- A return lands whole in one cycle: the results that wait for it take its value, the register it names takes it and is pending no
longer, and the request goes; a store is acknowledged; a done token that is due leaves on every done destination; a write to a
granule older than 2^22 numbers loses its tag in a sweep (R29, R172, R175, R181, R182). The moment of a sweep is the model's choice
(log 27). A stream port issues the request of its next element when it may: LDS at the address of its position in the pass, LDG at
its index's; the result keeps its place, and LDG's index waits no more (R27, R183, R185). -/
def Obligations.ReturnsAndStreamPorts : Prop := Sys2Proof.Machine.Claims.ReturnsAcknowledgementsAndSweeps ∧ Sys2Proof.Machine.Claims.StreamPortsIssueTheirNextElement

namespace Sys2Proof.Machine

/-! Tile registers, draws, keys, the allocator and emitters. -/

/-- TLD sends a SWP at a trigger and issues the tile request on its target's tl, which becomes pending; the trigger itself follows in
a cycle of its own. TSWAP sends the SWP and then the trigger (R144, R145). -/
def Claims.TileLoadsAndSwapsPrecedeTheirTriggers : Prop :=
  ∀ (s : State) (cx : Cx) (k c : Token), CellReady s cx → cx.offers 0 k markKinds hdrMove →
    let m := cx.m
    let trig (bit : Bool) : Prop := k.kind = if bit then .ctl else .hdr
    let move : State := commit cx
      { takes := [0], sends := cx.toAll k, val := if k.kind == .val && !k.void then some k.pay else none,
        upd := fun y => { y with begun := false } }
    (trig (m.modF 0 1 == 1) → cx.x.rt.begun = false →
      exec (.tswap m) s = .next (commit cx { sends := cx.toAll (.plain .swp 0), upd := fun y => { y with begun := true } })) ∧
    (cx.x.rt.begun = true ∨ ¬trig (m.modF 0 1 == 1) → exec (.tswap m) s = .next move) ∧
    (refusesCtl cx 1 = false → cx.x.rt.begun = true ∨ ¬trig (m.modF 10 1 == 1) → exec (.tld m) s = .next move) ∧
    (trig (m.modF 10 1 == 1) → cx.x.rt.begun = false → refusesCtl cx 1 = false → cx.head 1 = some c →
      let target := cx.x.cfg.tindex 0
      let ks := m.modF 0 2
      let z := tyBytes m.tyNat
      let kc := cx.kreg ks [1]
      let b := Claims.byteAt kc c.pay z
      swpWaiting cx target (cx.x.cfg.tport 0) = false → cx.kPending ks = false → tileRoom cx 1 = true →
      (cx.r.cell target).rt.pending.contains 64 = false → kc.lets rRead b (15 * m.modF 2 8 * z + z) 1 →
      exec (.tld m) s = .next (commit cx
        { takes := [1], sends := [(0, { Token.plain .swp 0 with hid := .emit cx.c })]
          upd := fun y => { y with begun := true }
          after := fun s => issueReq
            (s.updRegion cx.r.die cx.r.rblk fun r => r.updRt target fun y => { y with pending := y.pending ++ [64] })
            { cx.request .tile kc b.toNat z
                { cx.access 1 4 (cx.x.cfg.inIdx 0) kc b rRead c.pay.toNat with strides := [(m.modF 2 8 : Int)], pos := 0 } with
              form := target, stride := m.modF 2 8 } }))

/-- TDOT multiplies each VAL with the element of ta at its position and sends the sum at the EOR: modulo 2^w for an integer TYPE, and
for a floating TYPE the exact sum of the products rounded once (no operand a NaN, no operation invalid). TBCAST sends ta[0] to
ta[N - 1], an EOR and an EOT after a CTL; TSTO stores the sixteen elements of ta; a SWP exchanges ta and tl once tl is there, and is not sent on (R30,
R146 to R148). -/
def Claims.TileFormsReadTheActiveTile : Prop :=
  ∀ (s : State) (cx : Cx) (k : Token), CellReady s cx →
    let m := cx.m
    let y := cx.x.rt
    let ty := m.tyNat
    let kinds : List Kind := [.val, .eor, .eot, .hdr, .swp]
    let n := m.modF 0 4 + 1
    let swaps (o : Out) : Prop := ∃ t r, o = .next t ∧ t.region s.focus.die s.focus.rblk = some r ∧
      (r.cell cx.c).rt.ta = y.tl ∧ (r.cell cx.c).rt.tl = y.ta
    (cx.offers 0 k kinds (hdrTdot m) → cx.rdstFree → ty ≤ 8 →
      (k.kind = .val → k.void = false → y.runPos < 16 → ∀ p : Int, y.exact = ofIntF p →
        exec (.tdot m) s = .next (commit cx
          { takes := [0]
            upd := fun y => { y with
              exact := ofIntF (p + intOf ty k.pay * intOf ty (cx.x.rt.ta.getD cx.x.rt.runPos 0)), exactNV := false,
              runPos := y.runPos + 1 } })) ∧
      (k.kind = .eor → ∀ p : Int, y.exact = ofIntF p →
        exec (.tdot m) s = .next (commit cx
          { takes := [0], sends := cx.toAll (.plain .val (ofInt ty p)), val := some (ofInt ty p), rdst := m.rdstNat,
            rdstVal := ofInt ty p
            upd := fun y => { Claims.closed cx y with exact := .fin false 0 0, exactNV := false } })) ∧
      (k.kind = .swp → cx.pendingReg 64 = false → exec (.tdot m) s = .next (commit cx { takes := [0] }) ∧ swaps (exec (.tdot m) s)) ∧
      (k.kind = .swp → cx.pendingReg 64 = true → exec (.tdot m) s = .next s)) ∧
    (cx.offers 0 k kinds (hdrTdot m) → cx.rdstFree → 8 < ty → y.exact.isNaN = false →
      let mode := rmodeOf m.rmNat
      let x := cx.fArg ty ⟨k.pay, 0, true⟩
      let t := decodeF ty ((y.ta.getD y.runPos 0).toNat % 2 ^ tyWidth ty)
      (k.kind = .val → k.void = false → y.runPos < 16 → x.isNaN = false → t.isNaN = false → ∀ q p : FVal, mulF x t = some q →
        addF mode y.exact q = some p →
        exec (.tdot m) s = .next (commit cx
          { takes := [0]
            upd := fun z => { z with exact := p, exactNV := y.exactNV, runPos := z.runPos + 1 } })) ∧
      (k.kind = .eor →
        let r := deliver ty mode y.exact
        let v := BitVec.ofNat 64 r.bits
        exec (.tdot m) s = .next (commit cx
          { takes := [0], sends := cx.toAll (.plain .val v), val := some v, rdst := m.rdstNat, rdstVal := v
            flags := if y.exactNV then r.flags ||| flagNV else r.flags
            upd := fun z => { Claims.closed cx z with exact := .fin false 0 0, exactNV := false } }))) ∧
    (y.gen = none → cx.offers 0 k [.ctl, .swp] (fun _ => true) → k.kind = .ctl →
      exec (.tbcast m) s = .next (commit cx
        { takes := [0], sends := cx.toAll (.plain .val (extendTy ty (y.ta.getD 0 0).toNat)),
          val := some (extendTy ty (y.ta.getD 0 0).toNat), upd := fun y => { y with gen := some ⟨0, 1⟩ } })) ∧
    (y.gen = none → cx.offers 0 k [.ctl, .swp] (fun _ => true) → k.kind = .swp → cx.pendingReg 64 = false → swaps (exec (.tbcast m) s)) ∧
    (cx.offers 0 k markKinds hdrMove → k.kind = .swp → cx.pendingReg 64 = false → swaps (exec (.tsto m) s)) ∧
    (∀ g : Gen, y.gen = some g →
      (g.next < n → exec (.tbcast m) s = .next (commit cx
        { sends := cx.toAll (.plain .val (extendTy ty (y.ta.getD g.next 0).toNat)),
          val := some (extendTy ty (y.ta.getD g.next 0).toNat), upd := fun y => { y with gen := some ⟨0, g.next + 1⟩ } })) ∧
      (g.next = n → exec (.tbcast m) s = .next (commit cx
        { sends := cx.toAll (.plain .eor 0), upd := fun y => { y with gen := some ⟨0, g.next + 1⟩ } })) ∧
      (n < g.next → exec (.tbcast m) s = .next (commit cx
        { sends := cx.toAll (.plain .eot 0), upd := fun y => { y with gen := none } }))) ∧
    (cx.offers 0 k markKinds hdrMove → k.kind = .val → k.void = false → cx.kPending (m.modF 0 2) = false →
      let z := tyBytes ty
      let kc := cx.kreg (m.modF 0 2) [0]
      let b := Claims.byteAt kc k.pay z
      tileRoom cx 16 = true → kc.lets rWrite b (15 * m.modF 2 8 * z + z) 1 →
      exec (.tsto m) s = .next (commit cx
        { takes := [0]
          after := fun s => (List.range 16).foldl (fun s i => issueReq s
            { cx.request .store kc (b.toNat + i * m.modF 2 8 * z) z
                { cx.access 0 1 (cx.x.cfg.inIdx 0) kc b rWrite k.pay.toNat with strides := [(m.modF 2 8 : Int)], pos := i } with
              colour := 0, form := 1, data := cx.x.rt.ta.getD i 0 }) s }))

end Sys2Proof.Machine

/-- TLD sends a SWP at a trigger and issues the tile request on its target's tl, which becomes pending; the trigger itself follows
in a cycle of its own. TSWAP sends the SWP and then the trigger (R144, R145). TDOT multiplies each VAL with the element of ta at its
position and sends the sum at the EOR: modulo 2^w for an integer TYPE, and for a floating TYPE the exact sum of the products rounded
once (no operand a NaN, no operation invalid). TBCAST sends ta[0] to ta[N - 1], an EOR and an EOT after a CTL; TSTO stores the
sixteen elements of ta; a SWP exchanges ta and tl once tl is there, and is not sent on (R30, R146 to R148). -/
def Obligations.TilesLoadSwapAndAreRead : Prop := Sys2Proof.Machine.Claims.TileLoadsAndSwapsPrecedeTheirTriggers ∧ Sys2Proof.Machine.Claims.TileFormsReadTheActiveTile

namespace Sys2Proof.Machine

/-- RND delivers the draw of its key and counter for each VAL, as its TYPE takes it, and adds c0 to the counter (R149, R150). ADD128
holds the pair of tokens at its position and sends the low and then the high word of their sum modulo 2^128 (R151); that markers which
came between them leave between the two words is the model's reading (log 22). RNDKEY delivers a key and c0, c1 as CTLs and counts it;
without a log the key is the next of the module, and with a log or in replay it is the record of its number: a log record of zeros is
first filled with a fresh key (R152). Keys are free values (log 7). -/
def Claims.DrawsCountersAndKeys : Prop :=
  (∀ (s : State) (q : Req) (bs : List Byte) (s1 : State), RequestReady s q → q.kind = .keyRead →
    loadAt s (q.mode s) q.cap.oid q.ofs 16 false = .ok bs s1 → s1.wants = [] → s1.puts = [] →
    let gives (t : State) (k : Nat) : Prop := exec .memoryTileRequest s = .next t ∧
      t.req q.id = some { q with stage := .performed, capValue := ⟨BitVec.ofNat 128 k, false⟩ }
    (leNat bs ≠ 0 ∨ q.form = 2 → ∃ t, gives t (leNat bs) ∧ t.mem = s1.mem) ∧
    (leNat bs = 0 → q.form = 1 → let key := (Config.freshKey s1.module.nextKey).toNat
      ∀ l s2, storeAt s1 (q.mode s) q.cap.oid q.ofs (natLe 16 key) false = .ok l s2 → s2.wants = [] → s2.puts = [] →
        ∃ t, gives t key ∧ t.mem = s2.mem ∧ t.module.nextKey = s2.module.nextKey + 1)) ∧
  ∀ (s : State) (cx : Cx) (k x : Token), CellReady s cx →
    let m := cx.m
    let y := cx.x.rt
    let at_ := m.modF 4 3
    let step (z : CellRt) : CellRt := { z with phase := (y.phase + 1) % m.modF 0 4 }
    (cx.offers 0 k markKinds hdrMove → k.kind = .val → k.void = false → m.modF 10 1 = 0 → m.modF 11 1 = 0 →
      let kb := m.modF 0 5
      let cb := m.modF 5 5
      (∀ i ∈ [kb, kb + 1, cb, cb + 1], cx.pendingReg (32 + i) = false) →
      let key := y.g.getD (kb + 1) 0 ++ y.g.getD kb 0
      let ctr := y.g.getD (cb + 1) 0 ++ y.g.getD cb 0
      let v := drawValue m.tyNat (drawD key ctr)
      let next := ctr + (cx.x.cfg.const 0).setWidth 128
      exec (.rnd m) s = .next (commit cx
        { takes := [0], sends := cx.toAll (.plain .val v), val := some v
          upd := fun z => { z with g := (z.g.set cb (next.extractLsb' 0 64)).set (cb + 1) (next.extractLsb' 64 64) } })) ∧
    (cx.offers 0 k markKinds hdrMove → k.kind = .val → cx.bound 1 = true → cx.offers 1 x [.val, .ctl] (fun _ => true) →
      k.void = false → x.void = false →
      (y.phase = at_ → exec (.add128 m) s = .next (commit cx
        { takes := [0, 1]
          upd := fun z => step { z with acc := k.pay, acc2 := x.pay, begun := false, runIdx := Kind.val.code } })) ∧
      (y.phase = at_ + 1 → y.begun = false → y.runIdx = Kind.val.code →
        let sum : BitVec 128 := (k.pay ++ y.acc) + (x.pay ++ y.acc2)
        let lo := sum.extractLsb' 0 64
        exec (.add128 m) s = .next (commit cx
          { takes := [0, 1], sends := cx.toAll (.plain .val lo), val := some lo
            upd := fun z =>
              step { z with begun := false, results := [], owed := z.owed ++ (y.results.map fun r => (r.mask, r.tok)) ++
                [(cx.outMask, .plain .val (sum.extractLsb' 64 64))] } }))) ∧
    (cx.head 0 = some k → refusesCtl cx 0 = false → y.results = [] →
      let key := Config.freshKey s.module.nextKey
      let sent (v : W64) : Result := cx.ready (.plain .ctl v) cx.t
      let seed : List Result := if m.modF 4 1 = 1 then [sent (cx.x.cfg.const 0), sent (cx.x.cfg.const 1)] else []
      let n := keyCount cx
      let count (s : State) : State := s.updTask cx.r.seq fun t => { t with keys := put t.keys (cx.r.num, cx.c) (n + 1) }
      (m.modF 2 2 = 0 → exec (.rndkey m) s = .next (commit cx
        { takes := [0]
          upd := fun z => { z with results := z.results ++ [sent (key.extractLsb' 0 64), sent (key.extractLsb' 64 64)] ++ seed }
          after := fun s => count { s with module := { s.module with nextKey := s.module.nextKey + 1 } } })) ∧
      (let need := if m.modF 2 2 = 1 then rRead ||| rWrite else rRead
       let kc := cx.kreg (m.modF 0 2) [0]
       let b : Int := (kc.cursor : Int) + 16 * (n : Int)
       m.modF 2 2 ≠ 0 → cx.kPending (m.modF 0 2) = false → tileRoom cx 1 = true → kc.lets need b 16 1 →
       exec (.rndkey m) s = .next (commit cx
        { takes := [0]
          upd := fun z => { z with results := z.results ++ [cx.awaits (.plain .ctl 0), cx.awaits (.plain .ctl 0)] ++ seed }
          after := fun s => count (issueReq s
            { cx.request .keyRead kc b.toNat 16 { cx.access 0 0 255 kc b need n with pos := n } with form := m.modF 2 2 }) })))

/-- ALLOC grants the extent at TOP that its capability bounds exactly: the token carries a capability on it with the arena's rights
less config and system, the header's TOP moves past it and NEXTN counts; SOFT turns an exhausted arena into a void VAL, and without
it the region freezes with ALLOC_EXHAUSTED (R154). FREE puts the extent on the pitch's list, unless it holds 64 already (R155). The
header after an exhausted ALLOC is the model's reading (log 26). Where the arena lies on another module, what the step writes there
goes out with it (R160, R315). -/
def Claims.AllocationsGrowAndFreesAreListed : Prop :=
  ∀ (s : State) (cx : Cx) (os : List Operand), CellReady s cx → ElemReady cx [0] os → s.Alone →
    let m := cx.m
    let k := cx.kreg (m.modF 0 2) [0]
    let goes (i : Instr) (t : State) : Prop := exec i s = .next (settle s t) ∧ (t.wants = [] → t.puts = [] → exec i s = .next t)
    let a := (opPay os 0).toNat
    let n := match s.task cx.r.seq with | some t => t.grants | none => 0
    let count (s : State) : State := s.updTask cx.r.seq fun t => { t with grants := t.grants + 1 }
    (cx.kPending (m.modF 0 2) = false → k.lets 35 0 64 64 → ∀ h s1, readArena s cx.r.die cx.blk k true = (0, h, s1) → s1.wants = [] → 0 < a →
      let h' : Arena := if n ≠ 0 then h else if h.owner = cx.r.seq then { h with top := h.top0 } else { h with owner := cx.r.seq, top0 := h.top }
      let len := (max a 64 + 63) / 64 * 64
      (∀ e b l, grantExtent h'.top len 27 0 = some (e, b, l) → b + l ≤ arenaLen s1 k →
        let g := ((k.withBounds e (b / 2 ^ e) ((b + l) / 2 ^ e)).withCursor b).withRights (k.rights &&& 0x3F)
        let rd := m.rdstNat
        goes (.alloc m) (commit cx
          { takes := [0].filter cx.isLink
            sends := cx.toAll (if rd = 0 then .plain .val (BitVec.ofNat 64 g.cursor)
              else ⟨.val, BitVec.ofNat 64 g.cursor, false, .cap (rd - 16) g, 0, false⟩)
            val := some (BitVec.ofNat 64 g.cursor)
            upd := fun y => if rd = 0 then y else { y with k := y.k.set (rd - 16) g }
            after := fun s => count (writeArena s cx.r.die cx.blk k { h' with top := b + l, nextn := n + 1 }) })) ∧
      (∀ e b l, grantExtent h'.top len 27 0 = some (e, b, l) → arenaLen s1 k < b + l →
        (m.modF 2 1 = 1 → goes (.alloc m) (commit cx
          { takes := [0].filter cx.isLink, sends := cx.toAll .voidVal
            after := fun s => count (writeArena s cx.r.die cx.blk k h') })) ∧
        (m.modF 2 1 = 0 → ∃ t r, exec (.alloc m) s = .next t ∧ t.region s.focus.die s.focus.rblk = some r ∧
          r.frozen = .violation ∧ r.cells = cx.r.cells))) ∧
    (let ar := cx.kreg (m.modF 2 2) [0]
     cx.kPending (m.modF 0 2) = false → cx.kPending (m.modF 2 2) = false → k.tag = true → ar.tag = true → k.oid = ar.oid →
      k.base % 64 = 0 → k.top % 64 = 0 → 64 ≤ k.base → ∀ h s1, readArena s cx.r.die cx.blk ar false = (0, h, s1) → s1.wants = [] →
      k.top ≤ h.top →
      (cx.r.freeList.length < 64 → goes (.free m) (commit cx
        { takes := [0].filter cx.isLink
          after := fun s => s.updRegion cx.r.die cx.r.rblk fun r => { r with freeList := r.freeList ++ [(ar, k.base, k.top)] } })) ∧
      (64 ≤ cx.r.freeList.length → ∃ t r, exec (.free m) s = .next t ∧ t.region s.focus.die s.focus.rblk = some r ∧
        r.frozen = .violation ∧ r.freeList = cx.r.freeList))

end Sys2Proof.Machine

/-- RND delivers the draw of its key and counter for each VAL, as its TYPE takes it, and adds c0 to the counter (R149, R150). ADD128
holds the pair of tokens at its position and sends the low and then the high word of their sum modulo 2^128 (R151); that markers
which came between them leave between the two words is the model's reading (log 22). RNDKEY delivers a key and c0, c1 as CTLs and
counts it; without a log the key is the next of the module, and with a log or in replay it is the record of its number: a log record
of zeros is first filled with a fresh key (R152). Keys are free values (log 7). ALLOC grants the extent at TOP that its capability
bounds exactly: the token carries a capability on it with the arena's rights less config and system, the header's TOP moves past it
and NEXTN counts; SOFT turns an exhausted arena into a void VAL, and without it the region freezes with ALLOC_EXHAUSTED (R154). FREE
puts the extent on the pitch's list, unless it holds 64 already (R155). The header after an exhausted ALLOC is the model's reading
(log 26). Where the arena lies on another module, what the step writes there goes out with it (R160, R315). -/
def Obligations.DrawsCountersAndAllocations : Prop := Sys2Proof.Machine.Claims.DrawsCountersAndKeys ∧ Sys2Proof.Machine.Claims.AllocationsGrowAndFreesAreListed

namespace Sys2Proof.Machine

/-- The emitters of engine commands (R233, R250). -/
def emitters : List (Mods → Instr) :=
  [ .mmaEmit, .mmasEmit, .mloadEmit, .mclaimEmit, .mreleaseEmit, .mdrainEmit, .normEmit, .copyEmit, .chainEmit, .stashEmit,
    .restoreEmit, .convEmit, .fprintEmit, .dedupEmit, .xferEmit ]

end Sys2Proof.Machine

/-- An emitter forwards 2 x FWD CTLs of in1 and then sends c0 and c1 as the words of its command, one token a cycle on out0; the in0
token that starts it goes with the first (R18, R233). A hand-over header there is turned away (R244), which is the model's reading of an
emitter (log 22). -/
def Obligations.EmittersForwardAndSendTheirCommand : Prop :=
  ∀ op ∈ emitters, ∀ (s : State) (cx : Cx), CellReady s cx →
    let fwd := fieldNat (cx.x.cfg.const 2) 0 8
    let n := cx.x.rt.phase
    let last := 2 * fwd + 1
    let takes := if n = 0 then [0] else []
    let step (y : CellRt) : CellRt := { y with phase := if n = last then 0 else n + 1 }
    let word (w : W64) : Token := ⟨.ctl, w, false, .emit cx.c, 0, false⟩
    let handed := ∃ k, cx.head 0 = some k ∧ k.kind = .hdr ∧ k.pay = handHdr
    (handed → exec (op cx.m) s = .next (rejectAt s cx.r cx.c 0)) ∧
    (¬handed → n ≠ 0 ∨ (cx.head 0).isSome = true →
    (∀ c, n < 2 * fwd → refusesCtl cx 1 = false → cx.head 1 = some c →
      exec (op cx.m) s = .next (commit cx { takes := takes ++ [1], sends := [(0, c)], upd := step })) ∧
    (n = 2 * fwd → exec (op cx.m) s = .next (commit cx
      { takes := takes, sends := [(0, word (cx.x.cfg.const 0))], upd := step })) ∧
    (n = last → exec (op cx.m) s = .next (commit cx
      { takes := takes, sends := [(0, word (cx.x.cfg.const 1))], upd := step })))

namespace Sys2Proof.Machine

/-! All cells: markers, rejection, the firing itself, and frames. -/

/-- An element-wise form: its operands, the headers it accepts, and the type of the header it sends. -/
structure ElementForm where
  arity : Nat
  op : Mods → Instr
  accepts : Mods → W64 → Bool
  out : Mods → Nat

/-- A form whose links take headers of TYPE alone (R107). -/
def Claims.ofType (arity : Nat) (op : Mods → Instr) : ElementForm := ⟨arity, op, fun m => hdrOnly m.tyNat, fun m => m.tyNat⟩

/-- The element-wise forms of Tables 9.1, 9.2 and 9.4. FCMP and FCLASS send N64 (R118, R119). -/
def elementForms : List ElementForm :=
  (intForms.map fun e => Claims.ofType e.arity e.op) ++
  (floatForms.map fun e => ⟨e.arity, e.op, fun _ => hdrFloat, fun m => m.tyNat⟩) ++
  [ Claims.ofType 2 .div, Claims.ofType 2 .rem, Claims.ofType 3 .addc, Claims.ofType 3 .subb, Claims.ofType 1 .capofs,
    Claims.ofType 1 .capset, Claims.ofType 1 .capnar, Claims.ofType 1 .caprgt, Claims.ofType 1 .captag,
    ⟨2, .fcmp, fun _ => hdrFloat, fun _ => 8⟩, ⟨1, .fabs, fun _ => hdrFloat, fun m => m.tyNat⟩,
    ⟨1, .fneg, fun _ => hdrFloat, fun m => m.tyNat⟩, ⟨1, .fclass, fun m => hdrOnly m.tyNat, fun _ => 8⟩ ]

/-- A marker at every link input of an element-wise form leaves on every destination: EOR and EOT with payload 0, CTL and SWP with the
payload of the lowest link, HDR as the header of the output type. A void operand gives a void VAL and changes no register or flag.
Kinds that differ, and a head that a link refuses, are turned away: the cell stops, and the controller learns of it (R24,
R107). -/
def Claims.MarkersAndVoidsPassElementWiseForms : Prop :=
  ∀ f ∈ elementForms, ∀ (s : State) (cx : Cx) (os : List Operand) (k : Token) (ks : List Token), CellReady s cx → cx.rdstFree →
    let m := cx.m
    let ps := List.range f.arity
    let links := ps.filter cx.isLink
    let refused (p : Nat) : Bool := cx.refuses p markKinds (f.accepts m)
    ((∀ p ∈ ps, cx.bound p = true) → cx.operands ps = some os → cx.heads links = some (k :: ks) →
      (∀ p ∈ links, refused p = false) →
      (k.kind ≠ .val → (∀ x ∈ ks, x.kind = k.kind) →
        let sent : Token := match k.kind with
          | .hdr => .plain .hdr (BitVec.ofNat 64 (f.out m))
          | .ctl => .plain .ctl k.pay
          | .swp => .plain .swp k.pay
          | o => .plain o 0
        exec (f.op m) s = .next (commit cx { takes := links, sends := cx.toAll sent })) ∧
      (k.kind = .val → (∀ x ∈ ks, x.kind = .val) → (∃ x ∈ k :: ks, x.void = true) →
        exec (f.op m) s = .next (commit cx { takes := links, sends := cx.toAll .voidVal })) ∧
      (∀ p x, (p, x) ∈ links.zip (k :: ks) → x.kind ≠ k.kind → (∀ q y, (q, y) ∈ links.zip (k :: ks) → q < p → y.kind = k.kind) →
        exec (f.op m) s = .next (rejectAt s cx.r cx.c p))) ∧
    (∀ p ∈ links, refused p = true → (∀ q ∈ links, q < p → refused q = false) →
      exec (f.op m) s = .next (rejectAt s cx.r cx.c p))

/-- The forms that touch nothing outside their region but the islands' ports: neither memory nor a task, a die or a request. -/
def regionForms (m : Mods) : List Instr :=
  (intForms.map fun e => e.op m) ++ (floatForms.map fun e => e.op m) ++
  [.div m, .rem m, .addc m, .subb m, .affine m, .captag m, .ctr m, .fcmp m, .fabs m, .fneg m, .fclass m, .cvt m, .qnt m, .dqnt m,
   .hdrset m, .steer m, .merge m, .amerge m, .gate m, .repeatOp m, .drop m, .take m, .zip m, .split m, .mark m, .strip m,
   .voidOp m, .dup m, .red m, .scan m, .tswap m, .tdot m, .tbcast m, .rnd m, .add128 m, .perf m]

/-- A token turned away under R24 stops its cell and leaves a trap of ILLEGAL_OP that names the port with its controller; nothing is
consumed, and no other cell changes. A head of a kind that the form does not accept is turned away in the cell's turn, whatever
stands at its other ports and whatever the cell still owes (R24). -/
def Claims.RejectionStopsTheCellAndTellsTheController : Prop :=
  ∀ (s : State) (cx : Cx) (p : Nat), CellStands s cx →
    (∀ i ∈ regionForms cx.m, cx.wrongKind = some p → exec i s = .next (rejectAt s cx.r cx.c p)) ∧
    ∃ r, (rejectAt s cx.r cx.c p).region s.focus.die s.focus.rblk = some r ∧
      r.cellTraps = cx.r.cellTraps ++ [⟨cx.c, 0xFF00 + fcIllegal, some p⟩] ∧
      (r.cell cx.c).rt = { cx.x.rt with stopped := true } ∧ (∀ j, j ≠ cx.c → r.cell j = cx.r.cell j) ∧
      r.st = cx.r.st ∧ r.frozen = cx.r.frozen ∧ (rejectAt s cx.r cx.c p).mem = s.mem

end Sys2Proof.Machine

/-- A capability form with a fault fires nothing: K untagged gives CAP_TAG, CAPNAR and CAPRGT without the derive right CAP_RIGHTS,
and CAPNAR outside K's bounds CAP_BOUNDS. The region freezes, no cell changes, and a record is posted, in a scout as elsewhere
(R114). A token turned away under R24 stops its cell and leaves a trap of ILLEGAL_OP that names the port with its controller;
nothing is consumed, and no other cell changes. A head of a kind that the form does not accept is turned away in the cell's turn,
whatever stands at its other ports and whatever the cell still owes (R24). -/
def Obligations.RejectionsAndViolationsStop : Prop := Sys2Proof.Machine.Claims.CapabilityFaultsFreezeTheRegion ∧ Sys2Proof.Machine.Claims.RejectionStopsTheCellAndTellsTheController

namespace Sys2Proof.Machine

/-- A firing is all or nothing (R23). While some destination is full nothing of it happens, but for the count of stalls. Else it takes
its heads, its value v goes to l0 and the old l0 to l1, its register takes v, its flags enter st, and each cell destination
receives the token, sent in this cycle; no other cell changes but in its ports, and in its line buffers where a done token is taken. -/
def Claims.FiringsTakeAndSendTogether : Prop :=
  ∀ e ∈ intForms ++ [⟨.fadd, 2, fun _ _ _ _ => 0⟩, ⟨.fmul, 2, fun _ _ _ _ => 0⟩], ∀ (s : State) (cx : Cx) (os : List Operand),
    CellReady s cx → ElemReady cx (List.range e.arity) os → (e.op cx.m).wf = true →
    let y := cx.x.rt
    (cx.room cx.x.cfg.dataOuts = false → exec (e.op cx.m) s = .next (s.updRegion s.focus.die s.focus.rblk fun r =>
      r.updRt cx.c fun y => { y with perfStalls := y.perfStalls + 1 })) ∧
    (cx.room cx.x.cfg.dataOuts = true → ∃ t r v, exec (e.op cx.m) s = .next t ∧
      t.region s.focus.die s.focus.rblk = some r ∧
      let z := (r.cell cx.c).rt
      z.l0 = v ∧ z.l1 = y.l0 ∧ z.firings = y.firings + 1 ∧ z.fired = cx.t + 1 ∧
      (cx.m.rdstNat = 0 → z.p = y.p ∧ z.g = y.g) ∧
      (1 ≤ cx.m.rdstNat → cx.m.rdstNat ≤ 8 → z.p = y.p.set (cx.m.rdstNat - 1) v ∧ z.g = y.g) ∧
      (32 ≤ cx.m.rdstNat → z.g = y.g.set (cx.m.rdstNat - 32) v ∧ z.p = y.p) ∧
      (∀ n, r.st.getLsbD n = (cx.r.st.getLsbD n || r.st.getLsbD n)) ∧ (∀ n, 5 ≤ n → r.st.getLsbD n = cx.r.st.getLsbD n) ∧
      (∀ j, j ≠ cx.c → (r.cell j).cfg = (cx.r.cell j).cfg ∧
        (r.cell j).rt = { (cx.r.cell j).rt with ports := (r.cell j).rt.ports, lines := (r.cell j).rt.lines }) ∧
      ∀ o ∈ cx.x.cfg.dataOuts, cx.x.cfg.target o = 1 → cx.r.storeAt cx.c o = none →
        cx.x.cfg.tport o < (cx.r.cell (cx.x.cfg.tindex o)).rt.ports.length → (cx.r.cell (cx.x.cfg.tindex o)).rt.lost = false →
        ∃ k ∈ ((r.cell (cx.x.cfg.tindex o)).rt.port (cx.x.cfg.tport o)).q, k.kind = .val ∧ k.pay = v ∧ k.born = cx.t)

end Sys2Proof.Machine

/-- A marker at every link input of an element-wise form leaves on every destination: EOR and EOT with payload 0, CTL and SWP with
the payload of the lowest link, HDR as the header of the output type. A void operand gives a void VAL and changes no register or
flag. Kinds that differ, and a head that a link refuses, are turned away: the cell stops, and the controller learns of it (R24,
R107). A firing is all or nothing (R23). While some destination is full nothing of it happens, but for the count of stalls. Else it
takes its heads, its value v goes to l0 and the old l0 to l1, its register takes v, its flags enter st, and each cell destination
receives the token, sent in this cycle; no other cell changes but in its ports, and in its line buffers where a done token is taken.
-/
def Obligations.FiringsAndMarkers : Prop := Sys2Proof.Machine.Claims.MarkersAndVoidsPassElementWiseForms ∧ Sys2Proof.Machine.Claims.FiringsTakeAndSendTogether

namespace Sys2Proof.Machine

/-- Everything of a state but the regions, the islands' ports and the lines of an L1 is as before; lines may only go (R175). -/
structure OutsideSame (s t : State) : Prop where
  module : t.module = s.module
  dies : ∀ d, t.die d = { s.die d with lines := (t.die d).lines } ∧ ∀ l ∈ (t.die d).lines, l ∈ (s.die d).lines
  tasks : t.tasks = s.tasks
  reqs : t.reqs = s.reqs
  cmds : t.cmds = s.cmds
  monitors : t.monitors = s.monitors
  mem : t.mem = s.mem
  capTags : t.capTags = s.capTags
  accTags : t.accTags = s.accTags
  bad : t.bad = s.bad
  links : t.outbox = s.outbox ∧ t.replies = s.replies ∧ t.ethIn = s.ethIn ∧ t.ethOut = s.ethOut
  far : t.asks = s.asks ∧ t.words = s.words ∧ t.wants = s.wants ∧ t.puts = s.puts ∧ t.errands = s.errands
  events : t.agenda = s.agenda ∧ t.inputs = s.inputs ∧ t.focus = s.focus

/-- The region after a firing: its controller, orders and configurations are as before; only sticky flags, the last action, traps, the
cell's own state, and the ports and stores that tokens enter may change. -/
structure ControllerSame (r r' : Region) : Prop where
  place : r'.die = r.die ∧ r'.rblk = r.rblk ∧ r'.width = r.width ∧ r'.height = r.height ∧ r'.seq = r.seq ∧ r'.num = r.num
  words : r'.pc = r.pc ∧ r'.w = r.w ∧ r'.i = r.i ∧ r'.ks = r.ks ∧ r'.depth = r.depth ∧ r'.frames = r.frames
  state : r'.ctl = r.ctl ∧ r'.frozen = r.frozen ∧ r'.running = r.running ∧ r'.cfg = r.cfg ∧ r'.runTrap = r.runTrap
  status : ∀ n, 5 ≤ n → r'.st.getLsbD n = r.st.getLsbD n
  passes : r'.runAt = r.runAt ∧ r'.passes = r.passes ∧ r'.passNext = r.passNext ∧ r'.orders = r.orders
  lists : r'.engFaults = r.engFaults ∧ r'.freeList = r.freeList ∧ r'.ctlw = r.ctlw ∧ r'.stage = r.stage
  config : ∀ j, (r'.cell j).cfg = (r.cell j).cfg

/-- A region without the line buffers of its stream ports, which a done token empties with the L1 of its tile (R175, R186). -/
def Region.dry (r : Region) : Region := { r with cells := r.cells.map fun c => (c.1, { c.2 with rt := { c.2.rt with lines := [] } }) }

end Sys2Proof.Machine

/-- The frame of the forms that only compute and move tokens: whatever such a step does, in every case, memory, its tags, tasks, dies,
requests and other regions are as before, and in its own region the controller and every configuration; but for the L1 and the line
buffers, which a done token that is taken empties. -/
def Obligations.ComputingFormsChangeOnlyTheirRegion : Prop :=
  ∀ (m : Mods), ∀ i ∈ regionForms m, ∀ s t, exec i s = .next t →
    OutsideSame s t ∧
    (∀ d b, ¬(d = s.focus.die ∧ b = s.focus.rblk) → (t.region d b).map Region.dry = (s.region d b).map Region.dry) ∧
    ∀ r, s.region s.focus.die s.focus.rblk = some r → ∃ r', t.region s.focus.die s.focus.rblk = some r' ∧ ControllerSame r r' ∧
      ∀ j, j ≠ s.focus.cell → (r'.cell j).rt = { (r.cell j).rt with ports := (r'.cell j).rt.ports, lines := (r'.cell j).rt.lines } ∧
        ((r'.cell j).rt.lines = (r.cell j).rt.lines ∨ (r'.cell j).rt.lines = [])

/-- CTR takes a CTL and sends, one token a cycle, the elements of its result order in turn, each the affine sum of its coordinates, an
EOR after each run and the EOT at the end (R116). -/
def Obligations.CtrGeneratesItsOrder : Prop :=
  ∀ (s : State) (cx : Cx) (o : OMap) (k : Token), CellReady s cx → cx.orderOut0 = some o →
    let m := cx.m
    let y := cx.x.rt
    let per := o.runLen + 1
    let c (n : Nat) : Int := intOf m.tyNat (cx.x.cfg.const n)
    let value (n : Nat) : W64 :=
      let xs := o.coords (cx.x.cfg.lout 0) n
      ofInt m.tyNat (c 0 + xs.getD 0 0 * c 1 + xs.getD 1 0 * c 2 + xs.getD 2 0 * c 3 + xs.getD 3 0 * c 4)
    cx.refuses 0 [.ctl] (fun _ => true) = false →
    (y.gen = none → cx.head 0 = some k → 0 < o.runs → 0 < o.runLen → exec (.ctr m) s = .next (commit cx
      { takes := [0], sends := cx.toAll (.plain .val (value 0)), val := some (value 0),
        upd := fun y => { y with gen := some ⟨0, 1⟩ } })) ∧
    (∀ g : Gen, y.gen = some g →
      let more (y : CellRt) : CellRt := { y with gen := some { g with next := g.next + 1 } }
      let n := g.next / per * o.runLen + g.next % per
      (g.next < o.runs * per → g.next % per < o.runLen → exec (.ctr m) s = .next (commit cx
        { sends := cx.toAll (.plain .val (value n)), val := some (value n), upd := more })) ∧
      (g.next < o.runs * per → g.next % per = o.runLen → exec (.ctr m) s = .next (commit cx
        { sends := cx.toAll (.plain .eor 0), upd := more })) ∧
      (g.next = o.runs * per → exec (.ctr m) s = .next (commit cx
        { sends := cx.toAll (.plain .eot 0), upd := fun y => { y with gen := none } })))

namespace Sys2Proof.Machine

/-- On values, TRAP leaves its code with the controller and fires no more; a BRK whose breakpoint is armed stops the region at the next
boundary and posts a record before its token moves, and forwards tokens otherwise; CTLW writes its w register in the next cycle;
PERF sends its counter (R224 to R226, R229). The instruction word of a BRK record is the model's reading (log 20), and the raw blocks of
die-to-die links, which the count of PERF 7 takes in, are a free value (log 63). -/
def Claims.TrapBreakAndCounterForms : Prop :=
  ∀ (s : State) (cx : Cx), CellReady s cx →
    let m := cx.m
    let here (f : Region → Region) (s : State) : State := s.updRegion s.focus.die s.focus.rblk f
    (∀ os, ElemReady cx [0] os →
      let links := [0].filter cx.isLink
      exec (.cellTrap m) s = .next (commit cx
        { takes := links, upd := fun y => { y with stopped := true }
          after := fun t => t.updRegion cx.r.die cx.r.rblk fun r => { r with cellTraps := r.cellTraps ++ [⟨cx.c, m.modF 0 15, none⟩] } }) ∧
      exec (.ctlw m) s = .next (commit cx
        { takes := links
          after := fun t => t.updRegion cx.r.die cx.r.rblk fun r =>
            { r with ctlw := r.ctlw ++ [(m.modF 0 4, opPay os 0)], lastAct := max r.lastAct cx.t } }) ∧
      let sends (v : W64) : Prop := exec (.perf m) s = .next (cx.deliver [0] v 0)
      (m.modF 0 4 = 0 → sends (s.die cx.r.die).cycle) ∧ (m.modF 0 4 = 1 → sends (BitVec.ofNat 64 cx.x.rt.perfFirings)) ∧
      (m.modF 0 4 = 2 → sends (BitVec.ofNat 64 cx.x.rt.perfStalls)) ∧
      (m.modF 0 4 = 3 → sends (BitVec.ofNat 64 (lookD (s.die cx.r.die).hits cx.blk 0))) ∧
      (m.modF 0 4 = 4 → sends (BitVec.ofNat 64 (lookD (s.die cx.r.die).misses cx.blk 0))) ∧
      (m.modF 0 4 = 5 → sends (BitVec.ofNat 64 (s.inFlight cx.r.die cx.blk))) ∧
      (m.modF 0 4 = 6 → sends ((s.die cx.r.die).faults.cecnt.setWidth 64)) ∧
      (m.modF 0 4 = 7 → sends (BitVec.ofNat 64
        (((s.die cx.r.die).links.map LinkPort.raw).sum + Config.dieRaw cx.r.die (s.die cx.r.die).cycle.toNat)))) ∧
    (∀ k, cx.offers 0 k [.val, .eor, .eot, .hdr, .ctl, .swp, .rsd] hdrMove →
      let armed := (s.die cx.r.die).brkctl.getLsbD 0 = true ∧
        ((s.die cx.r.die).brkctl.getLsbD 1 = true ∨ fieldNat (s.die cx.r.die).brkctl 8 8 = m.modF 0 8)
      (k.kind = .val → k.void = false → cx.x.rt.begun = false → armed →
        exec (.brk m) s = .next (here
          (fun r => { r.updRt cx.c (fun y => { y with begun := true }) with brkDue := some cx.c })
          (post s cx.r.place 0 srcCell false 0
            [cx.c % 2 ^ 14, 0x30 * 2 ^ 56 + 0x8000 + m.modF 0 8, cx.r.pc, k.pay.toNat, 0, 0]))) ∧
      (k.kind ≠ .val ∨ k.void = true ∨ cx.x.rt.begun = true ∨ ¬armed →
        exec (.brk m) s = .next (Claims.move cx [0] k fun y => { y with begun := false })))

/-- SYSRD reads a system register with a capability that carries the system right, and its value follows no earlier than four cycles
later; SYSWR writes one, its cell's earlier writes complete, and a CTL follows, that of a write of FQPOP once the record is acknowledged at
its home. Without a tag the fault is CAP_TAG, without the right CAP_RIGHTS, and the region freezes
(R227). The registers read as the map says. Their cycles are the model's choice (log 13). -/
def Claims.SystemRegisterForms : Prop :=
  ∀ (s : State) (cx : Cx) (k v : Token), CellReady s cx → cx.rdstFree → cx.offers 0 k markKinds (hdrOnly 8) → k.kind = .val →
    k.void = false → fieldNat k.pay 20 44 = 0 → cx.kPending (cx.m.modF 0 2) = false →
    let m := cx.m
    let die := fieldNat k.pay 16 4
    let num := fieldNat k.pay 0 16
    let c := cx.kreg (m.modF 0 2) [0]
    let c2 := cx.kreg (m.modF 0 2) [0, 1]
    (c.tag = true → c.rights &&& rSystem ≠ 0 →
      let x := readRegister s die num
      exec (.sysrd m) s = .next (commit cx
        { takes := [0], rdst := m.rdstNat, rdstVal := x
          upd := fun y => { y with results := y.results ++ [cx.ready (.plain .val x) (cx.t + 4)] } })) ∧
    (c.tag = false ∨ c.rights &&& rSystem = 0 → ∃ t r, exec (.sysrd m) s = .next t ∧
      t.region s.focus.die s.focus.rblk = some r ∧ r.frozen = .violation ∧ r.cells = cx.r.cells) ∧
    let writing := ∃ q ∈ s.reqs, q.die = cx.r.die ∧ q.rblk = cx.r.rblk ∧ q.cell = cx.c
    (cx.offers 1 v markKinds (hdrOnly 8) → v.kind = .val → v.void = false → writing → exec (.syswr m) s = .next s) ∧
    (cx.offers 1 v markKinds (hdrOnly 8) → v.kind = .val → v.void = false → c2.tag = true → c2.rights &&& rSystem ≠ 0 →
      ¬writing → writeHeld s die num = false → (num = 0x302 → tileRoom cx 1 = true) →
      exec (.syswr m) s = .next (if num = 0x302 then commit cx
          { takes := [0, 1], after := fun t => writeRegisterFor (reqFocus t.module.nextReq)
              (issueReq t { cx.request .load c2 c2.cursor 8 (cx.access 0 1 255 c2 c2.cursor rSystem 0) with stage := .remote }) die 0x302 v.pay
            upd := fun y => { y with results := y.results ++ [cx.awaits (.plain .ctl 0)] } }
        else commit cx
          { takes := [0, 1], after := fun s => writeRegister s die num v.pay
            upd := fun y => { y with results := y.results ++ [cx.ready (.plain .ctl 0) (cx.t + 1)] } })) ∧
    readRegister s die 0x100 = s.module.otb ∧ readRegister s die 0x301 = (s.die die).faults.fqdb ∧
    readRegister s die 0x700 = (s.die die).brkctl ∧ readRegister s die 0x102 = 0

end Sys2Proof.Machine

/-- On values, TRAP leaves its code with the controller and fires no more; a BRK whose breakpoint is armed stops the region at the
next boundary and posts a record before its token moves, and forwards tokens otherwise; CTLW writes its w register in the next
cycle; PERF sends its counter (R224 to R226, R229). The instruction word of a BRK record is the model's reading (log 20), and the
raw blocks of die-to-die links, which the count of PERF 7 takes in, are a free value (log 63). SYSRD reads a system register with a
capability that carries the system right, and its value follows no earlier than four cycles later; SYSWR writes one, its cell's
earlier writes complete, and a CTL follows, that of a write of FQPOP once the record is acknowledged at its home. Without a tag the
fault is CAP_TAG, without the right CAP_RIGHTS, and the region freezes (R227). The registers read as the map says. Their cycles are
the model's choice (log 13). -/
def Obligations.TrapsCountersAndSystemRegisters : Prop := Sys2Proof.Machine.Claims.TrapBreakAndCounterForms ∧ Sys2Proof.Machine.Claims.SystemRegisterForms

namespace Sys2Proof.Machine

/-! Region controllers. -/

/-- The state after an instruction of region r that goes on at pc, to issue n cycles from now, with the change f to the region. -/
def Claims.goes (s : State) (r : Region) (pc n : Nat) (f : Region → Region) : State :=
  s.updRegion r.die r.rblk fun x => { f x with pc := pc, ctl := .ready (s.now r.die + n) }

/-- Instruction i leads to t, once all that it reads of other modules is there: what it writes there goes out with it, and t itself is
the next state where it neither reads nor writes another module (R315). -/
def Claims.ends (s : State) (i : Instr) (t : State) : Prop :=
  exec i s = .next (settle s t) ∧ (s.Alone → t.wants = [] → t.puts = [] → exec i s = .next t)

/-- The region in focus is r. -/
def Claims.at_ (s : State) (r : Region) : Prop := s.region s.focus.die s.focus.rblk = some r

/-- Instruction i of region r is the system-queue trap ILLEGAL_OP: the controller stops at it with a record of its pc (R101, R220). -/
def Claims.illegal (s : State) (r : Region) (i : Instr) : Prop :=
  s.Alone → r.die < s.dies.length → (s.die r.die).faults.recs.length < Config.faultQueueSize →
    ∃ t r' x, exec i s = .next t ∧ t.region s.focus.die s.focus.rblk = some r' ∧
      r' = { r with frozen := .sysTrap, ctl := .ready (s.now r.die) } ∧
      (t.die r.die).faults.recs = addRecord (s.die r.die).faults.recs x ∧ fieldNat x 0 8 = fcIllegal ∧ fieldNat x 256 64 = r.pc % 2 ^ 64

/-- Operand b of format G: register wB, or IMM32 sign-extended (R99, R216). -/
def Claims.opB (r : Region) (g : FmtG) : W64 := if g.imm = 1 then g.imm32.signExtend 64 else r.w.getD g.wb.toNat 0

end Sys2Proof.Machine

/-- The word instructions write the register that wD names, from their operands, and go on at the next instruction in the next cycle;
every other register, the flags, memory and all else stay. CMPW sets EQ, LT and LTU alone, WRST the low byte of st alone (R200,
R216). -/
def Obligations.WordInstructionsWriteTheirRegister : Prop :=
  ∀ (s : State) (r : Region) (g : FmtG), Claims.at_ s r →
    let a := r.w.getD g.wa.toNat 0
    let b := Claims.opB r g
    let setsW (i : Instr) (v : W64) : Prop :=
      exec i s = .next (Claims.goes s r (r.pc + 8) 1 fun x => { x with w := x.w.set g.wd.toNat v })
    setsW (.movw g) b ∧ setsW (.movwR g) ((r.i.getD g.wa.toNat 0).setWidth 64) ∧ setsW (.addw g) (a + b) ∧
    setsW (.rdst g) r.st ∧ setsW (.rdcyc g) (s.die r.die).cycle ∧
    exec (.movwI g) s = .next (Claims.goes s r (r.pc + 8) 1 fun x => { x with i := x.i.set g.wd.toNat (b.setWidth 32) }) ∧
    (∃ f : W64 → W64, (∀ st n, (f st).getLsbD n =
        if n = 5 then a == b else if n = 6 then decide (a.toInt < b.toInt) else if n = 7 then decide (a.toNat < b.toNat) else st.getLsbD n) ∧
      exec (.cmpw g) s = .next (Claims.goes s r (r.pc + 8) 1 fun x => { x with st := f x.st })) ∧
    (∃ f : W64 → W64, (∀ st n, (f st).getLsbD n = if n < 8 then b.getLsbD n else st.getLsbD n) ∧
      exec (.wrst g) s = .next (Claims.goes s r (r.pc + 8) 1 fun x => { x with st := f x.st }))

namespace Sys2Proof.Machine

/-- The aligned word at offset o of capability k lies in this module's memory at local address a, and the race check of the
region's task gives its granule the tag nt (R158, R164, R173, R201). -/
structure Claims.word (s : State) (r : Region) (k : Cap) (o : Nat) (store : Bool) (a : Nat) (nt : W32) : Prop where
  lets : k.lets (if store then rWrite else rRead) o 8 8
  granule : a % 64 + 8 ≤ 64
  sound : a / 64 ∉ s.bad
  placed : ∃ pa, (translate s r.die r.rblk k.oid o store false).1 = .ok pa ∧ s.isLocal pa = true ∧ paLocal pa = a
  tag : tagCheck (s.racer r.seq) (getTag s.accTags (a / 64)) store = some nt

/-- The word of memory at a. -/
def Claims.wordAt (s : State) (a : Nat) : W64 := BitVec.ofNat 64 (leNat (memReadN s.mem a 8))

/-- LDW loads the word at offset wA + b of its argument slot into wD; STW stores wD there. STW changes those eight bytes of memory
and no other, LDW none; the other registers of the region stay (R216). The cycle in which the next instruction issues is the model's
choice (log 13). -/
def Claims.WordLoadsAndStores : Prop :=
  ∀ (s : State) (r : Region) (g : FmtG) (a : Nat) (nt : W32), Claims.at_ s r → s.Alone →
    let k := s.arg r.seq g.slot.toNat
    let o := (r.w.getD g.wa.toNat 0 + Claims.opB r g).toNat
    let next : Region := { r with pc := r.pc + 8, ctl := .ready (s.now r.die + 2) }
    (Claims.word s r k o false a nt → ∃ t, exec (.ldw g) s = .next t ∧ t.mem = s.mem ∧ getTag t.accTags (a / 64) = nt ∧
      t.tasks = s.tasks ∧ t.reqs = s.reqs ∧
      t.region s.focus.die s.focus.rblk = some { next with w := r.w.set g.wd.toNat (Claims.wordAt s a) }) ∧
    (s.memOk → Claims.word s r k o true a nt → ∃ t, exec (.stw g) s = .next t ∧ getTag t.accTags (a / 64) = nt ∧
      t.tasks = s.tasks ∧ t.reqs = s.reqs ∧ t.region s.focus.die s.focus.rblk = some next ∧
      ∀ x, memRead t.mem x =
        if a ≤ x ∧ x < a + 8 then BitVec.ofNat 8 ((r.w.getD g.wd.toNat 0).toNat / 256 ^ (x - a)) else memRead s.mem x)

/-- A word access that R158 refuses, or an offset that is not 8-aligned, does not take place: no memory or register changes, the region
freezes, and the record carries the code (R158, R201, R216). -/
def Claims.WordAccessesAreChecked : Prop :=
  ∀ (s : State) (r : Region) (g : FmtG) (i : Instr), Claims.at_ s r → i = .ldw g ∨ i = .stw g →
    let k := s.arg r.seq g.slot.toNat
    let o := (r.w.getD g.wa.toNat 0 + Claims.opB r g).toNat
    let need := if i = .ldw g then rRead else rWrite
    let refused (code ofs : Nat) : Prop := Claims.ends s i
      ((post s r.place code srcCtl false 0 (ctlAccess r (i == .stw g) k.oid ofs need).words).updRegion r.die r.rblk fun x =>
        { x with frozen := .violation })
    (k.tag = false → refused fcTag (o % 2 ^ 44)) ∧
    (k.tag = true → k.rights &&& need ≠ need → refused fcRights (o % 2 ^ 44)) ∧
    (k.tag = true → k.rights &&& need = need → o < k.base → refused fcBounds (o % 2 ^ 44)) ∧
    (k.tag = true → k.rights &&& need = need → k.base ≤ o → o < k.top → k.top < o + 8 → refused fcBounds (k.top % 2 ^ 44)) ∧
    (k.tag = true → k.rights &&& need = need → k.base ≤ o → o + 8 ≤ k.top → o % 8 ≠ 0 → refused fcBounds (o % 2 ^ 44))

/-- SAVE stores and RSTR loads the whole register set in order: SAVE.W and RSTR.W w0 to w15, SAVE.IS and RSTR.IS i0 to i3 and then
st, of which RSTR writes the low byte alone. They use 128 and 40 bytes from offset wA + b of their slot (R200, R216). The cycle in
which the next instruction issues is the model's choice (log 13). -/
def Claims.SaveAndRestoreRegisters : Prop :=
  ∀ (s s1 : State) (r : Region) (g : FmtG), Claims.at_ s r →
    let k := s.arg r.seq g.slot.toNat
    let o := (r.w.getD g.wa.toNat 0 + Claims.opB r g).toNat
    let done (f : Region → Region) : State :=
      s1.updRegion r.die r.rblk fun x => { f x with pc := r.pc + 8, ctl := .ready (s1.now r.die + 2) }
    (k.lets rWrite o 128 8 → r.w.length = 16 → ctlWrites s r k o rWrite r.w = (some (), s1) → Claims.ends s (.saveW g) (done id)) ∧
    (k.lets rWrite o 40 8 → r.i.length = 4 → ctlWrites s r k o rWrite (r.i.map (·.setWidth 64) ++ [r.st]) = (some (), s1) →
      Claims.ends s (.saveIs g) (done id)) ∧
    (∀ vs, k.lets rRead o 128 8 → ctlReads s r k o rRead 16 = (some vs, s1) →
      Claims.ends s (.rstrW g) (done fun x => { x with w := vs })) ∧
    (∀ vs, k.lets rRead o 40 8 → ctlReads s r k o rRead 5 = (some vs, s1) → ∃ f : W64 → W64,
      (∀ st n, (f st).getLsbD n = if n < 8 then (vs.getD 4 0).getLsbD n else st.getLsbD n) ∧
      Claims.ends s (.rstrIs g) (done fun x => { x with i := (vs.take 4).map (·.setWidth 32), st := f x.st }))

/-- A run of words written by the controller through a capability whose places the tile has cached: where it completes, word i stands at
the place of offset o + 8 i, and every other byte of memory is as it was (R164, R165, R201). -/
def Claims.ControllerStoresStayInTheirWords : Prop :=
  ∀ (s t : State) (r : Region) (k : Cap) (o : Nat) (vs : List W64) (base : Nat), s.memOk →
    ctlWrites s r k o rWrite vs = (some (), t) → o % 8 = 0 → base % 8 = 0 →
    (∀ i < vs.length, ∃ e, (s.die r.die).xlates.find? (·.serves r.rblk k.oid (o + 8 * i)) = some e ∧
      ∃ pa, pageCheck s e.desc e.ext e.pdesc (o + 8 * i) true false = .ok pa ∧ s.isLocal pa = true ∧ paLocal pa = base + 8 * i) →
    ∀ x, memRead t.mem x =
      if base ≤ x ∧ x < base + 8 * vs.length then BitVec.ofNat 8 ((vs.getD ((x - base) / 8) 0).toNat / 256 ^ ((x - base) % 8))
      else memRead s.mem x

end Sys2Proof.Machine

/-- LDW loads the word at offset wA + b of its argument slot into wD; STW stores wD there. STW changes those eight bytes of memory
and no other, LDW none; the other registers of the region stay (R216). The cycle in which the next instruction issues is the model's
choice (log 13). A word access that R158 refuses, or an offset that is not 8-aligned, does not take place: no memory or register
changes, the region freezes, and the record carries the code (R158, R201, R216). A run of words written by the controller through a
capability whose places the tile has cached: where it completes, word i stands at the place of offset o + 8 i, and every other byte
of memory is as it was (R164, R165, R201). -/
def Obligations.WordMemoryInstructions : Prop := Sys2Proof.Machine.Claims.WordLoadsAndStores ∧ Sys2Proof.Machine.Claims.WordAccessesAreChecked ∧ Sys2Proof.Machine.Claims.ControllerStoresStayInTheirWords

namespace Sys2Proof.Machine

/-- BR and a BRC whose condition on st holds go to pc + 8 OFS, and other BRCs to the next instruction; LOOP takes one from its w
register and goes there while it is not 0. CALL pushes the address behind it, and RET goes to the innermost frame; with eight frames
on chip the ninth goes to and comes from the spill area at ks (R214, R215). The cycle after a spill is the model's choice (log 13).
-/
def Claims.BranchesLoopsAndCalls : Prop :=
  ∀ (s : State) (r : Region) (b : FmtB), Claims.at_ s r →
    let dest := (((r.pc : Int) + 8 * b.ofs.toInt) % (2 ^ 44 : Nat)).toNat
    let jump (f : Region → Region) : State := Claims.goes s r dest 2 f
    let next (f : Region → Region) : State := Claims.goes s r (r.pc + 8) 1 f
    let c := b.cc.toNat
    let holds : Bool := if c % 2 = 0 then r.st.getLsbD (5 + c / 2) else !r.st.getLsbD (5 + c / 2)
    let v := r.w.getD c 0 - 1
    let loops (x : Region) : Region := { x with w := x.w.set c v }
    let push (x : Region) : Region :=
      { x with depth := x.depth + 1, frames := (BitVec.ofNat 64 (x.pc + 8) :: x.frames).take 8 }
    let pop (more : List W64) (x : Region) : Region := { x with depth := x.depth - 1, frames := x.frames.drop 1 ++ more }
    exec (.br b) s = .next (jump id) ∧
    (c < 6 → exec (.brc b) s = .next (if holds then jump id else next id)) ∧
    exec (.loop b) s = .next (if v = 0 then next loops else jump loops) ∧
    (s.Alone → r.depth < 8 → exec (.call b) s = .next (Claims.goes s r dest 2 push)) ∧
    (s.Alone → 0 < r.depth → r.depth ≤ 8 → exec .ret s = .next (Claims.goes s r (r.frames.getD 0 0).toNat 2 (pop []))) ∧
    (∀ a nt, s.Alone → s.memOk → 8 ≤ r.depth → Claims.word s r r.ks (r.ks.cursor + 8 * (r.depth - 8)) true a nt → ∃ t r', exec (.call b) s = .next t ∧
      t.region s.focus.die s.focus.rblk = some r' ∧ r' = { push r with pc := dest, ctl := .ready (s.now r.die + 3) } ∧
      ∀ x, memRead t.mem x =
        if a ≤ x ∧ x < a + 8 then BitVec.ofNat 8 ((r.frames.getD 7 0).toNat / 256 ^ (x - a)) else memRead s.mem x) ∧
    (∀ a nt, s.Alone → 8 < r.depth → Claims.word s r r.ks (r.ks.cursor + 8 * (r.depth - 9)) false a nt → ∃ t r', exec .ret s = .next t ∧
      t.region s.focus.die s.focus.rblk = some r' ∧ t.mem = s.mem ∧
      r' = { pop [Claims.wordAt s a] r with pc := (r.frames.getD 0 0).toNat, ctl := .ready (s.now r.die + 3) })

/-- st after entry to the vector: TCODE, TRAPD and TPC are set, and its low half and SEQ bits stay (R220, Table 13.2). -/
def Claims.entered (st st' : W64) (code restart : Nat) : Prop :=
  fieldNat st' 16 16 = code % 2 ^ 16 ∧ st'.getLsbD 35 = true ∧ fieldNat st' 36 28 = restart / 8 % 2 ^ 28 ∧
  (∀ n, n < 16 → st'.getLsbD n = st.getLsbD n) ∧ (∀ n, 32 ≤ n → n < 35 → st'.getLsbD n = st.getLsbD n)

/-- Taking a trap through the vector saves the restart point in TPC and the cause in TCODE, sets TRAPD and goes to TVEC of the task:
TRAP with a code below 0x8000 with the next instruction as restart point, a cell's trap with the instruction at pc, and then no
cell of the region fires. ERET goes back to TPC, clears TRAPD and lets the cells fire (R219 to R221, R224). -/
def Claims.TrapsSaveAndReturnsRestore : Prop :=
  ∀ (s : State) (r : Region) (code : BitVec 16), Claims.at_ s r →
    let now := s.now r.die
    (r.trapd = false → ∃ t r', exec (.trapCode code) s = .next t ∧ t.region s.focus.die s.focus.rblk = some r' ∧
      Claims.entered r.st r'.st code.toNat (r.pc + 8) ∧
      r' = { r with st := r'.st, pc := s.tvecOf r, ctl := .ready (now + 2) } ∧ t.mem = s.mem ∧ t.dies = s.dies) ∧
    (∀ k : CellTrap, r.cellTraps = [k] → k.illegal = none → r.trapd = false → ∃ t r', exec .trapEntry s = .next t ∧
      t.region s.focus.die s.focus.rblk = some r' ∧ Claims.entered r.st r'.st k.code r.pc ∧
      r' = { r with st := r'.st, pc := s.tvecOf r, ctl := .ready (now + 2), cellTraps := [], cellsHeld := true } ∧
      t.mem = s.mem ∧ t.dies = s.dies) ∧
    (∀ (k : CellTrap) (p : Nat), r.cellTraps = [k] → k.illegal = some p → ∃ t r', exec .trapEntry s = .next t ∧
      t.region s.focus.die s.focus.rblk = some r' ∧
      r' = { r with frozen := .sysTrap, ctl := .ready now, cellTraps := [] }) ∧
    (r.trapd = true → ∃ t r', exec .eret s = .next t ∧ t.region s.focus.die s.focus.rblk = some r' ∧ t.mem = s.mem ∧
      (∀ n, r'.st.getLsbD n = (r.st.getLsbD n && n != 35)) ∧
      r' = { r with st := r'.st, pc := 8 * fieldNat r.st 36 28, cellsHeld := false, lastAct := now, ctl := .ready (now + 2) }) ∧
    (r.trapd = true → ∃ t r', exec (.trapCode code) s = .next t ∧ t.region s.focus.die s.focus.rblk = some r' ∧
      r' = { r with frozen := .violation, pc := r.pc + 8, ctl := .ready now })

end Sys2Proof.Machine

/-- BR and a BRC whose condition on st holds go to pc + 8 OFS, and other BRCs to the next instruction; LOOP takes one from its w
register and goes there while it is not 0. CALL pushes the address behind it, and RET goes to the innermost frame; with eight frames
on chip the ninth goes to and comes from the spill area at ks (R214, R215). The cycle after a spill is the model's choice (log 13).
Taking a trap through the vector saves the restart point in TPC and the cause in TCODE, sets TRAPD and goes to TVEC of the task:
TRAP with a code below 0x8000 with the next instruction as restart point, a cell's trap with the instruction at pc, and then no cell
of the region fires. ERET goes back to TPC, clears TRAPD and lets the cells fire (R219 to R221, R224). -/
def Obligations.BranchesCallsTrapsAndReturns : Prop := Sys2Proof.Machine.Claims.BranchesLoopsAndCalls ∧ Sys2Proof.Machine.Claims.TrapsSaveAndReturnsRestore

namespace Sys2Proof.Machine

/-- A service request posts a record, whose CODE 0 is the model's reading (log 20), and waits, frozen, for system software, at the next
instruction. SETKS gives a frozen region its
spill capability and answers 1, and answers 0 for one that is not frozen or does not exist; RDFQ answers 0 on an empty queue.
Outside the system region SETKS and RDFQ, and without TRAPD ERET, are ILLEGAL_OP (R219, R221, R222). -/
def Claims.ServiceAndSystemInstructions : Prop :=
  ∀ (s : State) (r : Region) (g : FmtG) (code : BitVec 16), Claims.at_ s r →
    let answers (u : State) (v : W64) : State := Claims.goes u r (r.pc + 8) 1 fun x => { x with w := x.w.set g.wd.toNat v }
    let system := r.rblk = (s.die r.die).sysBlock
    let other := (r.w.getD g.wa.toNat 0).toNat % 256
    (∃ u, u = postCtl s r 0 srcCtl 0x3FFF 0 (s.wordAt r r.pc) r.pc false ∧
      exec (.trapService code) s = .next (Claims.goes u r (r.pc + 8) 1 fun x => { x with frozen := .service })) ∧
    (system → ∀ y, s.region r.die other = some y → y.frozen ≠ .no →
      exec (.setks g) s = .next (answers (s.updRegion r.die other fun x => { x with ks := s.arg r.seq g.slot.toNat }) 1)) ∧
    (system → (∀ y, s.region r.die other = some y → y.frozen = .no) → exec (.setks g) s = .next (answers s 0)) ∧
    (system → s.Alone → (s.die r.die).faults.recs = [] → exec (.rdfq g) s = .next (answers s 0)) ∧
    (system → s.Alone → ∀ x rest s1, (s.die r.die).faults.recs = x :: rest → s1.wants = [] →
      let k := s.arg r.seq g.slot.toNat
      let o := (r.w.getD g.wa.toNat 0 + Claims.opB r g).toNat
      k.lets rWrite o 64 8 →
      ctlWrites s r k o rWrite ((List.range 8).map fun i => x.extractLsb' (64 * i) 64) = (some (), s1) →
      ∃ t r', exec (.rdfq g) s = .next t ∧ t.mem = s1.mem ∧ (t.die r.die).faults.recs = ((s1.die r.die).faults.recs).drop 1 ∧
        t.region s.focus.die s.focus.rblk = some r' ∧ r'.w = ((s1.region s.focus.die s.focus.rblk).getD r).w.set g.wd.toNat 1) ∧
    (¬system → Claims.illegal s r (.setks g) ∧ Claims.illegal s r (.rdfq g)) ∧
    (r.trapd = false → Claims.illegal s r .eret)

end Sys2Proof.Machine

/-- SAVE stores and RSTR loads the whole register set in order: SAVE.W and RSTR.W w0 to w15, SAVE.IS and RSTR.IS i0 to i3 and then
st, of which RSTR writes the low byte alone. They use 128 and 40 bytes from offset wA + b of their slot (R200, R216). The cycle in
which the next instruction issues is the model's choice (log 13). A service request posts a record, whose CODE 0 is the model's
reading (log 20), and waits, frozen, for system software, at the next instruction. SETKS gives a frozen region its spill capability
and answers 1, and answers 0 for one that is not frozen or does not exist; RDFQ answers 0 on an empty queue. Outside the system
region SETKS and RDFQ, and without TRAPD ERET, are ILLEGAL_OP (R219, R221, R222). -/
def Obligations.SavesServicesAndSystemInstructions : Prop := Sys2Proof.Machine.Claims.SaveAndRestoreRegisters ∧ Sys2Proof.Machine.Claims.ServiceAndSystemInstructions

namespace Sys2Proof.Machine

/-! Configuring, running, waiting and ending. -/

/-- CFG clears the sticky flags and starts to apply its commands in the next cycle; PCFG changes nothing. RUN starts a pitch with as
many passes as the product of its i registers, 1 for none, after invalidating the L1 of its tiles; a RUN after a faulty CFG traps
with the code it left, and one whose product exceeds 2^64 - 1 is ILLEGAL_OP (R94, R203 to R205). RUN's wait for detached transfers
is the model's reading (log 32). -/
def Claims.ConfiguringAndRunning : Prop :=
  ∀ (s : State) (r : Region) (k : FmtK) (m : FmtR), Claims.at_ s r →
    let now := s.now r.die
    let n := (if m.mask.getLsbD 0 then (r.i.getD 0 0).toNat else 1) * (if m.mask.getLsbD 1 then (r.i.getD 1 0).toNat else 1) *
      (if m.mask.getLsbD 2 then (r.i.getD 2 0).toNat else 1) * (if m.mask.getLsbD 3 then (r.i.getD 3 0).toNat else 1)
    (r.running = false → ∃ t r' c, exec (.cfg k) s = .next t ∧ t.region s.focus.die s.focus.rblk = some r' ∧
      (∀ j, r'.st.getLsbD j = (r.st.getLsbD j && decide (5 ≤ j))) ∧ r'.ctl = .cfg ∧ r'.cfg = some c ∧
      c.off = k.off.toNat ∧ c.count = k.cnt.toNat ∧ c.pos = 0 ∧ c.at_ = now + 1 ∧ c.exts = [] ∧ c.cover = .none ∧ r'.pc = r.pc ∧
      r'.w = r.w ∧ r'.i = r.i ∧ t.mem = s.mem) ∧
    exec (.pcfg k) s = .next (Claims.goes s r (r.pc + 8) 1 id) ∧
    (r.running = false → r.runTrap = none → n < 2 ^ 64 → (∀ c ∈ s.cmds, c.seq = r.seq → c.rblk ≠ detached) →
      ∃ t r', exec (.run m) s = .next t ∧ t.region s.focus.die s.focus.rblk = some r' ∧
        r'.running = true ∧ r'.passes = n ∧ r'.runAt = now + 1 ∧ r'.pc = r.pc + 8 ∧ r'.w = r.w ∧ r'.st = r.st ∧ t.mem = s.mem ∧
        r'.passNext = (if startPorts r = [] then n else 0) ∧
        (∀ l ∈ (t.die r.die).lines, l.blk ∉ r.blocks)) ∧
    (r.running = false → r.runTrap = none → 2 ^ 64 ≤ n → Claims.illegal s r (.run m)) ∧
    (∀ code, r.running = false → r.runTrap = some code → ∃ t r', exec (.run m) s = .next t ∧
      t.region s.focus.die s.focus.rblk = some r' ∧ r' = { r with frozen := .sysTrap, ctl := .ready now })

/-- The start tokens of the next pass go out together, as CTLs with the pass number, once every start-marked port has a free slot;
until then, and after the last pass, none goes; a scout that a pre-emption has discarded takes none and holds up none (R35, R205). The
birth of a start token is the model's reading (log 14). -/
def Claims.RunPassesStartTogether : Prop :=
  ∀ (s : State) (r : Region) (c p : Nat), Claims.at_ s r → r.live = true → startPorts r = [(c, p)] →
    p < (r.cell c).rt.ports.length →
    let now := s.now r.die
    let x := (r.cell c).rt.port p
    (r.runAt ≤ now → r.passNext < r.passes → (r.cell c).rt.lost = false → occupancy x.q x.popped x.popAt now < r.portSlots c p →
      ∃ t r', exec .runPass s = .next t ∧ t.region s.focus.die s.focus.rblk = some r' ∧ r'.passNext = r.passNext + 1 ∧
        ((r'.cell c).rt.port p).q = x.q ++ [{ Token.plain .ctl (BitVec.ofNat 64 r.passNext) with born := now - 1 }] ∧
        ∀ j, j ≠ c → r'.cell j = r.cell j) ∧
    (r.runAt ≤ now → r.passNext < r.passes → (r.cell c).rt.lost = true → ∃ t r', exec .runPass s = .next t ∧
      t.region s.focus.die s.focus.rblk = some r' ∧ r'.passNext = r.passNext + 1 ∧ ∀ j, r'.cell j = r.cell j) ∧
    (r.passes ≤ r.passNext ∨ now < r.runAt ∨ ((r.cell c).rt.lost = false ∧ r.portSlots c p ≤ occupancy x.q x.popped x.popAt now) →
      exec .runPass s = .next s)

end Sys2Proof.Machine

/-- CFG clears the sticky flags and starts to apply its commands in the next cycle; PCFG changes nothing. RUN starts a pitch with as
many passes as the product of its i registers, 1 for none, after invalidating the L1 of its tiles; a RUN after a faulty CFG traps
with the code it left, and one whose product exceeds 2^64 - 1 is ILLEGAL_OP (R94, R203 to R205). RUN's wait for detached transfers
is the model's reading (log 32). The start tokens of the next pass go out together, as CTLs with the pass number, once every
start-marked port has a free slot; until then, and after the last pass, none goes; a scout that a pre-emption has discarded takes
none and holds up none (R35, R205). The birth of a start token is the model's reading (log 14). -/
def Obligations.RunsStartTheirPasses : Prop := Sys2Proof.Machine.Claims.ConfiguringAndRunning ∧ Sys2Proof.Machine.Claims.RunPassesStartTogether

/-- BELAY waits; once the pitch has been quiet for two cycles and its queues are committed it ends the pitch, invalidates the L1 of its
tiles and goes on; an engine fault held for it enters the vector first. WAITC answers 1 when the pitch is quiescent or none runs,
and 0 when its time is up (R17, R206, R207). That a BELAY of a running pitch completes from three cycles after its last act on, however
late it issues, and two cycles after its issue where none runs, is the model's reading (log 14). -/
def Obligations.BelaysAndWaits : Prop :=
  ∀ (s : State) (r : Region) (g : FmtG), Claims.at_ s r → s.Alone →
    let now := s.now r.die
    let b := (Claims.opB r g).toNat
    let answers (wd : Nat) (v : W64) : State := Claims.goes s r (r.pc + 8) 1 fun x => { x with w := x.w.set wd v }
    exec .belay s = .next (s.updRegion r.die r.rblk fun x => { x with ctl := .belay (s.now x.die) }) ∧
    (∀ n, r.ctl = .belay n →
      (r.running = true → now < r.lastAct + 3 ∨ nothingDue s r now = false → exec .belayPass s = .next s) ∧
      (r.running = false → now < n + 2 → exec .belayPass s = .next s) ∧
      (∀ e rest, belayDue s r n now = true → r.engFaults = e :: rest → e.vec = true → r.trapd = false →
        ∃ t r', exec .belayPass s = .next t ∧ t.region s.focus.die s.focus.rblk = some r' ∧
          Claims.entered r.st r'.st (0xFF00 + e.code) r.pc ∧
          r' = { r with engFaults := rest, st := r'.st, pc := s.tvecOf r, ctl := .ready (now + 2) }) ∧
      (belayDue s r n now = true → r.engFaults = [] → r.freeList = [] → r.stage = none →
        (∀ t, s.task r.seq = some t → ∀ d, t.pre ≠ .drain d) →
        ∃ t r', exec .belayPass s = .next t ∧ t.region s.focus.die s.focus.rblk = some r' ∧ r'.running = false ∧
          r'.held = false ∧ r'.pc = r.pc + 8 ∧ r'.ctl = .ready (now + 1) ∧ r'.w = r.w ∧ r'.i = r.i ∧ r'.st = r.st ∧
          t.mem = s.mem ∧ (∀ l ∈ (t.die r.die).lines, l.blk ∉ r.blocks) ∧
          t.reqs = s.reqs.filter fun q => !(q.die == r.die && q.rblk == r.rblk && q.scout))) ∧
    (r.running = false ∨ quiescent s r now = true → exec (.waitc g) s = .next (answers g.wd.toNat 1)) ∧
    (r.running = true → quiescent s r now = false → b = 0 → exec (.waitc g) s = .next (answers g.wd.toNat 0)) ∧
    (r.running = true → quiescent s r now = false → b ≠ 0 →
      exec (.waitc g) s = .next (s.updRegion r.die r.rblk fun x => { x with ctl := .waitc g.wd.toNat (now + b) })) ∧
    (∀ wd due, wd < 16 → r.ctl = .waitc wd due →
      (quiescent s r now = true → exec .waitcEnd s = .next (answers wd 1)) ∧
      (quiescent s r now = false → due ≤ now → exec .waitcEnd s = .next (answers wd 0)) ∧
      (quiescent s r now = false → now < due → exec .waitcEnd s = .next s))

/-- A pitch runs from the RUN that starts it until the BELAY behind it completes. While it runs, CFG, RUN, JOIN, UNJOIN, YIELD,
SETSTAGE and SETQ are ILLEGAL_OP, and so is HALT outside a handler; in a handler HALT stops the pitch and waits for the engine
commands of its region (R202). -/
def Obligations.PitchExcludesConfiguring : Prop :=
  ∀ (s : State) (r : Region) (k : FmtK) (m : FmtR) (j : FmtJ) (g : FmtG), Claims.at_ s r → s.Alone →
    let n := (if m.mask.getLsbD 0 then (r.i.getD 0 0).toNat else 1) * (if m.mask.getLsbD 1 then (r.i.getD 1 0).toNat else 1) *
      (if m.mask.getLsbD 2 then (r.i.getD 2 0).toNat else 1) * (if m.mask.getLsbD 3 then (r.i.getD 3 0).toNat else 1)
    (r.running = false → r.runTrap = none → n < 2 ^ 64 → (∀ c ∈ s.cmds, c.seq = r.seq → c.rblk ≠ detached) →
      ∃ t r', exec (.run m) s = .next t ∧ t.region s.focus.die s.focus.rblk = some r' ∧ r'.running = true) ∧
    (r.running = true →
      (∀ i ∈ [Instr.cfg k, .run m, .joinReorder j, .joinCheck j, .unjoin j, .yieldOp, .setstageDecl g, .setstageEnter g, .setqIn g,
        .setqOut g], Claims.illegal s r i) ∧
      (r.trapd = false → Claims.illegal s r .halt) ∧
      (r.trapd = true → (∃ c ∈ s.cmds, c.die = r.die ∧ c.rblk = r.rblk) → ∃ t, exec .halt s = .next t ∧
        t.region s.focus.die s.focus.rblk = some { r with running := false, ctl := .halt })) ∧
    (∀ b, r.ctl = .belay b → belayDue s r b (s.now r.die) = false → exec .belayPass s = .next s) ∧
    (∀ b, r.ctl = .belay b → belayDue s r b (s.now r.die) = true → r.engFaults = [] → r.freeList = [] → r.stage = none →
      (∀ t, s.task r.seq = some t → ∀ d, t.pre ≠ .drain d) →
      ∃ t r', exec .belayPass s = .next t ∧ t.region s.focus.die s.focus.rblk = some r' ∧ r'.running = false)

namespace Sys2Proof.Machine

/-- HALT waits until every write of the task is acknowledged and no command of the region runs. Then its region goes; while regions
remain the task goes on with one more halted, and the last one ends the task: it leaves the task list, its completion record carries
w0, and it has not failed. In a handler the whole task ends as failed (R218, R274). What several regions do at HALT is the model's
reading (log 32). -/
def Claims.HaltEndsTheRegionOrTheTask : Prop :=
  ∀ (s : State) (r : Region) (t0 : Task), Claims.at_ s r → s.Alone → s.task r.seq = some t0 → (r.running = false ∨ r.trapd = true) →
    let quiet : Bool := s.reqs.all (fun q => !(q.isWrite && q.seq s == r.seq)) &&
      s.asks.all (fun a => !(a.who.die == r.die && a.who.rblk == r.rblk && a.what.isNone)) &&
      s.cmds.all fun c => !(c.die == r.die && c.rblk == r.rblk)
    let record (u : State) (failed : Bool) (code : Nat) : State :=
      recordStep u t0.die r.seq t0.done (r.w.getD 0 0) failed code (launchWords 0 0 (fieldNat t0.packet 0 16) 0 0)
    let stopped : State := { abortTask (s.updRegion r.die r.rblk fun x => { x with ctl := .halt }) r.seq with wants := [] }
    (r.running = false → quiet = false → exec .halt s = .next (s.updRegion r.die r.rblk fun x => { x with ctl := .halt })) ∧
    (r.running = false → quiet = true → r.trapd = false → (∃ x ∈ s.regions, x.seq = r.seq ∧ ¬(x.die = r.die ∧ x.rblk = r.rblk)) →
      ∃ t, exec .halt s = .next t ∧ t.region s.focus.die s.focus.rblk = none ∧ t.task r.seq = some { t0 with halted := t0.halted + 1 } ∧
        t.mem = s.mem) ∧
    (r.running = false → quiet = true → r.trapd = false → (∀ x ∈ s.regions, x.seq = r.seq → x.die = r.die ∧ x.rblk = r.rblk) →
      ∃ t u, exec .halt s = .next t ∧ t.region s.focus.die s.focus.rblk = none ∧ t.task r.seq = none ∧
        u.mem = s.mem ∧ ((record u false 0).wants = [] → t.mem = (record u false 0).mem)) ∧
    (r.running = false → quiet = true → r.trapd = true →
      ∃ t, exec .halt s = .next t ∧ t.task r.seq = none ∧ (∀ x ∈ t.regions, x.seq ≠ r.seq) ∧
        ((record stopped true (haltCode r)).wants = [] → t.mem = (record stopped true (haltCode r)).mem))

/-- YIELD asks for the task to be frozen, at the next instruction, where it has a save area and a task of its level or above is queued for
its die; otherwise it does nothing (R217). -/
def Claims.YieldFreezesForAnEqualTask : Prop :=
  ∀ (s : State) (r : Region) (t0 : Task), Claims.at_ s r → s.task r.seq = some t0 → r.running = false →
    let due : Prop := ∃ x ∈ s.tasks, x.die = r.die ∧ x.state = .queued ∧ t0.selPrio ≤ min 7 (x.prio + x.rises)
    let plain := Claims.goes s r (r.pc + 8) 1 id
    (due → t0.packet.getLsbD 52 = true → t0.pre = .no →
      exec .yieldOp s = .next (plain.updTask r.seq fun t => { t with pre := .freeze })) ∧
    (¬due ∨ t0.packet.getLsbD 52 = false ∨ t0.pre ≠ .no → exec .yieldOp s = .next plain)

end Sys2Proof.Machine

/-- HALT waits until every write of the task is acknowledged and no command of the region runs. Then its region goes; while regions
remain the task goes on with one more halted, and the last one ends the task: it leaves the task list, its completion record carries
w0, and it has not failed. In a handler the whole task ends as failed (R218, R274). What several regions do at HALT is the model's
reading (log 32). YIELD asks for the task to be frozen, at the next instruction, where it has a save area and a task of its level or
above is queued for its die; otherwise it does nothing (R217). -/
def Obligations.HaltAndYield : Prop := Sys2Proof.Machine.Claims.HaltEndsTheRegionOrTheTask ∧ Sys2Proof.Machine.Claims.YieldFreezesForAnEqualTask

namespace Sys2Proof.Machine

/-! Configuration commands, reorder stores and stages. -/

/-- A CFG c of region r, the region in focus, is in progress. -/
def Claims.cmdAt (s : State) (r : Region) (c : CfgRun) : Prop := Claims.at_ s r ∧ r.cfg = some c

/-- The command i is applied: it occupies n cycles, changes the region by f and the CFG by g, and the next command follows. -/
def Claims.applied (s : State) (r : Region) (c : CfgRun) (i : Instr) (n : Nat) (f : Region → Region) (g : CfgRun → CfgRun) : Prop :=
  exec i s = .next (s.updRegion r.die r.rblk fun x => { f x with cfg := some { g c with pos := c.pos + 1, at_ := s.now r.die + n } })

/-- A record of die d's fault queue writes nothing to memory: its doorbell is not enabled (Table 22.5). -/
def Claims.silent (s : State) (d : Nat) : Prop := (s.die d).faults.fqdb.getLsbD 0 = false

/-- The command i is CONFIG_ILLEGAL: the CFG ends there, the cells stay, and every RUN traps with the code (R94). -/
def Claims.faulty (s : State) (r : Region) (c : CfgRun) (i : Instr) : Prop :=
  ∃ t, exec i s = .next t ∧ (Claims.silent s r.die → t.mem = s.mem) ∧ t.region s.focus.die s.focus.rblk = some
    { r with cfg := none, runTrap := some fcConfig, pc := c.pc + 8, ctl := .ready (s.now r.die + 1) }

/-- The prefixes of EXTEND, most significant first, above the n low bits of a command (R9). -/
def Claims.extended (c : CfgRun) (low n : Nat) : Nat := c.exts.foldl (fun a e => a * 2 ^ 30 + e.toNat) 0 * 2 ^ n + low

/-- WRITE puts its value into a field of each cell that its cover reaches, in one cycle, or ceil(count / 16) under REPEAT; EXTEND adds
a prefix, SELECT sets base or cover, TOKEN adds an initial token, the first to a port in a CFG replacing its list, START marks
a port. The last command that a CFG counts may only be END, and any other is CONFIG_ILLEGAL (R9, R91 to R95). -/
def Claims.CommandsConfigureCells : Prop :=
  ∀ (s : State) (r : Region) (c : CfgRun) (e : BitVec 30) (b st n cell : BitVec 14) (f : BitVec 6) (v : BitVec 10) (r0 r1 c0 c1 : BitVec 4)
    (k : BitVec 3) (p : BitVec 2) (v9 : BitVec 9), Claims.cmdAt s r c →
    let more := c.pos + 1 ≠ c.count
    let plain := more ∧ c.exts = []
    let alone := plain ∧ c.cover = .none
    let at1 := c.base + cell.toNat
    (more → c.exts.length < 4 → Claims.applied s r c (.extend e) 1 id fun x => { x with exts := c.exts ++ [e] }) ∧
    (4 ≤ c.exts.length → Claims.faulty s r c (.extend e)) ∧
    (plain → Claims.applied s r c (.selectBase b) 1 id fun x => { x with base := b.toNat }) ∧
    (alone → st ≠ 0 → Claims.applied s r c (.selectRepeat st n) 1 id fun x => { x with cover := .rep st.toNat (n.toNat + 1) }) ∧
    (alone → r0.toNat ≤ r1.toNat → c0.toNat ≤ c1.toNat → r1.toNat < r.height → c1.toNat < r.width →
      Claims.applied s r c (.selectBmask r0 r1 c0 c1) 1 id fun x => { x with cover := .mask r0.toNat r1.toNat c0.toNat c1.toNat }) ∧
    (¬alone ∨ st = 0 → Claims.faulty s r c (.selectRepeat st n)) ∧
    (more → c.cover = .none → k ≠ 7 → at1 < r.cellCount → Claims.extended c v9.toNat 9 < 2 ^ 64 →
      ∃ t r', exec (.token k cell p v9) s = .next t ∧ t.region s.focus.die s.focus.rblk = some r' ∧
        r'.cfg = some { c with exts := [], pos := c.pos + 1, at_ := s.now r.die + 1 } ∧ (∀ j, j ≠ at1 → r'.cell j = r.cell j) ∧
        let x := (r.cell at1).cfg
        let y := (r'.cell at1).cfg
        let old := if x.tokNew.getD p.toNat false then x.toks.getD p.toNat [] else []
        y.toks = x.toks.set p.toNat (old ++ [.plain (Kind.ofCode k.toNat) (BitVec.ofNat 64 (Claims.extended c v9.toNat 9))]) ∧
        y.tokNew = x.tokNew.set p.toNat true ∧ y.op = x.op ∧ y.ins = x.ins ∧ y.outs = x.outs ∧ y.starts = x.starts ∧
        (r'.cell at1).rt = (r.cell at1).rt) ∧
    (alone → at1 < r.cellCount →
      ∃ t r', exec (.start cell p) s = .next t ∧ t.region s.focus.die s.focus.rblk = some r' ∧
        r'.cfg = some { c with pos := c.pos + 1, at_ := s.now r.die + 1 } ∧ (∀ j, j ≠ at1 → r'.cell j = r.cell j) ∧
        (r'.cell at1).cfg.starts = (r.cell at1).cfg.starts.set p.toNat true ∧ (r'.cell at1).cfg.op = (r.cell at1).cfg.op ∧
        (r'.cell at1).cfg.toks = (r.cell at1).cfg.toks ∧ (r'.cell at1).rt = (r.cell at1).rt) ∧
    (∀ w ts, more → fieldWidth f.toNat = some w → writeTargets r c cell.toNat = some ts → (∀ j ∈ ts, j < r.cellCount) →
      let val := Claims.extended c v.toNat 10
      val < 2 ^ w → fieldOk r.cellCount f.toNat val = true →
      Claims.applied s r c (.write cell f v) c.writeCycles
        (fun x => ts.foldl (fun x j => x.updCell j fun y => { y with cfg := y.cfg.setField f.toNat val c.pos }) x)
        fun x => { x with exts := [], cover := .none }) ∧
    (c.cover = .none → writeTargets r c cell.toNat = some [at1] ∧ c.writeCycles = 1) ∧
    (∀ d m, c.cover = .rep d m → (∃ ts, writeTargets r c cell.toNat = some ts ∧ ∀ j, j ∈ ts ↔ ∃ q < m, j = at1 + q * d) ∧
      c.writeCycles = (m + 15) / 16) ∧
    (fieldWidth f.toNat = none → Claims.faulty s r c (.write cell f v)) ∧
    (¬more → ∀ i ∈ [Instr.write cell f v, .extend e, .selectBase b, .selectRepeat st n, .selectBmask r0 r1 c0 c1, .token k cell p v9,
      .start cell p], Claims.faulty s r c i)

/-- A WRITE of field 0 gives the cell its operation and clears its initial values, tokens and start marks; fields 1 to 8 bind its
ports, and fields 16 to 31 are its constants (R32, R93, R95). -/
def Claims.FieldsTakeTheirValues : Prop :=
  ∀ (x : CellCfg) (v pos n : Nat),
    (let y := x.setField 0 v pos
     y.op = BitVec.ofNat 40 v ∧ y.rinit = [] ∧ y.sinit = [] ∧ y.tinit = [] ∧ (∀ p, y.toks.getD p [] = []) ∧
     (∀ p, y.starts.getD p false = false) ∧ y.ins = x.ins ∧ y.outs = x.outs ∧ y.consts = x.consts ∧ y.mode = x.mode) ∧
    (1 ≤ n → n ≤ 4 → (x.setField n v pos).ins = x.ins.set (n - 1) (BitVec.ofNat 10 v) ∧ (x.setField n v pos).op = x.op) ∧
    (5 ≤ n → n ≤ 8 → (x.setField n v pos).outs = x.outs.set (n - 5) (BitVec.ofNat 32 v) ∧ (x.setField n v pos).op = x.op) ∧
    (16 ≤ n → n ≤ 31 → (x.setField n v pos).consts = x.consts.set (n - 16) (BitVec.ofNat 64 v) ∧ (x.setField n v pos).op = x.op) ∧
    (32 ≤ n → n ≤ 35 → (x.setField n v pos).binds = x.binds.set (n - 32) (some v)) ∧
    (x.setField 9 v pos).mode = BitVec.ofNat 10 v ∧ (x.setField 10 v pos).leader = BitVec.ofNat 14 v ∧
    (x.setField 11 v pos).lanes = BitVec.ofNat 48 v ∧ (x.setField 12 v pos).keep = BitVec.ofNat 12 v ∧
    (x.setField 13 v pos).memattr = BitVec.ofNat 10 v

end Sys2Proof.Machine

/-- WRITE puts its value into a field of each cell that its cover reaches, in one cycle, or ceil(count / 16) under REPEAT; EXTEND
adds a prefix, SELECT sets base or cover, TOKEN adds an initial token, the first to a port in a CFG replacing its list, START marks
a port. The last command that a CFG counts may only be END, and any other is CONFIG_ILLEGAL (R9, R91 to R95). A WRITE of field 0
gives the cell its operation and clears its initial values, tokens and start marks; fields 1 to 8 bind its ports, and fields 16 to
31 are its constants (R32, R93, R95). -/
def Obligations.CommandsConfigureTheirCells : Prop := Sys2Proof.Machine.Claims.CommandsConfigureCells ∧ Sys2Proof.Machine.Claims.FieldsTakeTheirValues

namespace Sys2Proof.Machine

/-- END ends a CFG: the order table behind its commands takes effect, and every cell takes its start state. With no failed check RUN is
free to go; with one, its code is posted and every RUN traps with it until a clean CFG. The controller goes on after the CFG
(R32, R48, R94, R342). Where a bad order table ranks among the failures is the model's choice (log 59), and so is which of two failures
that name one field comes first (log 65). -/
def Claims.EndChecksAndRebuilds : Prop :=
  ∀ (s s1 : State) (r : Region) (c : CfgRun) (tb : Option (List (Option OMap))), Claims.cmdAt s r c → c.exts = [] → c.cover = .none →
    (c.pos + 1 ≠ c.count → Claims.faulty s r c .cfgEnd) ∧
    (c.pos + 1 = c.count → readTable s r (4 * (c.off + c.count)) = (some tb, s1) → Claims.at_ s1 r → s1.focus = s.focus →
      let x := { r with orders := tb.getD r.orders }
      let s2 := match tb with
        | some t => s1.updRegion r.die r.rblk fun r => { r with orders := t }
        | none => s1
      let args := match s1.task r.seq with | some t => t.args | none => []
      (tb ≠ none → firstFail s2 x c.pos = none → ∃ t, exec .cfgEnd s = .next t ∧ t.mem = s1.mem ∧
        t.region s.focus.die s.focus.rblk = some { x with
          cells := r.cells.map fun j => (j.1, startCell args j.2)
          stores := r.stores.map Store.fresh
          passes := 0
          passNext := 0
          runTrap := none
          cfg := none
          pc := c.pc + 8
          ctl := .ready (s1.now r.die + 1) }) ∧
      (∀ f, firstFail s2 x c.pos = some f → ∃ t r', exec .cfgEnd s = .next t ∧ (Claims.silent s1 r.die → t.mem = s1.mem) ∧
        t.region s.focus.die s.focus.rblk = some r' ∧ r'.runTrap = some f.code ∧ r'.cfg = none ∧ r'.pc = c.pc + 8 ∧ r'.w = r.w ∧
        r'.orders = x.orders ∧ r'.stores = r.stores.map Store.fresh ∧
        (r.die < s1.dies.length → (s1.die r.die).faults.recs.length < Config.faultQueueSize →
          ∃ y, (t.die r.die).faults.recs = addRecord (s1.die r.die).faults.recs y ∧ fieldNat y 0 8 = f.code % 2 ^ 8)))

/-- The start state of a cell (R32): registers are zero but for its initial values, k registers take their bound arguments, local memory
keeps the granules of its keep map, and its ports hold its initial tokens. That the dither phase starts at 0 here, and not at the RUN, is
the model's choice (log 58). -/
def Claims.CellsStartAsConfigured : Prop :=
  ∀ (args : List Cap) (x : Cell), x.cfg.rinit = [] → x.cfg.sinit = [] → x.cfg.tinit = [] →
    let y := startCell args x
    y.cfg = x.cfg ∧ y.rt = { CellRt.reset with
      lmem := x.rt.lmem.filter fun b => x.cfg.keep.getLsbD (b.1 / 4096)
      full := x.rt.full.filter fun w => x.cfg.keep.getLsbD (w / 512)
      k := x.cfg.binds.map fun b => match b with | some n => args.getD n .none | none => .none
      ports := x.cfg.toks.map fun l => { Port.empty with q := l } }

end Sys2Proof.Machine

/-- END ends a CFG: the order table behind its commands takes effect, and every cell takes its start state. With no failed check RUN
is free to go; with one, its code is posted and every RUN traps with it until a clean CFG. The controller goes on after the CFG
(R32, R48, R94, R342). Where a bad order table ranks among the failures is the model's choice (log 59), and so is which of two
failures that name one field comes first (log 65). The start state of a cell (R32): registers are zero but for its initial values, k
registers take their bound arguments, local memory keeps the granules of its keep map, and its ports hold its initial tokens. That
the dither phase starts at 0 here, and not at the RUN, is the model's choice (log 58). -/
def Obligations.ConfigurationsEnd : Prop := Sys2Proof.Machine.Claims.EndChecksAndRebuilds ∧ Sys2Proof.Machine.Claims.CellsStartAsConfigured

namespace Sys2Proof.Machine

/-- A JOIN at pc faults: the controller stops there until system software acts (R60, R220). -/
def Claims.joinStops (s : State) (r : Region) (i : Instr) (now : Nat) : Prop :=
  ∃ t, exec i s = .next t ∧ t.region s.focus.die s.focus.rblk = some { r with frozen := .sysTrap, ctl := .ready now }

/-- JOIN.REORDER, its descriptor read and its checks passed, waits ceil(P / 64) cycles with an empty store of the least size; then the
store is attached in place of those at the same consumer ports. JOIN without REORDER goes on when the two orders are equal.
UNJOIN releases the stores at the consumer ports and unbinds the producers' destinations. A failed check stops the controller
(R49 to R53, R208 to R210). -/
def Claims.JoinsAttachAndReleaseStores : Prop :=
  ∀ (s s1 : State) (r : Region) (j : FmtJ) (d : JoinDesc), Claims.at_ s r → r.running = false →
    readDesc s r j.desc = (some d, s1) → Claims.at_ s1 r → s1.focus = s.focus →
    let po := r.order j.pord.toNat
    let co := r.order j.cord.toNat
    let kept := r.stores.filter fun st => !st.shares d.lanes
    (∀ pj cj per n grans far, joinChecks d po co = .ok pj cj per n →
      let g := (n * (8 * 2 ^ j.width.toNat) + 511) / 512
      storeSpace s1 r d.lanes g (j.far == 1) = some (grans, far) →
      ∃ t st, exec (.joinReorder j) s = .next t ∧ t.mem = s1.mem ∧
        t.region s.focus.die s.focus.rblk = some { r with ctl := .join st (s1.now r.die + (per.size + 63) / 64) } ∧
        st.lanes = d.lanes ∧ st.pjoin = pj ∧ st.cjoin = cj ∧ st.period = per ∧ st.width = 8 * 2 ^ j.width.toNat ∧
        st.granules = g ∧ st.grans = grans ∧ st.far = far ∧ st.held = [] ∧ st.admitted = 0 ∧ st.issued = 0 ∧ st.eot = false ∧
        st.stopped = false ∧ ∀ p ∈ st.inq, p.q = []) ∧
    (∀ code p g, joinChecks d po co = .bad code p g → Claims.joinStops s r (.joinReorder j) (s1.now r.die)) ∧
    (∀ p c, j.far = 0 → po = some p → co = some c → d.bad = false → (∀ b ∈ d.bounds, boundOk p c b = true) →
      d.lanes.length = p.lanes → p.same c = true → exec (.joinCheck j) s = .next (Claims.goes s1 r (r.pc + 8) 1 id)) ∧
    (∀ p c, j.far = 0 → po = some p → co = some c → p.same c = false → Claims.joinStops s r (.joinCheck j) (s1.now r.die)) ∧
    (j.pord = 0 → j.cord = 0 → j.width = 0 → j.far = 0 → ∃ t r', exec (.unjoin j) s = .next t ∧
      t.region s.focus.die s.focus.rblk = some r' ∧ r'.stores = kept ∧ r'.pc = r.pc + 8 ∧ r'.w = r.w ∧
      (∀ l ∈ d.lanes, l.pcell < r.cellCount → ((r'.cell l.pcell).cfg).outs.getD l.pout 0 = 0) ∧
      (∀ n, (∀ l ∈ d.lanes, l.pcell ≠ n) → r'.cell n = r.cell n) ∧ t.mem = s1.mem)

/-- The end of a JOIN.REORDER: before its cycle nothing happens; from it on the store is attached, and those at the same consumer ports
are gone with their far granules (R49, R52, R53). -/
def Claims.JoinCompletionAttachesTheStore : Prop :=
  ∀ (s : State) (r : Region) (st : Store) (due : Nat), Claims.at_ s r → r.ctl = .join st due → r.die < s.dies.length →
    (s.now r.die < due → exec .joinComplete s = .next s) ∧
    (due ≤ s.now r.die → ∃ t, exec .joinComplete s = .next t ∧ t.mem = s.mem ∧
      t.region s.focus.die s.focus.rblk = some { r with
        stores := (r.stores.filter fun x => !x.shares st.lanes) ++ [st]
        pc := r.pc + 8
        ctl := .ready (s.now r.die + 1) } ∧
      (t.die r.die).poolUsed = (s.die r.die).poolUsed - sharedFar r st.lanes)

end Sys2Proof.Machine

/-- JOIN.REORDER, its descriptor read and its checks passed, waits ceil(P / 64) cycles with an empty store of the least size; then
the store is attached in place of those at the same consumer ports. JOIN without REORDER goes on when the two orders are equal.
UNJOIN releases the stores at the consumer ports and unbinds the producers' destinations. A failed check stops the controller (R49
to R53, R208 to R210). The end of a JOIN.REORDER: before its cycle nothing happens; from it on the store is attached, and those at
the same consumer ports are gone with their far granules (R49, R52, R53). -/
def Obligations.JoinsBuildAndReleaseStores : Prop := Sys2Proof.Machine.Claims.JoinsAttachAndReleaseStores ∧ Sys2Proof.Machine.Claims.JoinCompletionAttachesTheStore

/-- A reorder store admits a producer vector when every lane offers a VAL and its issue has come that far, takes markers in place,
and fills a run closed early with voids. It sends the next consumer vector two cycles later, each lane the element that the period
names, once it is admitted; an EOR after each run; and the EOT at the end, when it is empty again (R54 to R56). The latency of its
output is the model's choice (log 15); that headers pass it ahead of their vector, and that its counters start anew behind the EOT, is
the model's reading (log 51). -/
def Obligations.ReorderStoresAdmitAndIssue : Prop :=
  ∀ (s : State) (r : Region) (st : Store), Claims.at_ s r → r.stores[s.focus.id]? = some st → r.live = true → st.stopped = false →
    let t := s.now r.die
    let i := s.focus.id
    let after (e : Instr) (x : Store) : Prop := ∃ u, exec e s = .next u ∧ u.mem = s.mem ∧
      u.region s.focus.die s.focus.rblk = some { r with stores := r.stores.set i x, lastAct := max r.lastAct t }
    let popped : Store := { st with inq := st.inq.map (fun p => p.pop t), home := st.home || st.inq.any fun p => match p.q with | k :: _ => k.home | [] => false }
    let due := st.period.issueTime st.next st.issued
    (st.eot = false → st.pad = 0 → st.judge r t = .vals → st.admitted + 1 ≤ due →
      after .reorderStoreAdmit { popped with
        held := st.held ++ ((List.range st.inq.length).zip st.inq).map fun x =>
          ⟨st.admitted, x.1, match x.2.q with | k :: _ => BitVec.ofNat 64 (k.pay.toNat % 2 ^ st.width) | [] => 0,
            match x.2.q with | k :: _ => k.void | [] => true, match x.2.q with | k :: _ => k.hid | [] => .none⟩
        admitted := st.admitted + 1
        inRun := st.inRun + 1 }) ∧
    (st.eot = false → st.pad = 0 → st.judge r t = .eor →
      after .reorderStoreAdmit { popped with pad := st.pjoin.runLen - st.inRun, inRun := 0 }) ∧
    (st.eot = false → st.pad = 0 → st.judge r t = .eot → after .reorderStoreAdmit { popped with eot := true }) ∧
    (st.eot = true ∨ st.pad = 0 ∧ (st.judge r t = .wait ∨ st.judge r t = .vals ∧ due < st.admitted + 1) →
      exec .reorderStoreAdmit s = .next s) ∧
    ((st.lanes.map fun l => (l.ccell, l.cin)).Nodup →
      (∀ l ∈ st.lanes, l.cin < (r.cell l.ccell).rt.ports.length ∧ l.ccell < r.cellCount ∧ laneRoom r t l = true ∧
        (r.cell l.ccell).rt.lost = false) →
      let sent (k : Nat → LaneLink → Token) (x : Store) : Prop := ∃ u r', exec .reorderStoreIssue s = .next u ∧
        u.region s.focus.die s.focus.rblk = some r' ∧ u.mem = s.mem ∧ r'.stores = r.stores.set i x ∧
        (∀ j l, st.lanes[j]? = some l → ((r'.cell l.ccell).rt.port l.cin).q =
          ((r.cell l.ccell).rt.port l.cin).q ++ [{ k j l with born := t + 2, home := st.home }]) ∧
        ∀ n, (∀ l ∈ st.lanes, l.ccell ≠ n) → r'.cell n = r.cell n
      let src (j : Nat) := st.period.source j st.issued
      (st.owedEor = true → sent (fun _ _ => .plain .eor 0) { st with owedEor := false }) ∧
      (∀ hs rest, st.owedEor = false → st.hdrs = (st.issued, hs) :: rest →
        sent (fun j _ => .plain .hdr (hs.getD j 0)) { st with hdrs := rest }) ∧
      (st.owedEor = false → st.hdrs = [] → due ≤ st.admitted → ¬(st.eot = true ∧ st.issued = st.admitted) →
        ∀ el : Nat → StoreEl,
          (∀ j < st.lanes.length, st.held.find? (fun x => x.lane == (src j).1 && x.vec == (src j).2) = some (el j)) →
          sent (fun j l => if (el j).void then .voidVal else
              { Token.plain .val (rebuild (r.cell l.ccell).cfg l.cin st.width (el j).bits) with hid := (el j).hid })
            { st with
              held := st.held.filter fun y => !((List.range st.lanes.length).map src).contains (y.lane, y.vec)
              issued := st.issued + 1
              next := due + 1
              owedEor := (st.issued + 1) % st.cjoin.runLen == 0 }) ∧
      (st.owedEor = false → st.hdrs = [] → st.eot = true → st.issued = st.admitted →
        sent (fun _ _ => .plain .eot 0) { st.fresh with inq := st.inq }))

namespace Sys2Proof.Machine

/-- SETSTAGE.DECL and SETQ, in region 0 ahead of its ENTER with no pitch running, give a stage its entry or a queue; a stage number
above 255, an entry that is not 8-aligned, a queue bound twice, or any other place is ILLEGAL_OP, and a header that breaks a rule is
a JOIN fault (R213, R282). What counts as undeclared is the model's reading (log 29). -/
def Claims.StagesAreDeclaredAndBound : Prop :=
  ∀ (s : State) (r : Region) (g : FmtG) (t0 : Task), Claims.at_ s r → s.Alone → s.task r.seq = some t0 →
    let b := (Claims.opB r g).toNat
    let e := (r.w.getD g.wa.toNat 0).toNat
    let may := r.running = false ∧ r.num = 0 ∧ t0.entered = false
    let gives (u : State) (f : Stage → Prop) : Prop := ∃ k, u.task r.seq = some k ∧ (∃ x ∈ k.stages, x.num = b ∧ f x) ∧
      (∀ x ∈ t0.stages, x.num ≠ b → x ∈ k.stages) ∧ k.args = t0.args
    let next (u : State) : Prop := u.region s.focus.die s.focus.rblk =
      some { r with pc := r.pc + 8, ctl := .ready (s.now r.die + 1) }
    (may → b < 256 → e % 8 = 0 → ∃ u, exec (.setstageDecl g) s = .next u ∧ next u ∧ gives u fun x => x.entry = some e) ∧
    (¬may ∨ 256 ≤ b ∨ e % 8 ≠ 0 → Claims.illegal s r (.setstageDecl g)) ∧
    (¬may ∨ 256 ≤ b → Claims.illegal s r (.setqIn g) ∧ Claims.illegal s r (.setqOut g)) ∧
    ∀ ws s1, may → b < 256 → ctlReads s r (s.arg r.seq g.slot.toNat) e rRead 8 = (some ws, s1) → s1.wants = [] → Claims.at_ s1 r →
      s1.focus = s.focus → s1.task r.seq = some t0 → s1.now r.die = s.now r.die →
      (bindingClash s t0 b g.slot.toNat e true = false → queueOk r ws = true →
        ∃ u, exec (.setqIn g) s = .next u ∧ next u ∧ gives u fun x => x.inq = some (g.slot.toNat, e)) ∧
      (bindingClash s t0 b g.slot.toNat e false = false → queueOk r ws = true →
        ∃ u, exec (.setqOut g) s = .next u ∧ next u ∧ gives u fun x => x.outq = some (g.slot.toNat, e)) ∧
      (bindingClash s t0 b g.slot.toNat e true = false → queueOk r ws = false → Claims.joinStops s r (.setqIn g) (s.now r.die)) ∧
      (bindingClash s t0 b g.slot.toNat e false = false → queueOk r ws = false → Claims.joinStops s r (.setqOut g) (s.now r.die))

/-- What a region at its ENTER comes to, through instruction i, once region 0 has entered: where the scheduler chooses a stage, the region
goes on at the stage's entry, with i0 the data records it may consume, up to the first boundary behind those that are consumed, and
i1 those it may write, and the cursors of the stage's slots at them. With no stage to choose it waits while a body runs; where none
runs, staging ends for it (R283, R285, R286). -/
def Claims.scheduled (s : State) (r : Region) (t0 : Task) (i : Instr) : Prop :=
  let s0 := if r.num = 0 then s.updTask r.seq fun t => { t with entered := true } else s
  ∀ vs s1, viewStages s0 r t0.stages = (some vs, s1) → s1.wants = [] → Claims.at_ s1 r → s1.focus = s.focus →
    let body := ∃ x ∈ s1.regions, x.seq = r.seq ∧ x.stage.isSome ∧ x.ctl ≠ .stage ∧ ¬(x.die = r.die ∧ x.rblk = r.rblk)
    (∀ v iq oq s2, chooseStage vs r.stage = some v → openQueues s1 r v = (some (iq, oq), s2) → s2.wants = [] → Claims.at_ s2 r →
      s2.focus = s.focus →
      let n := match iq with | some (_, d) => d | none => 0
      let f := match oq with | some q => min (q.nrec - (q.tail - q.head) - 1) (q.nrec - q.tail % q.nrec) | none => 0
      ∃ u, exec i s = .next u ∧ u.region s.focus.die s.focus.rblk = some { r with
        pc := v.stage.entry.getD 0
        ctl := .ready (s2.now r.die + 1)
        i := (r.i.set 0 (BitVec.ofNat 32 n)).set 1 (BitVec.ofNat 32 f)
        stage := some v.stage.num } ∧
      ∀ q k, oq = some q → s2.task r.seq = some k → q.slot < k.args.length → ∃ k', u.task r.seq = some k' ∧
        k'.args.getD q.slot .none = (k.args.getD q.slot .none).withCursor (q.ofs + 64 + q.rsz * 64 * (q.tail % q.nrec) + 8)) ∧
    (chooseStage vs r.stage = none → body → ∃ u, exec i s = .next u ∧ u.region s.focus.die s.focus.rblk = some { r with ctl := .stage }) ∧
    (chooseStage vs r.stage = none → ¬body → (∀ x ∈ s1.regions, x.die = r.die → x.rblk = r.rblk → x = r) →
      ∃ u, exec i s = .next u ∧ u.region s.focus.die s.focus.rblk = some { r with
        pc := r.pc + 8
        ctl := .ready (s1.now r.die + 1)
        i := (r.i.set 0 0).set 1 0
        stage := none })

/-- SETSTAGE.ENTER of region 0 looks for a stage; another region waits for region 0's, and a waiting region is looked at again. A stage
that is undeclared makes ENTER ILLEGAL_OP. A chosen stage is eligible, and the region's last stage is chosen while it is (R213,
R285). The model's reading of stages is log 29. -/
def Claims.RegionsEnterStages : Prop :=
  (∀ (s : State) (r : Region) (g : FmtG) (t0 : Task), Claims.at_ s r → s.Alone → s.task r.seq = some t0 → r.running = false →
    let declared := ∀ x ∈ t0.stages, x.entry ≠ none
    (r.num = 0 ∨ t0.entered = true → declared → Claims.scheduled s r t0 (.setstageEnter g)) ∧
    (r.num = 0 ∨ t0.entered = true → ¬declared → Claims.illegal s r (.setstageEnter g)) ∧
    (r.num ≠ 0 → t0.entered = false →
      exec (.setstageEnter g) s = .next (s.updRegion r.die r.rblk fun x => { x with ctl := .stage })) ∧
    (r.ctl = .stage → t0.entered = true → declared → Claims.scheduled s r t0 .stageResume) ∧
    (r.ctl = .stage → t0.entered = true → ¬declared → Claims.illegal s r .stageResume) ∧
    (r.ctl ≠ .stage ∨ t0.entered = false → exec .stageResume s = .next s)) ∧
  ∀ (vs : List StageView) (last : Option Nat),
    (∀ v, chooseStage vs last = some v → v ∈ vs ∧ v.eligible = true) ∧
    (∀ v ∈ vs, v.eligible = true → last = some v.stage.num → ∃ x, chooseStage vs last = some x ∧ last = some x.stage.num) ∧
    ((∀ v ∈ vs, v.eligible = false) → chooseStage vs last = none)

end Sys2Proof.Machine

/-- SETSTAGE.DECL and SETQ, in region 0 ahead of its ENTER with no pitch running, give a stage its entry or a queue; a stage number
above 255, an entry that is not 8-aligned, a queue bound twice, or any other place is ILLEGAL_OP, and a header that breaks a rule is
a JOIN fault (R213, R282). What counts as undeclared is the model's reading (log 29). SETSTAGE.ENTER of region 0 looks for a stage;
another region waits for region 0's, and a waiting region is looked at again. A stage that is undeclared makes ENTER ILLEGAL_OP. A
chosen stage is eligible, and the region's last stage is chosen while it is (R213, R285). The model's reading of stages is log 29.
-/
def Obligations.StagesAreDeclaredAndEntered : Prop := Sys2Proof.Machine.Claims.StagesAreDeclaredAndBound ∧ Sys2Proof.Machine.Claims.RegionsEnterStages

namespace Sys2Proof.Machine

/-! Islands: the order of commands, the matrix commands and the streamer commands. -/

/-- The command in focus is c, its words are w, it runs and acts in this cycle; nothing of it is under way with other modules (R315). -/
structure EngineReady (s : State) (c : Cmd) (w : EngWords) : Prop where
  command : s.cmd s.focus.id = some c
  words : c.words = w
  runs : c.stage = .running
  due : c.due ≤ s.now c.die
  die : c.die < s.dies.length
  alone : s.Alone

/-- The command in focus afterwards. -/
def Claims.left (s t : State) : Option Cmd := t.cmd s.focus.id

/-- After step i the command is gone with a fault of this code: it is noted with its region for the BELAY, and memory and the island
stay (R104, R206, R246). -/
def Claims.fails (s : State) (c : Cmd) (i : Instr) (code : Nat) : Prop :=
  ∃ t, exec i s = .next t ∧ Claims.left s t = none ∧ (Claims.silent s c.die → t.mem = s.mem) ∧ (t.die c.die).matrix = (s.die c.die).matrix ∧
    ∀ r, c.rblk ≠ detached → s.region c.die c.rblk = some r → ∃ r', t.region c.die c.rblk = some r' ∧
      r'.engFaults.length = r.engFaults.length + 1 ∧ (∀ x ∈ r.engFaults, x ∈ r'.engFaults) ∧
      ∃ x ∈ r'.engFaults, x.code = code ∧ x.vec = vectorCode code ∧ x.found = s.now c.die

/-- After step i the command has done its work in this cycle, and the island is x. -/
def Claims.finishes (s : State) (c : Cmd) (i : Instr) (x : MIsland) : Prop :=
  ∃ t, exec i s = .next t ∧ Claims.left s t = some { c with stage := .complete, due := s.now c.die } ∧ t.mem = s.mem ∧
    (t.die c.die).island c.isl = x ∧ ∀ j, j ≠ c.isl → (t.die c.die).island j = (s.die c.die).island j

end Sys2Proof.Machine

/-- A decoded command starts once no earlier command of its port that is still at work conflicts with it, its island's ports are not
frozen and a multiplication has the array; otherwise it waits. An MLOAD that has faulted and consumes the rest of its stream is in
conflict with nothing, which is the model's reading (log 35). A complete command leaves once its writes on other modules are
acknowledged, its done token entering its port once that has a free slot (R232, R234, R235, R249, R252). -/
def Obligations.IslandCommandsStartAndComplete : Prop :=
  ∀ (s : State) (c : Cmd), s.cmd s.focus.id = some c →
    let t := s.now c.die
    let free := c.decodedAt < t ∧ (∀ x ∈ s.cmds, x.samePort c = true → x.id < c.id →
      (x.stage = .complete ∧ x.due < t ∧ s.asking (cmdFocus x.id) = false) ∨
      (c.target = 2 ∧ (x.stage = .draining ∨ (x.touch (touchKt s x)).conflict (c.touch (touchKt s c)) = false)))
    let array := c.isMul = true → ∀ x ∈ s.cmds, x.sameIsland c = true → x.isMul = true → x.id ≠ c.id →
      x.stage ≠ .running ∧ ¬(cmdReady s x t = true ∧ arrayFirst x c = true)
    let open_ := islandFrozen s c.die c.target c.isl c.rblk = false ∧
      (c.target = 2 → ∃ r, s.region c.die c.rblk = some r ∧ r.held = false)
    (c.stage = .decoded → free → array → open_ → ∃ u x, exec .engineCommandStart s = .next u ∧ Claims.left s u = some x ∧
      x = { c with stage := .running, ticket := s.module.nextCmd, due := x.due } ∧ t ≤ x.due ∧ u.regions = s.regions ∧
      u.mem = s.mem ∧ u.dies = s.dies) ∧
    (c.stage ≠ .decoded ∨ ¬free ∨ ¬array ∨ ¬open_ → exec .engineCommandStart s = .next s) ∧
    let over_ := c.stage = .complete ∧ c.due < t ∧ s.asking (cmdFocus c.id) = false
    (over_ → c.done = false → exec .engineCommandComplete s = .next (s.dropCmd c.id)) ∧
    (∀ r, over_ → c.done = true → s.region c.die c.rblk = some r → (r.cell c.dcell).rt.lost = false →
      c.doneport < (r.cell c.dcell).rt.ports.length →
      (returnRoom r c.dcell c.doneport t = true → ∃ u r', exec .engineCommandComplete s = .next u ∧ Claims.left s u = none ∧
        u.region c.die c.rblk = some r' ∧ ((r'.cell c.dcell).rt.port c.doneport).q =
          ((r.cell c.dcell).rt.port c.doneport).q ++ [{ Token.plain .ctl 0 with born := t, home := !c.isMatrix }] ∧
        ∀ j, j ≠ c.dcell → r'.cell j = r.cell j) ∧
      (returnRoom r c.dcell c.doneport t = false → exec .engineCommandComplete s = .next s)) ∧
    (¬over_ → exec .engineCommandComplete s = .next s)

namespace Sys2Proof.Machine

/-- MCLAIM gives its task every slot and tile that it names, unset and zero, or is SLOT_BUSY where one is held; MRELEASE frees those that
its task holds, or is ENGINE_ILLEGAL where it does not hold one. MDRAIN adds a tile to one of the same anchor, or gives an unset
one its anchor, in the cycle after its ring trip; a different anchor is ANCHOR (R237, R242). -/
def Claims.ClaimsAndMergesChangeTheirTiles : Prop :=
  ∀ (s : State) (c : Cmd) (w : EngWords), EngineReady s c w → c.isLoad = false →
    let x := (s.die c.die).island c.isl
    (((∀ n ∈ c.claimSlots, (x.slot n).owner = 0) ∧ (∀ n ∈ c.amask, (x.tile n).owner = 0) →
      ∃ y, Claims.finishes s c (.mclaim w) y ∧
        (∀ n, y.slot n = if n ∈ c.claimSlots then { Slot.empty with owner := c.seq } else x.slot n) ∧
        ∀ n, y.tile n = if n ∈ c.amask then { Tile.empty with owner := c.seq } else x.tile n) ∧
     ((∃ n ∈ c.claimSlots, (x.slot n).owner ≠ 0) ∨ (∃ n ∈ c.amask, (x.tile n).owner ≠ 0) →
      Claims.fails s c (.mclaim w) fcSlotBusy)) ∧
    (((∀ n ∈ c.claimSlots, (x.slot n).owner = c.seq) ∧ (∀ n ∈ c.amask, (x.tile n).owner = c.seq) →
      ∃ y, Claims.finishes s c (.mrelease w) y ∧
        (∀ n, y.slot n = if n ∈ c.claimSlots then .empty else x.slot n) ∧ ∀ n, y.tile n = if n ∈ c.amask then .empty else x.tile n) ∧
     ((∃ n ∈ c.claimSlots, (x.slot n).owner ≠ c.seq) ∨ (∃ n ∈ c.amask, (x.tile n).owner ≠ c.seq) →
      Claims.fails s c (.mrelease w) fcEngine)) ∧
    let src := x.tile c.accTile
    let j := c.f1 58 6
    let dst := ((s.die c.die).island j).tile (c.f1 54 4)
    let held := src.owner = c.seq ∧ dst.owner = c.seq ∧ src.anchor ≠ none
    (c.begun = false → held → ∃ u, exec (.mdrain w) s = .next u ∧ Claims.left s u =
      some { c with begun := true, due := s.now c.die + 3 * ringHops c.isl j + 63 } ∧ u.dies = s.dies) ∧
    (¬held → Claims.fails s c (.mdrain w) fcEngine) ∧
    (c.begun = true → held → dst.anchor ≠ none → dst.anchor ≠ src.anchor → Claims.fails s c (.mdrain w) fcAnchor) ∧
    (c.begun = true → held → dst.anchor = none ∨ dst.anchor = src.anchor → ¬(j = c.isl ∧ c.f1 54 4 = c.accTile) →
      ∃ u, exec (.mdrain w) s = .next u ∧ Claims.left s u = some { c with stage := .complete, due := s.now c.die } ∧ u.mem = s.mem ∧
        let d' := ((u.die c.die).island j).tile (c.f1 54 4)
        d'.owner = c.seq ∧ d'.anchor = src.anchor ∧
        (dst.anchor = none → ∀ i, d'.ent i = src.ent i) ∧
        (dst.anchor ≠ none → ∀ i < 4096, (d'.ent i).t = (dst.ent i).t + (src.ent i).t ∧
          (d'.ent i).cls = (dst.ent i).cls.join (src.ent i).cls) ∧
        ((u.die c.die).island c.isl).tile c.accTile = if c.clr then { src with anchor := none, ents := [] } else src)

/-- A started MLOAD that holds its slot or tile reads its data port, a token of a lane in a cycle: an element is put at its
coordinates, or at its entry index for ROLE 3; the EOT begins the commit, four cycles, or one for each 64 elements. The commit fills
the slot and its descriptor, or adds the elements to the tile (R236, R238, R239). When an order is judged is the model's reading
(log 36). -/
def Claims.LoadsFillSlotsAndTiles : Prop :=
  ∀ (s : State) (c : Cmd) (r : Region) (w : EngWords) (l : LaneRd) (i : IPort) (k : Token) (m : OMap), s.cmd s.focus.id = some c →
    c.words = w → c.die < s.dies.length → s.region c.die c.rblk = some r →
    let t := s.now c.die
    let x := (s.die c.die).island c.isl
    let op : Instr := if c.role = 3 then .mloadAccumulate w else .mload w
    let goes (c' : Cmd) : Prop := ∃ u, exec op s = .next u ∧ Claims.left s u = some c' ∧ u.mem = s.mem ∧
      (u.die c.die).matrix = (s.die c.die).matrix ∧ u.iports.find? (·.is c.die 2 c.isl c.rblk c.dport 0) = some (i.pop t)
    (c.stage = .running → c.begun = true → r.held = false → portServes s c = true → c.isLoad = true → c.lanes = [l] → l.fin = false →
      dataOrder r c.isl c.dport = some m → s.iports.find? (·.is c.die 2 c.isl c.rblk c.dport 0) = some i → i.head t = some k →
      (∀ p ∈ s.iports, ∀ j, p.is c.die 2 c.isl c.rblk c.dport j = true → j = 0) →
      (k.kind = .hdr → l.opened = false → c.hdr = none → loadHdrOk c.role m k.pay = true →
        goes { c with hdr := some k.pay, lanes := [{ l with opened := true }] }) ∧
      (k.kind = .val → k.void = false → l.opened = true → c.role ≠ 3 → l.inRun < m.runLen → l.cyc < m.cycles →
        (∃ h, c.hdr = some h ∧ hdrScale h = 0) →
        goes { c with
          lanes := [{ l with cyc := l.cyc + 1, inRun := l.inRun + 1 }]
          buf := c.buf ++ [⟨(m.coords 0 l.cyc).getD 0 0, (m.coords 0 l.cyc).getD 1 0, k.pay⟩] }) ∧
      (k.kind = .val → k.void = false → l.opened = true → c.role = 3 → c.buf.length < 1024 → fieldNat k.pay 44 20 = 0 →
        goes { c with buf := c.buf ++ [⟨fieldNat k.pay 32 12, 0, k.pay⟩] }) ∧
      (k.kind = .eor → l.opened = true → c.role ≠ 3 → l.inRun = m.runLen → goes { c with lanes := [{ l with inRun := 0 }] }) ∧
      (k.kind = .eot → l.opened = true → c.role ≠ 3 → l.inRun = 0 → l.cyc = m.cycles →
        goes { c with lanes := [{ l with fin := true }], stage := .commit, due := t + 4 }) ∧
      (k.kind = .eot → l.opened = true → c.role = 3 → c.buf ≠ [] →
        goes { c with lanes := [{ l with fin := true }], stage := .commit, due := t + (c.buf.length + 63) / 64 })) ∧
    (c.stage = .commit → t < c.due → exec .mloadCommit s = .next s) ∧
    (c.stage = .commit → c.due ≤ t → c.role ≠ 3 → ∃ y, Claims.finishes s c .mloadCommit y ∧ y.tiles = x.tiles ∧
      (∀ n, n ≠ c.f0 48 8 → y.slot n = x.slot n) ∧
      let z := y.slot (c.f0 48 8)
      let h := c.hdr.getD 0
      z.owner = c.seq ∧ z.loaded = true ∧ z.role = c.role ∧ z.fmt = hdrFmt h ∧ (z.scaled = true ↔ hdrScale h = 1) ∧
      (c.buf = [] → ∀ n, z.byte n = 0) ∧
      (∀ e, c.buf = [e] → tyWidth (hdrFmt h) = 8 → z.byte (elIndex c.role (classKt (hdrFmt h)) e.x0 e.x1) =
        if elIndex c.role (classKt (hdrFmt h)) e.x0 e.x1 < 8192 then fieldNat e.pay 0 8 else 0)) ∧
    (∀ a e, c.stage = .commit → c.due ≤ t → c.role = 3 → (x.tile (c.f0 40 4)).anchor = some a → c.buf = [e] →
      (x.tile (c.f0 40 4)).owner = c.seq → ∃ y, Claims.finishes s c .mloadCommit y ∧ y.slots = x.slots ∧
        (∀ n, n ≠ c.f0 40 4 → y.tile n = x.tile n) ∧ (y.tile (c.f0 40 4)).anchor = some a ∧
        (y.tile (c.f0 40 4)).ent e.x0 = ((x.tile (c.f0 40 4)).ent e.x0).add a.toInt (decodeF 9 (fieldNat e.pay 0 32)) ∧
        ∀ n, n ≠ e.x0 → (y.tile (c.f0 40 4)).ent n = (x.tile (c.f0 40 4)).ent n)

/-- A step of MMA or MMAS adds to each entry (m, n) the products of A's row m and B's column n, the column's element being that of
the same logical k; MMAS reads k from the metadata. The last step completes the command, any other is followed by one 64 cycles
later. A start checks the claims, sets a fresh tile's anchor, and goes on to the first step; a failed check is ENGINE_ILLEGAL (R240,
R241, R245). The cycles of a step and the product table are the model's reading (log 15, log 35). -/
def Claims.MultiplicationsAccumulate : Prop :=
  ∀ (s : State) (c : Cmd) (r : Region) (w : EngWords), EngineReady s c w → c.isMul = true → s.region c.die c.rblk = some r →
    let op : Instr := if c.eop = 0x10 then .mma w else .mmas w
    let x := (s.die c.die).island c.isl
    let a := c.aSlot c.item
    let kt := classKt (x.slot a).fmt
    let logical (m k : Nat) : Nat := if c.eop = 0x10 then k else
      let n := metaNibble c x kt c.item m (k / 2)
      4 * (k / 2) + (if k % 2 = 0 then n % 4 else n / 4)
    let table (b : Slot) := if (x.slot a).fmt = 14 then productTable (x.slot a).book b.book else x.table
    let old := x.tile c.accTile
    (c.begun = true → kt ≠ 0 → ∃ u c', exec op s = .next u ∧ Claims.left s u = some c' ∧ u.mem = s.mem ∧
      c'.item = c.item + 1 ∧ (c.steps ≤ c.item + 1 → c'.stage = .complete ∧ c'.due = s.now c.die) ∧
      (c.item + 1 < c.steps → r.held = false → c'.stage = .running ∧ c'.due = s.now c.die + 64) ∧
      (c.item + 1 < c.steps → r.held = true → c'.stage = .parked) ∧
      let y := (u.die c.die).island c.isl
      y.slots = x.slots ∧ (∀ n, n ≠ c.accTile → y.tile n = x.tile n) ∧ (y.tile c.accTile).anchor = old.anchor ∧
      ∀ m < 64, ∀ n < 64, (y.tile c.accTile).ent (64 * m + n) = (List.range kt).foldl (fun z k =>
        let b := x.slot ((c.bSlots c.item).getD (logical m k / kt) 0)
        z.add (match old.anchor with | some v => v.toInt | none => 0)
          (elProduct (table b) (x.slot a) b ((x.slot a).el (m * kt + k)) (b.el (n * kt + logical m k % kt))).1) (old.ent (64 * m + n))) ∧
    (c.begun = false → mulOk c x = false → Claims.fails s c op fcEngine) ∧
    (c.begun = false → mulOk c x = true → c.eop = 0x10 → ∃ u y, exec op s = .next u ∧
      Claims.left s u = some { c with begun := true, due := s.now c.die + 63 } ∧ (u.die c.die).island c.isl = y ∧ y.slots = x.slots ∧
      (c.f0 35 1 = 1 → y.tile c.accTile = old) ∧
      (c.f0 35 1 = 0 → y.tile c.accTile = ⟨c.seq, some (freshAnchor c x), []⟩))

end Sys2Proof.Machine

/-- A started MLOAD that holds its slot or tile reads its data port, a token of a lane in a cycle: an element is put at its
coordinates, or at its entry index for ROLE 3; the EOT begins the commit, four cycles, or one for each 64 elements. The commit fills
the slot and its descriptor, or adds the elements to the tile (R236, R238, R239). When an order is judged is the model's reading
(log 36). A step of MMA or MMAS adds to each entry (m, n) the products of A's row m and B's column n, the column's element being
that of the same logical k; MMAS reads k from the metadata. The last step completes the command, any other is followed by one 64
cycles later. A start checks the claims, sets a fresh tile's anchor, and goes on to the first step; a failed check is ENGINE_ILLEGAL
(R240, R241, R245). The cycles of a step and the product table are the model's reading (log 15, log 35). -/
def Obligations.MatrixLoadsAndMultiplications : Prop := Sys2Proof.Machine.Claims.LoadsFillSlotsAndTiles ∧ Sys2Proof.Machine.Claims.MultiplicationsAccumulate

namespace Sys2Proof.Machine

/-- NORM reads its tile as it starts, and sends the header, the rows and the EOT to its cells, an item in a cycle in which every one of
them has a free slot; it is complete with the EOT. An unset tile, or one the task does not hold, is ENGINE_ILLEGAL (R243). -/
def Claims.NormSendsTheTile : Prop :=
  ∀ (s : State) (c : Cmd) (r : Region) (w : EngWords), EngineReady s c w → c.isLoad = false → s.region c.die c.rblk = some r →
    let tile := ((s.die c.die).island c.isl).tile c.accTile
    let t := s.now c.die
    let port := c.f0 15 2
    let lanes := 2 ^ c.f0 31 3
    let cell (j : Nat) : Nat := c.f0 17 14 + j
    let room := r.held = false ∧ ∀ j < lanes, returnRoom r (cell j) port t = true
    let item (v : Tile) : List Token × FlagBits × Bool := normItem v (c.f0 34 1 == 1) lanes c.item
    let sends (v : Tile) : Prop := ∃ u r' c', exec (.norm w) s = .next u ∧ Claims.left s u = some c' ∧ c'.item = c.item + 1 ∧
      c'.stage = (if (item v).2.2 then .complete else .running) ∧ c'.reading = some v ∧ u.mem = s.mem ∧
      u.region c.die c.rblk = some r' ∧ ∀ j < lanes, port < (r.cell (cell j)).rt.ports.length → (r.cell (cell j)).rt.lost = false →
        ((r'.cell (cell j)).rt.port port).q = ((r.cell (cell j)).rt.port port).q ++ [{ (item v).1.getD j .voidVal with born := t }]
    (c.begun = true → c.reading = some tile → room → sends tile) ∧
    (c.begun = true → ¬room → exec (.norm w) s = .next s) ∧
    (c.begun = false → tile.owner = c.seq → tile.anchor ≠ none → room → sends tile) ∧
    (c.begun = false → tile.owner ≠ c.seq ∨ tile.anchor = none → Claims.fails s c (.norm w) fcEngine)

end Sys2Proof.Machine

/-- MCLAIM gives its task every slot and tile that it names, unset and zero, or is SLOT_BUSY where one is held; MRELEASE frees those
that its task holds, or is ENGINE_ILLEGAL where it does not hold one. MDRAIN adds a tile to one of the same anchor, or gives an
unset one its anchor, in the cycle after its ring trip; a different anchor is ANCHOR (R237, R242). NORM reads its tile as it starts,
and sends the header, the rows and the EOT to its cells, an item in a cycle in which every one of them has a free slot; it is
complete with the EOT. An unset tile, or one the task does not hold, is ENGINE_ILLEGAL (R243). -/
def Obligations.ClaimsMergesAndNorm : Prop := Sys2Proof.Machine.Claims.ClaimsAndMergesChangeTheirTiles ∧ Sys2Proof.Machine.Claims.NormSendsTheTile

namespace Sys2Proof.Machine

/-- The streamer commands with what each does. -/
def streamerOps (w : EngWords) : List (Instr × Streamed) :=
  [(.copy w, copyOp), (.chain w, chainSteps), (.stash w, stashSteps), (.restore w, restoreSteps), (.convToCsr w, toCsrSteps),
   (.convFromCsr w, fromCsrSteps), (.convToC4 w, toC4Steps), (.fprint w, fprintSteps), (.dedup w, dedupSteps),
   (.xferPut w, xferOp putStep), (.xferGet w, xferOp getStep)]

/-- Instruction i takes the command to c' in state u, to act again n cycles later; with last it is complete. u wants nothing of other
modules (R252, R315). -/
def Claims.acts (s : State) (c : Cmd) (i : Instr) (last : Bool) (n : Nat) (c' : Cmd) (u : State) : Prop :=
  u.wants = [] → ∃ t, exec i s = .next t ∧ t.mem = u.mem ∧ t.capTags = u.capTags ∧
    (Claims.left s u = some c → Claims.left s t =
      some (if last then { c' with stage := .complete, due := u.now c.die } else { c' with due := u.now c.die + n }))

/-- A streamer command goes through its phases: it reads its parameter block, and a bad one is ENGINE_ILLEGAL; it checks its ranges
in order and what else it must; then it takes one step after another, and the last completes it. While its ports are frozen it does
nothing (R251 to R253). The cycles of the phases are the model's choice (log 15). -/
def Claims.StreamerCommandsRunTheirPhases : Prop :=
  ∀ (s : State) (c : Cmd) (w : EngWords), EngineReady s c w → c.isLoad = false → ∀ e ∈ streamerOps w,
      let open_ := islandFrozen s c.die c.target c.isl c.rblk = false
      (¬open_ → exec e.1 s = .next s) ∧
      (∀ r, s.region c.die c.rblk = some r → open_ → c.begun = false → c.params = [] → ∀ ps u, readParams s c = .ok ps u → u.wants = [] →
        (e.2.ok u r { c with params := ps } = true → Claims.acts s c e.1 false 1 { c with params := ps } u) ∧
        (e.2.ok u r { c with params := ps } = false → ∃ t, exec e.1 s = .next t ∧ (Claims.silent u c.die → t.mem = u.mem) ∧ Claims.left s t = none)) ∧
      (open_ → c.begun = false → c.params ≠ [] → (s.region c.die c.rblk).isSome → ∀ u u' c', checkRanges s c (e.2.ranges s c) = .ok () u →
        e.2.check u c = .ok c' u' → c'.id = c.id → c'.die = c.die →
        Claims.acts s c e.1 false (2 + e.2.extra u' c') { c' with begun := true } u') ∧
      (open_ → c.begun = true → ∀ last n c' u, e.2.step s c = .ok (last, n, c') u → c'.id = c.id → c'.die = c.die →
        Claims.acts s c e.1 last n { c' with item := c.item + 1 } u)

/-- The steps of the streamer commands, each by its own instruction: with what it has read, COPY writes the bytes, CHAIN the element that
its operations make of them, CONV KIND 0 the value and its column and last the count, KIND 1 the row, KIND 2 the codes, FPRINT the
first 16 bytes of the SHA3-256, STASH the code of the block and RESTORE its elements, DEDUP the candidate's result, XFER the bytes,
each at the destination's own place (R254, R256, R259 to R264). The chunks of XFER and the faults of steps are the model's reading
(log 37). -/
def Claims.StreamerStepsWriteTheirResults : Prop :=
  ∀ (s s1 s2 s3 : State) (c : Cmd) (w : EngWords) (bs : List Byte), EngineReady s c w → c.isLoad = false → c.begun = true →
    islandFrozen s c.die c.target c.isl c.rblk = false →
    let md := c.mode false false
    let k := c.src s
    let e := c.item
    let reads (lo n step : Nat) : Prop := engineRead c md k.oid (c.srcAt s + lo) n rRead step s = .ok bs s1
    let writes (lo : Nat) (out : List Byte) : Prop :=
      engineWrite c md (c.dst s1).oid (c.dstAt s1 + lo) out rWrite c.item s1 = .ok () s2
    let next : Cmd := { c with item := e + 1 }
    let steps (i : Instr) (last : Bool) (n : Nat) (u : State) : Prop := Claims.acts s c i last n next u
    let len := (c.par 0).toNat
    (copyTags s c = false → c.resf = false → 64 * e < len → reads (64 * e) (min 64 (len - 64 * e)) e → writes (64 * e) bs →
      steps (.copy w) (decide (len ≤ 64 * e + min 64 (len - 64 * e))) 1 s2) ∧
    (e < c.pf 0 0 32 → reads (e * tyBytes c.stype) (tyBytes c.stype) e →
      writes (e * tyBytes c.dtype) (natLe (tyBytes c.dtype) (chainElem c (leNat bs)).bits) →
      ∃ u, u.mem = s2.mem ∧ u.wants = s2.wants ∧ steps (.chain w) (decide (c.pf 0 0 32 ≤ e + 1)) 1 u) ∧
    (reads (4096 * e) 4096 e → writes (16 * e) ((sha3 bs).take 16) → steps (.fprint w) (decide (len ≤ e + 1)) 64 s2) ∧
    (∀ a b, 2 * e + 1 < c.rows → reads (4 * e) 4 e → (c4Code c.book (decodeF 11 (leNat (bs.take 2)))).1 = some a →
      (c4Code c.book (decodeF 11 (leNat (bs.drop 2)))).1 = some b → writes e (natLe 1 (a + 16 * b)) →
      ∃ u, u.mem = s2.mem ∧ u.wants = s2.wants ∧ steps (.convToC4 w) (decide (c.rows ≤ 2 * e + 2)) 1 u) ∧
    (let n := c.acc.headD 0
     let z := c.elSize
     let more (n' : Nat) (u : State) : Prop :=
       ∃ c' : Cmd, c'.acc.headD 0 = n' ∧ c'.id = c.id ∧ Claims.acts s c (.convToCsr w) false 1 { c' with item := e + 1 } u
     (e < c.rows * c.cols → reads (e * z) z n → elemZero c.etype (leNat bs) = true → more n s1) ∧
     (e < c.rows * c.cols → reads (e * z) z n → elemZero c.etype (leNat bs) = false → n ≠ c.nzmax →
       csrWrite c (n * z) z (leNat bs) n s1 = .ok () s2 → csrWrite c (c.csrV + 4 * n) 4 (e % c.cols) n s2 = .ok () s3 → more (n + 1) s3) ∧
     (e < c.rows * c.cols → reads (e * z) z n → elemZero c.etype (leNat bs) = false → n = c.nzmax →
       Claims.acts s c (.convToCsr w) false ((c.rows + 1 + 15) / 16 + 1)
         { c with acc := [2 ^ 64 - 1], item := c.rows * c.cols + c.rows + 1 } s1) ∧
     (c.rows * c.cols + c.rows < e →
       csrWrite c c.csrS 8 n (if n = 2 ^ 64 - 1 then c.nzmax else n + (e - c.rows * c.cols)) s = .ok () s2 →
       steps (.convToCsr w) true 1 s2)) ∧
    (∀ row, rowValues c (c.acc.getD e 0) s (c.acc.getD (e + 1) 0 - c.acc.getD e 0) (List.replicate c.cols 0) = .ok row s1 →
      writes (e * c.cols * c.elSize) (row.flatMap (natLe c.elSize)) →
      steps (.convFromCsr w) (decide (c.rows ≤ e + 1)) (byteCost (c.cols * c.elSize)) s2) ∧
    (let m := c.stOrder s
     let z := tyBytes c.stTy
     let j := c.dst s1
     (∀ vs, e < stashBlocks m → readElems c s k (c.srcAt s) z ((blockElems m e).map (denseIndex m)) = .ok vs s1 →
       engineWrite c (c.mode true false) j.oid (j.cursor + c.blockBytes * e) (stashEncode c.stW c.stTy (vs.map (decodeF c.stTy))).1
         (rStash ||| rWrite) e s1 = .ok () s2 →
       ∃ u, u.mem = s2.mem ∧ u.wants = s2.wants ∧ steps (.stash w) false (byteCost (32 * z)) u) ∧
     (stashBlocks m ≤ e → engineWrite c md (c.recCap s).oid (c.recAt s) (natLe 32 (stashRecord c m)) rWrite e s = .ok () s2 →
       steps (.stash w) true 1 s2) ∧
     (e < stashBlocks m →
       engineRead c (c.mode true false) k.oid (k.cursor + c.blockBytes * e) c.blockBytes (rStash ||| rRead) e s = .ok bs s1 →
       writeElems c s1 j (c.dstAt s1) z
         ((blockElems m e).map fun i => (denseIndex m i, stashDecode (leNat bs) c.stW (i % 32) c.stTy)) = .ok () s2 →
       steps (.restore w) (decide (stashBlocks m ≤ e + 1)) (byteCost (32 * z)) s2)) ∧
    ((len ≤ e → steps (.dedup w) true 1 s) ∧
     (∀ j n, e < len → findTwin c e s (List.range e) 0 = .ok (j, n) s1 →
       let v := needObj (needObj s1 (c.candOid e)) (c.candOid j)
       let u := if j = e then s1 else shareObj v c.seq (c.candOid e) (c.candOid j)
       engineWrite c md (c.src u).oid (c.srcAt u + 32 * len + 4 * e) (natLe 4 j) rWrite e u = .ok () s2 →
       ∃ d, Claims.acts s c (.dedup w) false d { next with scales := c.scales ++ [(e, j)] } s2)) ∧
    ((c.xlen ≤ 64 * e → steps (.xferPut w) true 1 s) ∧
     (64 * e + 64 < c.xlen → c.buf = [] → c.xDstView = false → putRead c s (64 * e) 64 = .ok bs s1 → bs.length < 256 →
       Claims.acts s c (.xferPut w) false 1 { next with buf := bs.map fun b => ⟨b.toNat, 0, 0⟩ } s1) ∧
     (c.xlen ≤ 64 * e → beatHeld s c = false → steps (.xferGet w) true 1 s) ∧
     (∀ l more, 64 * e < c.xlen → beatHeld s c = false → getRead c s (64 * e) (min 64 (c.xlen - 64 * e)) = .ok (bs, more) s1 →
       let port := s1.portFor (paModule (c.xSrcPa (64 * e))) (c.xSrcPa (64 * e))
       let b : Beat := ⟨s1.module.nrid.toNat, c.id, c.xDstPa (64 * e), c.xDstOid, c.xDstOfs + 64 * e, bs, false⟩
       let goes (u : State) : Prop := Claims.acts s c (.xferGet w) false 1 { next with buf := more.map fun b => ⟨b.toNat, 0, 0⟩ } u
       ((s1.port port).hold = [] → storeAt s1 md c.xDstOid (c.xDstOfs + 64 * e) bs false = .ok l s2 → goes s2) ∧
       (∀ code x tag, (s1.port port).hold = [] → storeAt s1 md c.xDstOid (c.xDstOfs + 64 * e) bs false = .bad code x tag s2 →
         pageCode code = true → goes (stopBeat s2 port b x)) ∧
       ((s1.port port).hold ≠ [] → (s1.port port).holdRoom (min 64 (c.xlen - 64 * e)) = true → goes (holdBeat s1 port b))))

end Sys2Proof.Machine

/-- A streamer command goes through its phases: it reads its parameter block, and a bad one is ENGINE_ILLEGAL; it checks its ranges
in order and what else it must; then it takes one step after another, and the last completes it. While its ports are frozen it does
nothing (R251 to R253). The cycles of the phases are the model's choice (log 15). The steps of the streamer commands, each by its
own instruction: with what it has read, COPY writes the bytes, CHAIN the element that its operations make of them, CONV KIND 0 the
value and its column and last the count, KIND 1 the row, KIND 2 the codes, FPRINT the first 16 bytes of the SHA3-256, STASH the code
of the block and RESTORE its elements, DEDUP the candidate's result, XFER the bytes, each at the destination's own place (R254,
R256, R259 to R264). The chunks of XFER and the faults of steps are the model's reading (log 37). -/
def Obligations.StreamerCommands : Prop := Sys2Proof.Machine.Claims.StreamerCommandsRunTheirPhases ∧ Sys2Proof.Machine.Claims.StreamerStepsWriteTheirResults

namespace Sys2Proof.Machine

/-- The held beats of a port are tried again once 4,096 cycles have passed since they were held or last tried: those that can be
written are written and leave in order; the first that finds its page absent stays, with those behind it, and has its one record. Before
that cycle, and with no beat held, nothing happens (R316). Where a beat lands is the model's choice (log 39). -/
def Claims.HeldBeatsAreRetried : Prop :=
  ∀ (s : State), let n := s.focus.port
    let d := Config.portDie n
    let p := s.port n
    ((p.hold = [] ∨ s.now d < p.holdAt) → exec .xferHoldRetranslate s = .next s) ∧
    (∀ b u, p.hold = [b] → p.holdAt ≤ s.now d → n < Config.narebPorts → d < u.dies.length → landBeat s d b = .written u →
      b.src = u.module.nrid.toNat → ∃ t, exec .xferHoldRetranslate s = .next t ∧ t.mem = u.mem ∧ (t.port n).hold = []) ∧
    (∀ b x u, p.hold = [b] → p.holdAt ≤ s.now d → n < Config.narebPorts → d < u.dies.length → landBeat s d b = .held x u →
      ∃ t, exec .xferHoldRetranslate s = .next t ∧ t.mem = (postHeld u n b x).mem ∧ (b.posted = true → t.mem = u.mem) ∧
        (t.port n).hold = [{ b with posted := true }] ∧ (t.port n).holdAt = u.now d + 4096)

/-! Launch, queues, selection and binding. -/

/-- The launch unit of the die in focus takes its oldest kick: a packet at HEAD with the kick's stamp is held, with every tag clear; one
whose stamp differs is read again 103 cycles later; the 64th such read, and a kick on an empty ring, post LAUNCH_STALE and drop
the kick (R268, R269). The bytes at HEAD are there, of this module or as another has answered. A packet that no retry mends posts
MEM_LASTING (R309), and that its kick is used up with HEAD unchanged is the model's reading (log 30). -/
def Claims.KicksReadThePacketAtHead : Prop :=
  ∀ (s : State) (k : BitVec 16) (ks : List (BitVec 16)), let d := s.focus.die
    let l := (s.die d).launch
    let p := headPacket s l
    let now := s.now d
    let sound := s.failing (headAt l) 256 = false
    let stamped := fieldNat p 0 16 = k.toNat
    d < s.dies.length → l.kicks = k :: ks → l.held = none → s.asking s.focus = false → s.wants = [] → needPhys s (headAt l) 256 = s →
    let unit (t : State) (x : Launch) : Prop := (Claims.silent s d → t.mem = s.mem) ∧ (t.die d).launch = x
    let posts (t : State) (code : Nat) : Prop := (s.die d).faults.recs.length < Config.faultQueueSize →
      ∃ y, (t.die d).faults.recs = addRecord (s.die d).faults.recs y ∧ fieldNat y 0 8 = code
    let stale (i : Instr) : Prop := ∃ t, exec i s = .next t ∧ unit t { l with kicks := ks, reads := 0 } ∧ posts t fcStale
    let reads (i : Instr) : Prop :=
      (¬sound → ∃ t, exec i s = .next t ∧ (t.die d).launch = { l with kicks := ks, reads := 0 } ∧ posts t fcLasting) ∧
      (sound → stamped → ∃ t, exec i s = .next t ∧ unit t { l with
        kicks := ks
        held := some ⟨p, List.replicate 5 false, true, fieldNat p 24 8, none, none, l.head.toNat, headAt l⟩
        reads := l.reads + 1 }) ∧
      (sound → ¬stamped → l.reads + 1 < 64 →
        ∃ t, exec i s = .next t ∧ unit t { l with reads := l.reads + 1, nextRead := now + 103 }) ∧
      (sound → ¬stamped → 64 ≤ l.reads + 1 → stale i)
    (l.reads = 0 → l.lqn = 0 → stale .kick) ∧ (l.reads = 0 → l.lqn ≠ 0 → reads .kick) ∧ (l.reads ≠ 0 → Claims.ends s .kick s) ∧
    (l.reads ≠ 0 → l.nextRead ≤ now → reads .launchReread) ∧ (l.reads = 0 ∨ now < l.nextRead → Claims.ends s .launchReread s)

/-- A held packet takes the next sequence number once that lies less than 2^22 beyond the watermark; it then enters its queue, once
that has room, as the task that its checks give, or its launch fails with its record; either way HEAD moves on around its ring. The
oldest continuation packet is dealt with in the same way, in order (R171, R272, R276, R287). The order of its checks is the model's
reading (log 30). -/
def Claims.PacketsAreNumberedAndQueued : Prop :=
  ∀ (s : State) (h : Held), let d := s.focus.die
    let l := (s.die d).launch
    let q := s.module.nextSeq
    d < s.dies.length → s.Alone →
    (l.held = some h →
      (h.seq = none → seqFree s = true → ∃ t, exec .packetAccept s = .next t ∧ (t.die d).launch = { l with held := some { h with seq := some q } } ∧
        t.module.nextSeq = seqNext q ∧ t.tasks = s.tasks) ∧
      (h.seq = none → seqFree s = false → exec .packetAccept s = .next s) ∧
      ∀ n, h.seq = some n →
        let moved (t : State) : Prop := (t.die d).launch.held = none ∧ (t.die d).launch.reads = 0 ∧
          (t.die d).launch.head = (if l.lqn = 0 then 0 else BitVec.ofNat 16 ((l.head.toNat + 1) % l.lqn.toNat)) ∧
          (t.die d).launch.kicks = l.kicks
        (∀ t us, checkPacket s d h = .good t us → queueRoom s d h.queue = true →
          (h.kicked = true → needPhys s h.pa 256 = s) → ∃ u, exec .packetAccept s = .next u ∧ moved u ∧ u.mem = s.mem ∧ u.module.nextPlace = s.module.nextPlace + 1 ∧
            u.tasks = s.tasks ++ [{ t with seq := n, place := s.module.nextPlace, queuedAt := s.now t.die }]) ∧
        (∀ t us, checkPacket s d h = .good t us → queueRoom s d h.queue = false → exec .packetAccept s = .next s) ∧
        (∀ m k done, checkPacket s d h = .bad m k done → ∃ u, exec .packetAccept s = .next u ∧ moved u ∧ u.tasks = s.tasks)) ∧
    (∀ rest, l.conts = h :: rest →
      (h.seq = none → seqFree s = true → ∃ t, exec .continuationEnqueue s = .next t ∧
        (t.die d).launch = { l with conts := { h with seq := some q } :: rest } ∧ t.module.nextSeq = seqNext q ∧ t.tasks = s.tasks) ∧
      (∀ n t us, h.seq = some n → checkPacket s d h = .good t us →
        (queueRoom s d h.queue = true → (h.kicked = true → needPhys s h.pa 256 = s) → ∃ u, exec .continuationEnqueue s = .next u ∧
          (u.die d).launch = { l with conts := rest } ∧
          u.tasks = s.tasks ++ [{ t with seq := n, place := s.module.nextPlace, queuedAt := s.now t.die }]) ∧
        (queueRoom s d h.queue = false → exec .continuationEnqueue s = .next s)) ∧
      (∀ n m k done, h.seq = some n → checkPacket s d h = .bad m k done → ∃ u, exec .continuationEnqueue s = .next u ∧
        (u.die d).launch = { l with conts := rest } ∧ u.tasks = s.tasks))

/-- LQBASE and LQCTL take their values and put HEAD to 0; a value with a reserved bit set writes nothing. TPRIO gives a task its
base priority and leaves its age (R268, R278). That TPRIO reaches a task of any die is the model's reading (log 31). -/
def Claims.LaunchRegistersAreWritten : Prop :=
  ∀ (s : State) (v : W64), let d := s.focus.die
    let l := (s.die d).launch
    d < s.dies.length →
    (fieldNat v 56 8 = 0 → fieldNat v 0 8 = 0 → ∃ t, exec (.lqConfigWrite 0x0200 v) s = .next t ∧
      (t.die d).launch = { l with lqbase := v, head := 0 } ∧ t.mem = s.mem ∧ t.tasks = s.tasks) ∧
    (fieldNat v 40 24 = 0 → ∃ t, exec (.lqConfigWrite 0x0201 v) s = .next t ∧
      (t.die d).launch = { l with grights := v.extractLsb' 32 8, lqn := v.extractLsb' 0 16, head := 0 } ∧ t.mem = s.mem ∧ t.tasks = s.tasks) ∧
    (fieldNat v 56 8 ≠ 0 ∨ fieldNat v 0 8 ≠ 0 → exec (.lqConfigWrite 0x0200 v) s = .next s) ∧
    (fieldNat v 40 24 ≠ 0 → exec (.lqConfigWrite 0x0201 v) s = .next s) ∧
    (∀ x, fieldNat v 27 37 = 0 → s.task (fieldNat v 0 24) = some x → ∃ t, exec (.tprio v) s = .next t ∧
      t.task x.seq = some { x with prio := fieldNat v 24 3 } ∧ (∀ q, q ≠ x.seq → t.task q = s.task q) ∧ t.dies = s.dies) ∧
    (fieldNat v 27 37 ≠ 0 → exec (.tprio v) s = .next s)

end Sys2Proof.Machine

/-- The launch unit of the die in focus takes its oldest kick: a packet at HEAD with the kick's stamp is held, with every tag clear;
one whose stamp differs is read again 103 cycles later; the 64th such read, and a kick on an empty ring, post LAUNCH_STALE and drop
the kick (R268, R269). The bytes at HEAD are there, of this module or as another has answered. A packet that no retry mends posts
MEM_LASTING (R309), and that its kick is used up with HEAD unchanged is the model's reading (log 30). LQBASE and LQCTL take their
values and put HEAD to 0; a value with a reserved bit set writes nothing. TPRIO gives a task its base priority and leaves its age
(R268, R278). That TPRIO reaches a task of any die is the model's reading (log 31). -/
def Obligations.KicksAndLaunchRegisters : Prop := Sys2Proof.Machine.Claims.KicksReadThePacketAtHead ∧ Sys2Proof.Machine.Claims.LaunchRegistersAreWritten

/-- A queued task gains a level of priority for each 2^20 cycles that it waits. With no task selected the distributor selects a
queue head of the highest level, the first queue behind the last served at it. The selected task is bound once its regions can be
formed: each starts at its entry with its number in w0. One that the die can never bind ends as a failed launch (R275, R277, R279,
R280). The rectangles are a free value, and the cap of a level is the model's reading (log 8, log 31). -/
def Obligations.TasksAgeAndAreBound : Prop :=
  ∀ (s : State) (x : Task), let d := s.focus.die
    (s.task s.focus.id = some x → x.state = .queued → let n := (s.now x.die - x.queuedAt) / 2 ^ 20
      (x.rises < n → exec .agePromote s = .next (s.updTask x.seq fun t => { t with rises := t.rises + 1 })) ∧
      (n ≤ x.rises → exec .agePromote s = .next s)) ∧
    ((∀ t ∈ s.tasks, ¬(t.die = d ∧ t.state = .selected)) → d < s.dies.length →
      pickTask (heads s d) (s.die d).launch.served = some x → s.task x.seq = some x →
      ∃ t, exec .taskSelect s = .next t ∧ t.task x.seq = some { x with state := .selected, selPrio := min 7 (x.prio + x.rises) } ∧
        (t.die d).launch.served = (s.die d).launch.served.set (min 7 (x.prio + x.rises)) x.queue ∧
        x.die = d ∧ x.state = .queued ∧ (∀ y ∈ s.tasks, y.die = d → y.state = .queued → y.queue = x.queue → x.place ≤ y.place) ∧
        ∀ y, queueHead s d y.queue = some y → y.queue < 256 → min 7 (y.prio + y.rises) ≤ min 7 (x.prio + x.rises)) ∧
    (selectedTask s d = some x → exec .taskSelect s = .next s) ∧
    (∀ bs, selectedTask s d = some x → s.task x.seq = some x → chooseRects s x = some bs → x.snap = none →
      ∃ t y, exec .taskBind s = .next t ∧ t.task x.seq = some y ∧ y.state = .bound ∧ (x.edge = none → y.m = s.watermark ∧ y.acq = []) ∧
        t.mem = s.mem ∧ ∃ rs, t.regions = s.regions ++ rs ∧ rs.length = bs.length ∧
          ∀ n r, rs[n]? = some r → r.num = n ∧ r.die = x.die ∧ r.seq = x.seq ∧ r.pc = x.entry ∧ r.rblk = (bs.getD n []).getD 0 0 ∧
            r.w = BitVec.ofNat 64 n :: List.replicate 15 0 ∧ r.i = pkIter x.packet ∧ r.ks = x.spill ∧ r.st = 0 ∧ r.depth = 0 ∧
            r.running = false ∧ r.cells = [] ∧ r.stores = [] ∧ r.orders = x.orders ∧ r.frozen = .no) ∧
    (selectedTask s d = some x → chooseRects s x = none → exec .taskBind s = .next s) ∧
    (s.task s.focus.id = some x → x.state = .queued ∨ x.state = .selected →
      (unbindable s x = true → ∃ t, exec .taskDropUnbindable s = .next t ∧ t.task x.seq = none ∧
        (s.regionsOf x.seq = [] → ∀ q, q ≠ x.seq → t.task q = s.task q)) ∧
      (unbindable s x = false → exec .taskDropUnbindable s = .next s))

namespace Sys2Proof.Machine

/-- SPAWN hands the packet at offset wA of its slot to the launch unit under queue b, and wD receives its number; GRPL hands on one
packet for every 64 rows of each group, and wD receives the count of those enqueued; both wait for a number and for room, and go on with
what they read when they issued. A queue above 255 is ILLEGAL_OP (R211, R212, R226). When a number is taken is the model's reading
(log 30). -/
def Claims.SpawnsAndGroupedLaunchesQueuePackets : Prop :=
  (∀ (s : State) (r : Region) (g : FmtG) (y : SpawnRun) (p : BitVec 2048), Claims.at_ s r → s.Alone → r.ctl = .spawn y → y.left = [p] →
    let stays (i : Instr) : Prop := exec i s = .next (s.updRegion r.die r.rblk fun x => { x with ctl := .spawn y })
    let ends (i : Instr) (v : Nat) : Prop := ∀ t us, checkPacket s r.die (spawnHeld s r p y.tags y.queue) = .good t us →
      ∃ u, exec i s = .next u ∧
        u.tasks = s.tasks ++ [{ t with seq := s.module.nextSeq, place := s.module.nextPlace, queuedAt := s.now t.die }] ∧
        u.region s.focus.die s.focus.rblk = some { r with
          w := r.w.set y.wd (BitVec.ofNat 64 v)
          pc := r.pc + 8
          ctl := .ready (s.now r.die + 1) }
    (seqFree s = true → queueRoom s r.die y.queue = true → ends (.spawn g) s.module.nextSeq ∧ ends (.grpl g) (y.count + 1)) ∧
    (seqFree s = false ∨ queueRoom s r.die y.queue = false → stays (.spawn g) ∧ stays (.grpl g))) ∧
  (∀ (s s1 : State) (r : Region) (g : FmtG) (vs : List W64), Claims.at_ s r → s.Alone → (∀ x, r.ctl ≠ .spawn x) →
    let k := slotOf s r g
    let o := (r.w.getD g.wa.toNat 0).toNat
    let b := (Claims.opB r g).toNat
    let p : BitVec 2048 := BitVec.ofNat 2048 (vs.foldr (fun v n => v.toNat + n * 2 ^ 64) 0)
    let run : SpawnRun := spawnRun s1 r g b [p]
    let held : Held := spawnHeld s1 r p run.tags b
    let q := s1.module.nextSeq
    (256 ≤ b → Claims.illegal s r (.spawn g)) ∧
    (b < 256 → capCheck k rRead o 256 = none → ctlReads s r k o rRead 32 = (some vs, s1) → s1.wants = [] → Claims.at_ s1 r → s1.focus = s.focus →
      (seqFree s1 = true → queueRoom s1 r.die b = true →
        (∀ t us, checkPacket s1 r.die held = .good t us → ∃ u, exec (.spawn g) s = .next u ∧
          u.tasks = s1.tasks ++ [{ t with seq := q, place := s1.module.nextPlace, queuedAt := s1.now t.die }] ∧
          u.module.nextSeq = seqNext q ∧ u.mem = s1.mem ∧ u.region s.focus.die s.focus.rblk = some { r with
            w := r.w.set g.wd.toNat (BitVec.ofNat 64 q)
            pc := r.pc + 8
            ctl := .ready (s1.now r.die + 1) }) ∧
        (∀ done, checkPacket s1 r.die held = .share done → ∃ u r', exec (.spawn g) s = .next u ∧
          u.region s.focus.die s.focus.rblk = some r' ∧ r'.frozen = .violation ∧ r'.pc = r.pc ∧ r'.w = r.w ∧ u.tasks = s1.tasks)) ∧
      (seqFree s1 = false ∨ queueRoom s1 r.die b = false → Claims.ends s (.spawn g)
        (s1.updRegion r.die r.rblk fun x => { x with ctl := .spawn run }))) ∧
    (∀ s2 s3 n rows, capCheck k rRead o 256 = none → ctlReads s r k o rRead 32 = (some vs, s1) →
      readN32 s1 r (slotOf s1 r g) b 1 = (some [n], s2) → n ≤ 65536 → readN32 s2 r (slotOf s1 r g) (b + 4) n = (some rows, s3) →
      rows.foldl (· + ·) 0 < 2 ^ 32 → s3.wants = [] → Claims.at_ s3 r → s3.focus = s.focus →
      (rows = [] → ∃ u, exec (.grpl g) s = .next u ∧ u.tasks = s3.tasks ∧ u.region s.focus.die s.focus.rblk = some { r with
        w := r.w.set g.wd.toNat 0
        pc := r.pc + 8
        ctl := .ready (s3.now r.die + 1) }) ∧
      (∀ m, rows = [m] → 1 ≤ m → m ≤ 64 → seqFree s3 = true → queueRoom s3 r.die (fieldNat p 24 8) = true →
        let x := spawnHeld s3 r (pkWithIter p 0 0 m 0) (spawnRun s3 r g (fieldNat p 24 8) []).tags (fieldNat p 24 8)
        (∀ y n d, checkPacket s3 r.die x = .bad y n d → ∃ u r', exec (.grpl g) s = .next u ∧ u.tasks = s3.tasks ∧
          u.region s.focus.die s.focus.rblk = some r' ∧ r'.w = r.w.set g.wd.toNat 0 ∧ r'.pc = r.pc + 8) ∧
        ∀ t us, checkPacket s3 r.die x = .good t us → ∃ u, exec (.grpl g) s = .next u ∧
          u.tasks = s3.tasks ++ [{ t with seq := s3.module.nextSeq, place := s3.module.nextPlace, queuedAt := s3.now t.die }] ∧
          u.region s.focus.die s.focus.rblk = some { r with
            w := r.w.set g.wd.toNat 1
            pc := r.pc + 8
            ctl := .ready (s3.now r.die + 1) }))) ∧
  (∀ (p : BitVec 2048) (rows : List Nat), (groupPackets p 0 0 rows).length = (rows.map fun n => (n + 63) / 64).foldl (· + ·) 0) ∧
  ∀ (p : BitVec 2048) (a b c d : Nat), a < 2 ^ 32 → b < 2 ^ 32 → c < 2 ^ 32 → d < 2 ^ 32 →
    let x := pkWithIter p a b c d
    fieldNat x 128 32 = a ∧ fieldNat x 160 32 = b ∧ fieldNat x 192 32 = c ∧ fieldNat x 224 32 = d ∧
    fieldNat x 0 128 = fieldNat p 0 128 ∧ fieldNat x 256 1792 = fieldNat p 256 1792

end Sys2Proof.Machine

/-- A held packet takes the next sequence number once that lies less than 2^22 beyond the watermark; it then enters its queue, once
that has room, as the task that its checks give, or its launch fails with its record; either way HEAD moves on around its ring. The
oldest continuation packet is dealt with in the same way, in order (R171, R272, R276, R287). The order of its checks is the model's
reading (log 30). SPAWN hands the packet at offset wA of its slot to the launch unit under queue b, and wD receives its number; GRPL
hands on one packet for every 64 rows of each group, and wD receives the count of those enqueued; both wait for a number and for
room, and go on with what they read when they issued. A queue above 255 is ILLEGAL_OP (R211, R212, R226). When a number is taken is
the model's reading (log 30). -/
def Obligations.PacketsAreAcceptedAndSpawned : Prop := Sys2Proof.Machine.Claims.PacketsAreNumberedAndQueued ∧ Sys2Proof.Machine.Claims.SpawnsAndGroupedLaunchesQueuePackets

namespace Sys2Proof.Machine

/-! System registers, faults and pre-emption, the host and links, starting, firmware and power. -/

/-- A write of a register that keeps to its map changes that register alone; one that sets a reserved bit changes nothing. CECNT and the lost
count of FQSTAT clear the bits written as 1, KICK joins the FIFO, NRID takes no write once a start has locked it, FSPOOL none while a
far store is attached (R228, R269, R294, R309, R314, R331). That PWRLIM takes no value outside 1,000 to 15,000 is the model's reading
(log 43). -/
def Claims.RegistersTakeTheirWrites : Prop :=
  ∀ (s : State) (v : W64), let d := s.focus.die
    let x := s.die d
    let m := s.module
    d < s.dies.length →
    let onDie (n : Nat) (y : Die) : Prop := ∃ t, exec (.registerWrite (BitVec.ofNat 16 n) v) s = .next t ∧ t.die d = y ∧
      (∀ e, e ≠ d → t.die e = s.die e) ∧ t.module = m ∧ t.mem = s.mem ∧ t.regions = s.regions ∧ t.tasks = s.tasks
    let onModule (n : Nat) (y : Module) : Prop := exec (.registerWrite (BitVec.ofNat 16 n) v) s = .next { s with module := y }
    let same (n : Nat) : Prop := exec (.registerWrite (BitVec.ofNat 16 n) v) s = .next s
    (fieldNat v 0 5 = 0 → fieldNat v 56 8 = 0 → onModule 0x100 { m with otb := v }) ∧
    (fieldNat v 32 32 = 0 → onModule 0x101 { m with otlen := v.setWidth 32 }) ∧
    onDie 0x202 { x with launch := { x.launch with grant := v } } ∧
    (fieldNat v 16 48 = 0 → onDie 0x203 { x with launch := { x.launch with kicks := x.launch.kicks ++ [v.setWidth 16] } }) ∧
    (fieldNat v 10 22 = 0 → onDie 0x300 { x with faults := { x.faults with lost := x.faults.lost &&& ~~~(v.extractLsb' 32 32) } }) ∧
    (fieldNat v 1 2 = 0 → fieldNat v 56 8 = 0 → onDie 0x301 { x with faults := { x.faults with fqdb := v } }) ∧
    (fieldNat v 32 32 = 0 → onDie 0x305 { x with faults := { x.faults with cecnt := x.faults.cecnt &&& ~~~(v.setWidth 32) } }) ∧
    (fieldNat v 12 52 = 0 → m.nridLocked = false → onModule 0x500 { m with nrid := v.setWidth 12 }) ∧
    (m.nridLocked = true → same 0x500) ∧
    (fieldNat v 0 1 = 0 → fieldNat v 3 61 = 0 → onModule 0x600 { m with clr := v.getLsbD 2, warm := v.getLsbD 1 }) ∧
    (let far := ∃ r ∈ s.regions, r.die = d ∧ ∃ st ∈ r.stores, st.far = true
     (¬far → onDie 0x602 { x with fspool := v }) ∧ (far → same 0x602)) ∧
    (1000 ≤ v.toNat → v.toNat ≤ 15000 → onModule 0x603 { m with pwrlim := v.setWidth 16 }) ∧
    (v.toNat < 1000 ∨ 15000 < v.toNat → same 0x603) ∧
    (fieldNat v 0 3 = 0 → fieldNat v 25 39 = 0 → onModule 0x610 { m with fwOfs := fieldNat v 3 22 }) ∧
    (∀ n < 4, onModule (0x620 + n) { m with attn := m.attn.set n v }) ∧
    (fieldNat v 0 6 = 0 → fieldNat v 56 8 = 0 → onModule 0x624 { m with attDst := v }) ∧
    (fieldNat v 2 6 = 0 → fieldNat v 16 48 = 0 → onDie 0x700 { x with brkctl := v }) ∧
    (∀ n, n < 2 ^ 16 → (∀ b, reservedBits n = some b → v &&& b ≠ 0) → same n)

/-- FQPOP writes the oldest record at a 64-aligned address, of this module or another, and the queue drops it; with no record, or at
another address, nothing happens, but that a cell's SYSWR is told (R227, R295). XINV drops the cached translations of its object, or of all. An aperture register takes its value unless that
sets a reserved bit or names a reserved format, once every write that has left for another module is acknowledged (R165, R320, R323). -/
def Claims.QueueCacheAndApertureRegisters : Prop :=
  ∀ (s : State) (v : W64), let d := s.focus.die
    let recs := (s.die d).faults.recs
    let told : State := if s.focus.port = (reqFocus 0).port then
        s.updReq s.focus.id fun x => if x.stage = .remote then { x with stage := .performed } else x
      else s
    d < s.dies.length → s.memOk →
    (∀ x rest, recs = x :: rest → v.toNat % 64 = 0 → v.toNat < 2 ^ 56 → s.isBacked v.toNat = true → s.isLocal v.toNat = true →
      ∃ t, exec (.fqpop v) s = .next t ∧ (t.die d).faults.recs = rest ∧ memReadN t.mem (paLocal v.toNat) 64 = natLe 64 x.toNat ∧
        ∀ b, b < paLocal v.toNat ∨ paLocal v.toNat + 64 ≤ b → memRead t.mem b = memRead s.mem b) ∧
    (∀ x rest, recs = x :: rest → v.toNat % 64 = 0 → v.toNat < 2 ^ 56 → s.isBacked v.toNat = true → s.isLocal v.toNat = false →
      ∃ t, exec (.fqpop v) s = .next t ∧ (t.die d).faults.recs = rest ∧ t.mem = s.mem) ∧
    (recs = [] ∨ v.toNat % 64 ≠ 0 ∨ 2 ^ 56 ≤ v.toNat ∨ s.isBacked v.toNat = false → s.Alone → exec (.fqpop v) s = .next told) ∧
    (fieldNat v 33 31 = 0 → ∃ t, exec (.xinv v) s = .next t ∧ t.mem = s.mem ∧ t.regions = s.regions ∧
      ∀ e < s.dies.length, (t.die e).xlates = (s.die e).xlates.filter fun x => !(v.getLsbD 32 || x.oid == fieldNat v 0 32)) ∧
    (fieldNat v 33 31 ≠ 0 → exec (.xinv v) s = .next s) ∧
    (∀ a < 16, ∀ k < 4, let i : Instr := .apertureRegWrite (BitVec.ofNat 16 (0x400 + 4 * a + k)) v
      (v &&& aperReserved k = 0 → (k = 3 → aperXfOk v = true) → s.writesOut = false → ∃ t, exec i s = .next t ∧
        (t.die d).aper a = ((s.die d).aper a).setReg k v ∧ (∀ b, b ≠ a → (t.die d).aper b = (s.die d).aper b) ∧ t.mem = s.mem) ∧
      (v &&& aperReserved k ≠ 0 ∨ k = 3 ∧ aperXfOk v = false → s.writesOut = false → exec i s = .next s) ∧
      (s.writesOut = true → exec i s = .next { s with inputs := .run s.focus i :: s.inputs }))

end Sys2Proof.Machine

/-- A write of a register that keeps to its map changes that register alone; one that sets a reserved bit changes nothing. CECNT and
the lost count of FQSTAT clear the bits written as 1, KICK joins the FIFO, NRID takes no write once a start has locked it, FSPOOL
none while a far store is attached (R228, R269, R294, R309, R314, R331). That PWRLIM takes no value outside 1,000 to 15,000 is the
model's reading (log 43). FQPOP writes the oldest record at a 64-aligned address, of this module or another, and the queue drops it;
with no record, or at another address, nothing happens, but that a cell's SYSWR is told (R227, R295). XINV drops the cached
translations of its object, or of all. An aperture register takes its value unless that sets a reserved bit or names a reserved
format, once every write that has left for another module is acknowledged (R165, R320, R323). -/
def Obligations.SystemRegistersTakeTheirWrites : Prop := Sys2Proof.Machine.Claims.RegistersTakeTheirWrites ∧ Sys2Proof.Machine.Claims.QueueCacheAndApertureRegisters

namespace Sys2Proof.Machine

/-- MCTL release lets a frozen region go on and makes its refused requests afresh, lets frozen island ports go on without the commands that
their checks refused, and lets the host port go on; kill ends the task as failed, or drops what the host port holds; resume puts a task
of the wait list back to the tail of its queue. A word that sets a reserved bit, or names nothing frozen, does nothing (R296, R299). -/
def Claims.MasterControlReleasesKillsAndResumes : Prop :=
  ∀ (s : State) (v : W64), let d := s.focus.die
    let q := fieldNat v 16 24
    (fieldNat v 48 14 ≠ 0 → exec (.mctlRelease v) s = .next s ∧ exec (.mctlKill v) s = .next s ∧ exec (.mctlResume v) s = .next s) ∧
    (fieldNat v 48 14 = 0 →
      (∀ r, fieldNat v 14 2 = 0 → s.region d (fieldNat v 0 14) = some r → r.seq = q → r.frozen ≠ .no →
        (faultWaits s r = false → ∃ t r', exec (.mctlRelease v) s = .next t ∧ t.region d (fieldNat v 0 14) = some r' ∧ r'.frozen = .no ∧
          r'.pc = r.pc ∧ r'.w = r.w ∧ r'.cells = r.cells ∧ t.mem = s.mem ∧
          ∀ n x, s.req n = some x → ∃ y, t.req n = some y ∧ (x.die = r.die → x.rblk = r.rblk → x.stage = .faulted → y.stage = .queued) ∧
            (¬(x.die = r.die ∧ x.rblk = r.rblk ∧ x.stage = .faulted) → y = x)) ∧
        ∃ t, exec (.mctlKill v) s = .next t ∧ t.task q = none ∧ ∀ p, p ≠ q → t.task p = s.task p) ∧
      (∀ n, fieldNat v 14 2 = n + 1 → n < 2 →
        let named (i : IPort) : Bool := mctlPorts s d v i
        (∃ t, exec (.mctlRelease v) s = .next t ∧ t.mem = s.mem ∧ t.regions = s.regions ∧
          t.iports = s.iports.map (fun i => if named i then { i with frozen := false } else i) ∧
          ∀ c, c ∈ t.cmds ↔ c ∈ s.cmds ∧ ¬(c.die = d ∧ c.target = n + 2 ∧ c.isl = fieldNat v 0 14 ∧ c.stage = .draining ∧
            ∃ i ∈ s.iports, named i ∧ i.rblk = c.rblk)) ∧
        ((∃ i ∈ s.iports, named i) → ∃ t, exec (.mctlKill v) s = .next t ∧ t.task q = none ∧ ∀ p, p ≠ q → t.task p = s.task p) ∧
        ((∀ i ∈ s.iports, named i = false) → exec (.mctlKill v) s = .next s)) ∧
      (fieldNat v 14 2 = 3 →
        exec (.mctlRelease v) s = .next { s with module := { s.module with hostFrozen := false } } ∧
        (s.module.hostFrozen = true → ∃ t, exec (.mctlKill v) s = .next t ∧ t.module = { s.module with hostFrozen := false } ∧
          t.inputs = s.inputs.filter (fun e => !isHostReq e) ∧ t.mem = s.mem ∧
          t.replies = s.replies ++ (s.inputs.filter isHostRead).map fun _ => .unsupported) ∧
        (s.module.hostFrozen = false → exec (.mctlKill v) s = .next s)) ∧
      (fieldNat v 14 2 = 0 → (∀ r, s.region d (fieldNat v 0 14) = some r → r.seq ≠ q ∨ r.frozen = .no) →
        exec (.mctlRelease v) s = .next s ∧ exec (.mctlKill v) s = .next s) ∧
      (∀ x, s.task q = some x → x.die = d → x.state = .waiting → ∃ t y, exec (.mctlResume v) s = .next t ∧ t.task q = some y ∧
        y.state = .queued ∧ y.queuedAt = s.now d ∧ y.place = s.module.nextPlace ∧ y.rises = 0 ∧ y.prio = x.prio ∧
        t.module.nextPlace = s.module.nextPlace + 1 ∧ t.mem = s.mem) ∧
      ((∀ x, s.task q = some x → x.die ≠ d ∨ x.state ≠ .waiting) → exec (.mctlResume v) s = .next s))

/-- A page-fault window closes after 4,096 cycles, or once a cycle has passed in which no cell of the task fired: its regions stop
and it joins the wait list. PRE names a bound task of the die with no frozen master: ABORT requeues it from its entry, DRAIN and
FREEZE begin with their mode; anything else leaves STATE 0. A DRAIN whose deadline passes before its regions have stopped becomes an
ABORT (R298, R302 to R305). STATE of an ignored PRE and the end of a window are the model's reading (log 33). -/
def Claims.WindowsAndPreemptions : Prop :=
  ∀ (s : State) (x : Task) (v : W64), let d := s.focus.die
    (∀ opened, s.task s.focus.id = some x → x.state = .window opened →
      let now := s.now x.die
      (opened + 4096 ≤ now ∨ (opened < now ∧ ∀ r ∈ s.regions, r.seq = x.seq → ∀ c ∈ r.cells, c.2.rt.fired ≠ now + 1) →
        (s.tasks.filter fun t => t.die == x.die && t.state == .waiting).length < 256 → ∃ t y, exec .pageFaultWindowClose s = .next t ∧
          t.task x.seq = some y ∧ y.state = .waiting ∧ y.prio = x.prio ∧ y.args = x.args0 ∧ (∀ r ∈ t.regions, r.seq ≠ x.seq) ∧
          ((∀ e, Claims.silent s e) → t.mem = s.mem)) ∧
      (now < opened + 4096 → (now ≤ opened ∨ ∃ r ∈ s.regions, r.seq = x.seq ∧ ∃ c ∈ r.cells, c.2.rt.fired = now + 1) →
        exec .pageFaultWindowClose s = .next s)) ∧
    (d < s.dies.length → fieldNat v 26 6 = 0 → (s.die d).faults.preState ≠ 1 →
      (s.task (fieldNat v 0 24) = some x → x.die = d → x.state = .bound → frozenMaster s x.seq = false →
        (∃ t y, exec (.preAbort v) s = .next t ∧ t.task x.seq = some y ∧ y.state = .queued ∧ y.rises = 0 ∧ y.halted = 0 ∧
          y.place = s.module.nextPlace ∧ y.args = x.args0 ∧ (∀ r ∈ t.regions, r.seq ≠ x.seq) ∧ (t.die d).faults.preState = 2 ∧
          ((∀ e, Claims.silent s e) → t.mem = s.mem)) ∧
        (∃ t, exec (.preDrain v) s = .next t ∧ t.task x.seq = some { x with pre := .drain (if fieldNat v 32 30 = 0 then none
          else some (s.now d + fieldNat v 32 30)) } ∧ (t.die d).faults.preState = 1 ∧ t.regions = s.regions ∧ t.mem = s.mem) ∧
        (∃ t, exec (.preFreeze v) s = .next t ∧ t.task x.seq = some { x with pre := .freeze } ∧ (t.die d).faults.preState = 1 ∧
          t.regions = s.regions ∧ t.mem = s.mem)) ∧
      (preTask s d v = none → ∀ i ∈ [Instr.preAbort v, .preDrain v, .preFreeze v], ∃ t, exec i s = .next t ∧
        (t.die d).faults.preState = 0 ∧ t.tasks = s.tasks ∧ t.regions = s.regions)) ∧
    (fieldNat v 26 6 ≠ 0 ∨ (s.die d).faults.preState = 1 → ∀ i ∈ [Instr.preAbort v, .preDrain v, .preFreeze v], exec i s = .next s) ∧
    (∀ due, s.task s.focus.id = some x → x.pre = .drain (some due) →
      (due ≤ s.now x.die → (∃ r ∈ s.regions, r.seq = x.seq ∧ r.held = false) → ∃ t y, exec .drainDeadline s = .next t ∧
        t.task x.seq = some y ∧ y.state = .queued ∧ y.pre = .no ∧ ∀ r ∈ t.regions, r.seq ≠ x.seq) ∧
      (s.now x.die < due ∨ (∀ r ∈ s.regions, r.seq = x.seq → r.held = true) → exec .drainDeadline s = .next s))

end Sys2Proof.Machine

/-- MCTL release lets a frozen region go on and makes its refused requests afresh, lets frozen island ports go on without the
commands that their checks refused, and lets the host port go on; kill ends the task as failed, or drops what the host port holds;
resume puts a task of the wait list back to the tail of its queue. A word that sets a reserved bit, or names nothing frozen, does
nothing (R296, R299). A page-fault window closes after 4,096 cycles, or once a cycle has passed in which no cell of the task fired:
its regions stop and it joins the wait list. PRE names a bound task of the die with no frozen master: ABORT requeues it from its
entry, DRAIN and FREEZE begin with their mode; anything else leaves STATE 0. A DRAIN whose deadline passes before its regions have
stopped becomes an ABORT (R298, R302 to R305). STATE of an ignored PRE and the end of a window are the model's reading (log 33). -/
def Obligations.MasterControlWindowsAndPreemption : Prop := Sys2Proof.Machine.Claims.MasterControlReleasesKillsAndResumes ∧ Sys2Proof.Machine.Claims.WindowsAndPreemptions

/-- A host access of 8 aligned bytes within BAR0 reads or writes one register, as its own step; any other access of BAR0 is
unsupported. A host access of the memory window reads or writes its bytes in a running module, and is unsupported in another; one that
leaves the window freezes the port, and a read that no retry mends is aborted. A frozen port holds what arrives. An RDMA write writes its
bytes (R296, R309, R311, R319, R325, R330). What a start hides, and RDMA beyond memory, are the model's reading (log 38, log
40). -/
def Obligations.HostAccessesReachRegistersAndMemory : Prop :=
  ∀ (s : State) (ofs len adr : Nat) (v : W64) (bs : List Byte), s.memOk →
    (s.module.hostFrozen = true → ∀ i, (∃ w, i = .hostBar0Access w ofs len v ∨ i = .hostHdmAccess w adr len bs) →
      exec i s = .next { s with inputs := .run s.focus i :: s.inputs }) ∧
    (s.module.hostFrozen = false →
    let die := ofs / 0x200000
    let num := ofs % 0x200000 / 8
    let answers (t : State) (r : HostReply) : Prop := t.replies = s.replies ++ [r]
    (len ≠ 8 ∨ ofs % 8 ≠ 0 ∨ 0x2000000 ≤ ofs →
      ∀ w, exec (.hostBar0Access w ofs len v) s = .next { s with replies := s.replies ++ [.unsupported] }) ∧
    (ofs % 8 = 0 → ofs < 0x2000000 → s.module.phase = .running →
      exec (.hostBar0Access false ofs 8 v) s = .next { s with replies := s.replies ++ [.data (readRegister s die num)] } ∧
      (¬(num = 0x203 ∧ 16 ≤ (s.die die).launch.kicks.length) → ¬(0x400 ≤ num ∧ num < 0x440 ∧ s.writesOut = true) → ∃ t, exec (.hostBar0Access true ofs 8 v) s = .next t ∧ answers t .done ∧
        t.mem = s.mem ∧ t.dies = s.dies ∧ ∀ i, registerStep num v = some i → t.agenda = .run { Focus.none with die := die } i :: s.agenda)) ∧
    (s.module.phase = .running →
      (adr + bs.length ≤ 0x6000000000 → ∃ t, exec (.hostHdmAccess true adr bs.length bs) s = .next t ∧ answers t .done ∧ memReadN t.mem adr bs.length = bs ∧
        ∀ b, b < adr ∨ adr + bs.length ≤ b → memRead t.mem b = memRead s.mem b) ∧
      (adr + len ≤ 0x6000000000 → (∀ g ∈ granules adr len, g ∉ s.bad) →
        exec (.hostHdmAccess false adr len bs) s = .next { s with replies := s.replies ++ [.bytes (memReadN s.mem adr len)] }) ∧
      (adr + len ≤ 0x6000000000 → (∃ g ∈ granules adr len, g ∈ s.bad) → ∃ t, exec (.hostHdmAccess false adr len bs) s = .next t ∧
        answers t .abort)) ∧
    (s.module.phase = .running → 0x6000000000 < adr + len → ∀ w, ∃ t, exec (.hostHdmAccess w adr len bs) s = .next t ∧
      t.module = { s.module with hostFrozen := true } ∧ t.replies = s.replies ∧
      t.inputs = .run s.focus (.hostHdmAccess w adr len bs) :: s.inputs ∧
      ((s.die 0).faults.recs.length < Config.faultQueueSize → 0 < s.dies.length → ∃ y, (t.die 0).faults.recs = addRecord (s.die 0).faults.recs y ∧
        fieldNat y 0 8 = fcBounds)) ∧
    (s.module.phase ≠ .running → ∀ w, exec (.hostHdmAccess w adr len bs) s = .next { s with replies := s.replies ++ [.unsupported] })) ∧
    (bs ≠ [] → localBacked s.module adr = true → localBacked s.module (adr + bs.length - 1) = true →
      ∃ t, exec (.rdmaInboundWrite adr bs) s = .next t ∧ memReadN t.mem adr bs.length = bs ∧
        ∀ b, b < adr ∨ adr + bs.length ≤ b → memRead t.mem b = memRead s.mem b)

namespace Sys2Proof.Machine

/-- A flit whose CRC passes is taken; one that fails is replayed, a second failure takes its port out of service with a lasting
error, and a port out of service takes nothing; behind a held beat a port takes nothing yet. A read request of another module is answered
with the bytes at its address, and a write writes its bytes and is acknowledged, both exempt from race detection (R309, R312, R315,
R316). That a read that no retry mends is told here and has no answer there is the model's reading (log 63), and payloads that the
spec does not lay out are its choice (log 39). -/
def Claims.FlitsAndRequestsOfOtherModules : Prop :=
  ∀ (s : State) (f : Flit), let n := s.focus.port
    let d := Config.portDie n
    let p := s.port n
    (p.up = false ∨ Config.narebPorts ≤ n → ∀ ok, exec (.flitReceive f ok) s = .next s) ∧
    (p.up = true → n < Config.narebPorts → p.hold ≠ [] → ∀ ok,
      exec (.flitReceive f ok) s = .next { s with inputs := .run s.focus (.flitReceive f ok) :: s.inputs }) ∧
    (p.up = true → n < Config.narebPorts → p.hold = [] → d < s.dies.length →
      (p.retry = false → ∃ t, exec (.flitReceive f false) s = .next t ∧ t.mem = s.mem ∧ t.port n = { p with retry := true }) ∧
      (p.retry = true → ∃ t, exec (.flitReceive f false) s = .next t ∧ (t.port n).up = false ∧
        ((s.die d).faults.recs.length < Config.faultQueueSize → ∃ y, (t.die d).faults.recs = addRecord (s.die d).faults.recs y ∧
          fieldNat y 0 8 = fcLasting)) ∧
      (p.retry = false → (f.kind = 0 ∨ f.kind = 4 ∧ (f.payload.getD 8 0).toNat ≠ codeBeat) → ∃ t, exec (.flitReceive f true) s = .next t ∧
        t.agenda = .run { Focus.none with die := d } (.narebRequest f) :: s.agenda ∧ t.mem = s.mem ∧ t.dies = s.dies)) ∧
    let a := leNat (f.payload.take 7)
    let n := (f.payload.getD 7 0).toNat
    (s.memOk → 1 ≤ n → n ≤ 64 → physBacked s a n = true → s.portsUp ≠ [] → s.puts = [] →
      (f.kind = 0 → s.failing a n = false → ∃ t, exec (.narebRequest f) s = .next t ∧ t.mem = s.mem ∧ ∃ fs, t.outbox = s.outbox ++ fs ∧
        (fs.flatMap (·.payload)).take (8 + n) = f.payload.take 8 ++ memReadN s.mem (paLocal a) n ∧
        ∀ x ∈ fs, x.kind = 1 ∧ x.tag = f.tag ∧ x.dst = f.src) ∧
      (f.kind = 0 → s.failing a n = true → exec (.narebRequest f) s = .next (homeLost s (paLocal a)) ∧
        (Claims.silent s (homeDie (paLocal a)) → pageOwners s (s.module.nrid.toNat * 2 ^ 44 + paLocal a) = [] →
          (homeLost s (paLocal a)).outbox = s.outbox ∧ (homeLost s (paLocal a)).mem = s.mem)) ∧
      (f.kind = 2 → n ≤ (f.payload.drop 8).length → ∃ t, exec (.narebRequest f) s = .next t ∧
        memReadN t.mem (paLocal a) n = (f.payload.drop 8).take n ∧
        (∀ b, b < paLocal a ∨ paLocal a + n ≤ b → memRead t.mem b = memRead s.mem b) ∧
        ∃ wakes x, t.outbox = s.outbox ++ wakes ++ [x] ∧ x.kind = 3 ∧ x.tag = f.tag ∧ x.dst = f.src ∧
        ((∀ m ∈ s.monitors, m.peer = none) → wakes = [])) ∧
      (f.kind = 4 → s.failing a n = false → (f.payload.getD 8 0).toNat < 8 → ∃ t, exec (.narebRequest f) s = .next t ∧
        ∀ b, b < paLocal a ∨ paLocal a + n ≤ b → memRead t.mem b = memRead s.mem b))

end Sys2Proof.Machine

/-- A flit whose CRC passes is taken; one that fails is replayed, a second failure takes its port out of service with a lasting
error, and a port out of service takes nothing; behind a held beat a port takes nothing yet. A read request of another module is
answered with the bytes at its address, and a write writes its bytes and is acknowledged, both exempt from race detection (R309,
R312, R315, R316). That a read that no retry mends is told here and has no answer there is the model's reading (log 63), and
payloads that the spec does not lay out are its choice (log 39). The held beats of a port are tried again once 4,096 cycles have
passed since they were held or last tried: those that can be written are written and leave in order; the first that finds its page
absent stays, with those behind it, and has its one record. Before that cycle, and with no beat held, nothing happens (R316). Where
a beat lands is the model's choice (log 39). -/
def Obligations.LinksCarryFlitsAndBeats : Prop := Sys2Proof.Machine.Claims.FlitsAndRequestsOfOtherModules ∧ Sys2Proof.Machine.Claims.HeldBeatsAreRetried

namespace Sys2Proof.Machine

/-- Power-on and STCTL.GO start the module: every task and register goes back to reset, memory, defects and the flash stay. The
steps of a start follow one another: fused and found defects make blocks unusable, NRID is written and locked, the expanders back 15/16 of
their capacity, a cold start clears memory, the image is checked; the last opens the module, with every die's cycle counter 0 and its
system region on its highest usable block. A failed step is repeated by a cold start once, and a second failure is recovery (R20, R36,
R313, R314, R324, R325, R330). What a start keeps, and which steps can fail, are the model's reading (log 41). -/
def Claims.StartsRunTheirSteps : Prop :=
  ∀ (s : State) (v : W64), let m := s.module
    let fresh (t : State) : Prop := t.tasks = [] ∧ t.regions = [] ∧ t.reqs = [] ∧ t.cmds = [] ∧ t.iports = [] ∧ t.monitors = [] ∧
      t.mem = s.mem ∧ t.capTags = s.capTags ∧ t.module.phase = .starting ∧ t.module.otb = 0 ∧ t.module.nrid = 0 ∧
      t.module.nridLocked = false ∧ t.module.attempts = 0 ∧ t.module.pwrlim = 15000 ∧ t.module.fwAct = m.fwAct ∧
      t.module.fwBytes = m.fwBytes ∧ ∀ d < s.dies.length, (t.die d).launch = .reset ∧ (t.die d).faults = .reset ∧
        (t.die d).sites = (s.die d).sites ∧ (t.die d).badBlocks = (s.die d).badBlocks ∧ (t.die d).matrix = [] ∧ (t.die d).fspool = 0
    (∃ t, exec .powerOn s = .next t ∧ fresh t ∧ t.module.step = 1 ∧ t.module.cold = true ∧ t.module.nextSeq = 1 ∧ t.module.clr = false) ∧
    (m.phase ≠ .starting → ∃ t, exec (.moduleStart v) s = .next t ∧ fresh t ∧ t.module.step = (if v.getLsbD 1 then 4 else 1) ∧
      t.module.warm = v.getLsbD 1 ∧ t.module.cold = !v.getLsbD 1 ∧ t.module.clr = v.getLsbD 2 ∧ t.module.nextSeq = m.nextSeq) ∧
    (m.phase = .starting → exec (.moduleStart v) s = .next s) ∧
    (m.phase = .starting → m.off = false →
      let k := m.step
      let fails : Prop := ∃ t, exec .startStepDone s = .next t ∧ t.module.fstep = k ∧ t.module.attempts = m.attempts + 1 ∧
        (m.attempts = 0 → t.module.phase = .starting ∧ t.module.step = 1 ∧ t.module.warm = m.warm) ∧
        (1 ≤ m.attempts → t.module.phase = .recovery ∧ t.module.step = 0)
      let usable (t : State) : Prop := ∀ x ∈ t.dies, x.usable ≠ []
      (k ≠ 0 → k ∈ m.parts.faults → fails) ∧
      (k = 1 → 1 ∉ m.parts.faults →
        (usable (readFuses s) → ∃ t, exec .startStepDone s = .next t ∧ t.module = { m with step := 2 } ∧ t.mem = s.mem ∧
          ∀ d < s.dies.length, (∀ p, p ∈ (t.die d).sites ↔ p ∈ (s.die d).sites ∨ (d, p) ∈ m.parts.fusedSites) ∧
            ∀ b < 256, b ∈ (t.die d).badBlocks ↔ b ∈ (s.die d).badBlocks ∨ (d, b) ∈ m.parts.fusedBlocks ∨
              2 < ((t.die d).sites.filter (·.1 == b)).length) ∧
        (¬usable (readFuses s) → fails)) ∧
      (k = 2 → 2 ∉ m.parts.faults → exec .startStepDone s = .next { s with module := { m with step := 3 } }) ∧
      (k = 3 → 3 ∉ m.parts.faults →
        (usable (selfTest s) → ∃ t, exec .startStepDone s = .next t ∧ t.module = { m with step := 4 } ∧ t.mem = s.mem ∧
          ∀ d < s.dies.length, ∀ b, b ∈ (t.die d).badBlocks ↔ b ∈ (s.die d).badBlocks ∨ (d, b) ∈ m.parts.testBlocks) ∧
        (¬usable (selfTest s) → fails)) ∧
      (k = 4 → 4 ∉ m.parts.faults → ∃ t, exec .startStepDone s = .next t ∧ t.mem = s.mem ∧
        t.module = { m with step := 5, nrid := m.parts.index, nridLocked := true,
                            backed := (List.range 8).map fun i => min (m.parts.expanders.getD i 0 / 16 * 15) Config.farStride } ∧
        ∀ n ∈ m.parts.deadPorts, n < Config.narebPorts → Config.portDie n < s.dies.length → (t.port n).up = false) ∧
      (k = 5 → 5 ∉ m.parts.faults → m.cold = true ∨ m.attempts ≠ 0 ∨ m.clr = true → exec .startStepDone s = .next
        { s with module := { m with step := 6 }, mem := [], capTags := [], accTags := [] }) ∧
      (k = 5 → 5 ∉ m.parts.faults → m.cold = false → m.attempts = 0 → m.clr = false →
        exec .startStepDone s = .next { s with module := { m with step := 6 } }) ∧
      (k = 6 → 6 ∉ m.parts.faults →
        (imageOk m m.fwAct = true → exec .startStepDone s = .next { s with module := { m with step := 7 } }) ∧
        (imageOk m m.fwAct = false → fails)) ∧
      (k = 7 → 7 ∉ m.parts.faults → usable s → ∃ t, exec .startStepDone s = .next t ∧ t.module.phase = .running ∧ t.module.step = 0 ∧
        t.module.attempts = m.attempts + 1 ∧ t.mem = s.mem ∧ ∀ d < s.dies.length, (t.die d).cycle = 0 ∧
          (t.die d).sysBlock ∈ (s.die d).usable ∧ (∀ b ∈ (s.die d).usable, b ≤ (t.die d).sysBlock) ∧
          ∃ r ∈ t.regions, r.die = d ∧ r.rblk = (t.die d).sysBlock ∧ r.width = 1 ∧ r.height = 1 ∧ r.seq = 0) ∧
      (k = 7 → ¬usable s → fails)) ∧
    (m.phase ≠ .starting ∨ m.off = true → exec .startStepDone s = .next s)

/-- FWDATA puts 8 bytes at OFS of the inactive bank and moves on; erasing zeroes that bank, verifying checks it and sets VOK, and
activating a verified bank makes it the active one. While an erase or a verify runs, and in a start, the commands do nothing. ATTEST
writes its report at ATTDST, or fails (R326, R328, R329). That erase and verify take a step each, and ATTEST one, is the model's
reading (log 42). -/
def Claims.FirmwareAndAttestation : Prop :=
  ∀ (s : State) (v : W64), let m := s.module
    let bank := !m.fwAct
    let open_ := m.phase ≠ .starting ∧ m.fwBusy = 0
    let sets (i : Instr) (y : Module) : Prop := exec i s = .next { s with module := y }
    (open_ → m.fwOfs < 2 ^ 22 → ∃ t, exec (.fwdata v) s = .next t ∧ t.module.fwOfs = m.fwOfs + 1 ∧ t.module.fwVok = false ∧
      (∀ j < 8, flashByte t.module bank (8 * m.fwOfs + j) = v.extractLsb' (8 * j) 8) ∧
      (∀ b i, ¬(b = bank ∧ 8 * m.fwOfs ≤ i ∧ i < 8 * m.fwOfs + 8) → flashByte t.module b i = flashByte m b i) ∧ t.mem = s.mem) ∧
    (open_ → ∃ t, exec (.fwErase v) s = .next t ∧ t.module.fwOfs = 0 ∧ t.module.fwVok = false ∧ t.module.fwBusy = 1 ∧
      (∀ i, flashByte t.module bank i = 0) ∧ (∀ i, flashByte t.module m.fwAct i = flashByte m m.fwAct i) ∧ t.mem = s.mem) ∧
    (m.fwBusy = 1 → sets .fwEraseDone { m with fwBusy := 0 }) ∧ (m.fwBusy ≠ 1 → exec .fwEraseDone s = .next s) ∧
    (open_ → sets (.fwVerify v) { m with fwBusy := 2 }) ∧
    (m.fwBusy = 2 → sets .fwVerifyDone { m with fwBusy := 0, fwVok := imageOk m bank }) ∧
    (m.fwBusy ≠ 2 → exec .fwVerifyDone s = .next s) ∧
    (open_ → m.fwVok = true → sets (.fwActivate v) { m with fwAct := bank }) ∧
    (open_ → m.fwVok = false → exec (.fwActivate v) s = .next s) ∧
    (¬open_ → ∀ i ∈ [Instr.fwdata v, .fwErase v, .fwVerify v, .fwActivate v], exec i s = .next s) ∧
    (m.phase = .starting → exec (.attest v) s = .next s) ∧
    (m.phase ≠ .starting → m.attState ≠ 1 →
      (m.digest = none ∨ m.phase = .recovery ∨ s.isLocal m.attDst.toNat = false ∨ 0x6000000000 < paLocal m.attDst.toNat + 7568 → sets (.attest v) { m with attState := 3 }) ∧
      (∀ dg, m.digest = some dg → m.phase = .running → m.attn.length = 4 → s.memOk → s.isLocal m.attDst.toNat = true →
        paLocal m.attDst.toNat + 7568 ≤ 0x6000000000 → ∃ t, exec (.attest v) s = .next t ∧ t.module = { m with attState := 2 } ∧
          (report s dg).length = 7568 ∧ memReadN t.mem (paLocal m.attDst.toNat) 7568 = report s dg ∧
          ∀ b, b < paLocal m.attDst.toNat ∨ paLocal m.attDst.toNat + 7568 ≤ b → memRead t.mem b = memRead s.mem b))

end Sys2Proof.Machine

/-- Power-on and STCTL.GO start the module: every task and register goes back to reset, memory, defects and the flash stay. The
steps of a start follow one another: fused and found defects make blocks unusable, NRID is written and locked, the expanders back
15/16 of their capacity, a cold start clears memory, the image is checked; the last opens the module, with every die's cycle counter
0 and its system region on its highest usable block. A failed step is repeated by a cold start once, and a second failure is
recovery (R20, R36, R313, R314, R324, R325, R330). What a start keeps, and which steps can fail, are the model's reading (log 41).
FWDATA puts 8 bytes at OFS of the inactive bank and moves on; erasing zeroes that bank, verifying checks it and sets VOK, and
activating a verified bank makes it the active one. While an erase or a verify runs, and in a start, the commands do nothing. ATTEST
writes its report at ATTDST, or fails (R326, R328, R329). That erase and verify take a step each, and ATTEST one, is the model's
reading (log 42). -/
def Obligations.StartsFirmwareAndAttestation : Prop := Sys2Proof.Machine.Claims.StartsRunTheirSteps ∧ Sys2Proof.Machine.Claims.FirmwareAndAttestation

/-- In a cycle the die's counter advances by one, codebook writes are seen, and CTLW writes and breakpoints take effect in its
regions; a stopped clock starts again. A reason that has held for a millisecond steps the clock down, 10 ms without one steps it up,
at most to step 4 and step 0; 115 degrees end every task and put the module off until power returns (R4, R128, R226, R331). The
count of a millisecond in cycles is the model's reading (log 43), and that a stopped clock stands still for one round its choice
(log 2). -/
def Obligations.CyclesClockAndPower : Prop :=
  ∀ (s : State), let d := s.focus.die
    let x := s.die d
    let other (t : State) : Prop := t.mem = s.mem ∧ t.tasks = s.tasks ∧ t.reqs = s.reqs ∧ ∀ e, e ≠ d → t.die e = s.die e
    d < s.dies.length →
    (x.stopped = true → ∃ t, exec .fabricCycle s = .next t ∧ other t ∧ t.die d = { x with stopped := false } ∧ t.regions = s.regions) ∧
    (x.stopped = false → ∃ t, exec .fabricCycle s = .next t ∧ other t ∧ (t.die d).cycle = x.cycle + 1 ∧ (t.die d).bookDue = [] ∧
      (t.die d).launch = x.launch ∧ (t.die d).faults = x.faults ∧ (t.die d).matrix = x.matrix ∧
      (∀ k e, x.bookDue = [(k, e)] → lookD (t.die d).books k 0 = e) ∧ t.regions.length = s.regions.length ∧
      ∀ (i : Nat) (r : Region), s.regions[i]? = some r → ∃ r', t.regions[i]? = some r' ∧ (r.die ≠ d → r' = r) ∧ r'.pc = r.pc ∧ r'.i = r.i ∧ r'.st = r.st ∧
        r'.cells = r.cells ∧ (r.die = d → r'.ctlw = [] ∧ r'.w = r.ctlw.foldl (fun w e => w.set e.1 e.2) r.w ∧
          (∀ c, r.brkDue = some c → r.frozen = .no → r'.frozen = .brk c) ∧ (r.brkDue = none → r'.frozen = r.frozen))) ∧
    (let perMs := match x.cstep.toNat with | 0 => 3300000 | 1 => 2800000 | 2 => 2200000 | 3 => 1600000 | _ => 800000
     (perMs ≤ x.hot → x.cstep.toNat < 4 → ∃ t, exec .clockStepDown s = .next t ∧ other t ∧
       t.die d = { x with cstep := x.cstep + 1, stopped := true, hot := 0, cool := 0 }) ∧
     (x.hot < perMs ∨ 4 ≤ x.cstep.toNat → ∃ t, exec .clockStepDown s = .next t ∧ other t ∧ t.die d = x) ∧
     (10 * perMs ≤ x.cool → 0 < x.cstep.toNat → ∃ t, exec .clockStepUp s = .next t ∧ other t ∧
       t.die d = { x with cstep := x.cstep - 1, stopped := true, hot := 0, cool := 0 }) ∧
     (x.cool < 10 * perMs ∨ x.cstep.toNat = 0 → ∃ t, exec .clockStepUp s = .next t ∧ other t ∧ t.die d = x)) ∧
    ((∃ y ∈ s.dies, 115 * 16 ≤ y.temp.toNat) → ∃ t, exec .thermalShutdown s = .next t ∧ t.module.off = true ∧ t.tasks = [] ∧ t.regions = [] ∧
      t.module.phase = .starting ∧ t.mem = s.mem) ∧
    ((∀ y ∈ s.dies, y.temp.toNat < 115 * 16) → exec .thermalShutdown s = .next s)

namespace Sys2Proof.Machine

/-! Completion: where the instructions and steps whose statements have many cases complete. -/

end Sys2Proof.Machine

/-- Where the instructions of a controller complete, with no pitch running. CFG goes on to its commands; PCFG, YIELD, a service TRAP,
SETSTAGE.DECL, SETQ, SAVE, RSTR, SETKS, RDFQ, SPAWN and GRPL go on behind themselves with what they write; SETSTAGE.ENTER, and its
resumption, goes to the entry of the stage chosen (R203, R211 to R213, R216, R217, R219, R222, R285). So CFG, PCFG, SPAWN, GRPL, both forms of SETSTAGE and of SETQ, YIELD, SAVE, RSTR, TRAP, SETKS and
RDFQ complete. The cycle of the next instruction is the model's choice (log 13). -/
def Obligations.ControllerInstructionsComplete : Prop :=
  ∀ (s s1 s2 : State) (r : Region) (t0 : Task) (k : FmtK) (g : FmtG) (code : BitVec 16), Claims.at_ s r → s.Alone →
    s.task r.seq = some t0 → r.running = false →
    let now := s.now r.die
    let cap := s.arg r.seq g.slot.toNat
    let o := (r.w.getD g.wa.toNat 0 + Claims.opB r g).toNat
    let b := (Claims.opB r g).toNat
    let e := (r.w.getD g.wa.toNat 0).toNat
    let behind (i : Instr) (P : Region → Prop) : Prop := ∃ t r', exec i s = .next t ∧ t.region s.focus.die s.focus.rblk = some r' ∧
      r'.pc = r.pc + 8 ∧ P r'
    let sets (i : Instr) (v : W64) : Prop := behind i fun r' => r'.w = r.w.set g.wd.toNat v
    let stay (i : Instr) : Prop := behind i fun r' => r'.w = r.w ∧ r'.i = r.i ∧ r'.st = r.st
    let there := s1.wants = [] ∧ Claims.at_ s1 r ∧ s1.focus = s.focus ∧ s1.puts = []
    (∃ t r' c, exec (.cfg k) s = .next t ∧ t.region s.focus.die s.focus.rblk = some r' ∧ r'.ctl = .cfg ∧ r'.cfg = some c ∧
      c.off = k.off.toNat ∧ c.count = k.cnt.toNat ∧ c.at_ = now + 1) ∧
    stay (.pcfg k) ∧ stay .yieldOp ∧ (behind (.trapService code) fun r' => r'.frozen = .service ∧ r'.w = r.w) ∧
    (r.num = 0 → t0.entered = false → b < 256 → e % 8 = 0 → stay (.setstageDecl g)) ∧
    (∀ ws, r.num = 0 → t0.entered = false → b < 256 → ctlReads s r cap e rRead 8 = (some ws, s1) → there → s1.task r.seq = some t0 →
      queueOk r ws = true → (bindingClash s t0 b g.slot.toNat e true = false → stay (.setqIn g)) ∧
        (bindingClash s t0 b g.slot.toNat e false = false → stay (.setqOut g))) ∧
    (∀ vs v q, (∀ x ∈ t0.stages, x.entry ≠ none) →
      viewStages (if r.num = 0 then s.updTask r.seq fun t => { t with entered := true } else s) r t0.stages = (some vs, s1) → there →
      chooseStage vs r.stage = some v → openQueues s1 r v = (some q, s2) → s2.wants = [] → Claims.at_ s2 r → s2.focus = s.focus →
      let goes (i : Instr) : Prop := ∃ t r', exec i s = .next t ∧ t.region s.focus.die s.focus.rblk = some r' ∧
        r'.pc = v.stage.entry.getD 0 ∧ r'.stage = some v.stage.num
      (r.num = 0 ∨ t0.entered = true → goes (.setstageEnter g)) ∧ (r.ctl = .stage → t0.entered = true → goes .stageResume)) ∧
    (cap.lets rWrite o 128 8 → r.w.length = 16 → ctlWrites s r cap o rWrite r.w = (some (), s1) → there → stay (.saveW g)) ∧
    (cap.lets rWrite o 40 8 → r.i.length = 4 → ctlWrites s r cap o rWrite (r.i.map (·.setWidth 64) ++ [r.st]) = (some (), s1) → there →
      stay (.saveIs g)) ∧
    (∀ vs, cap.lets rRead o 128 8 → ctlReads s r cap o rRead 16 = (some vs, s1) → there → behind (.rstrW g) fun r' => r'.w = vs) ∧
    (∀ vs, cap.lets rRead o 40 8 → ctlReads s r cap o rRead 5 = (some vs, s1) → there →
      behind (.rstrIs g) fun r' => r'.i = (vs.take 4).map (·.setWidth 32) ∧ r'.w = r.w) ∧
    (r.rblk = (s.die r.die).sysBlock → (s.die r.die).faults.recs = [] → sets (.rdfq g) 0 ∧ (s.region r.die (e % 256) = none → sets (.setks g) 0)) ∧
    (∀ vs, let p : BitVec 2048 := BitVec.ofNat 2048 (vs.foldr (fun v n => v.toNat + n * 2 ^ 64) 0)
      (∀ x, r.ctl ≠ .spawn x) → capCheck cap rRead e 256 = none → ctlReads s r cap e rRead 32 = (some vs, s1) → there →
      seqFree s1 = true →
      (∀ t us, b < 256 → queueRoom s1 r.die b = true → checkPacket s1 r.die (spawnHeld s1 r p (spawnRun s1 r g b [p]).tags b) = .good t us →
        sets (.spawn g) (BitVec.ofNat 64 s1.module.nextSeq)) ∧
      (∀ s3, readN32 s1 r (slotOf s1 r g) b 1 = (some [0], s3) → s3.wants = [] → Claims.at_ s3 r → s3.focus = s.focus → sets (.grpl g) 0))

/-- Where the passes of a RUN, and the steps of launch, of the system registers and of faults complete: each with its main effect, under
conditions on the state and its operands alone (R165, R205, R228, R268, R269, R272, R278, R287, R295, R296, R298, R299, R302 to R304,
R320). So RUN's passes, KICK, its re-read, the acceptance of a packet and of a continuation, the writes of LQ registers, TPRIO, FQPOP,
XINV, the apertures and every other register, MCTL release, kill and resume, PRE abort, drain and freeze, the end of a drain's time and
of a page-fault window complete. That a queue's place and number are taken here is the model's reading (log 30). -/
def Obligations.ModuleStepsComplete : Prop :=
  ∀ (s : State) (v : W64) (x : Task) (h : Held) (ks : List (BitVec 16)), let d := s.focus.die
    let y := s.die d
    let l := y.launch
    d < s.dies.length → s.Alone →
    let die (i : Instr) (P : Die → Prop) : Prop := ∃ t, exec i s = .next t ∧ P (t.die d)
    (∀ r c p, Claims.at_ s r → r.live = true → startPorts r = [(c, p)] → p < (r.cell c).rt.ports.length → r.runAt ≤ s.now r.die →
      r.passNext < r.passes → (let q := (r.cell c).rt.port p; occupancy q.q q.popped q.popAt (s.now r.die) < r.portSlots c p) →
      ∃ t r', exec .runPass s = .next t ∧ t.region s.focus.die s.focus.rblk = some r' ∧ r'.passNext = r.passNext + 1) ∧
    (∀ k, l.kicks = k :: ks → l.held = none → l.lqn ≠ 0 → needPhys s (headAt l) 256 = s → s.failing (headAt l) 256 = false →
      fieldNat (headPacket s l) 0 16 = k.toNat →
      let takes (i : Instr) : Prop := die i fun z => z.launch.kicks = ks ∧ ∃ n, z.launch.held = some n ∧ n.packet = headPacket s l
      (l.reads = 0 → takes .kick) ∧ (l.reads ≠ 0 → l.nextRead ≤ s.now d → takes .launchReread)) ∧
    (∀ n t us, h.seq = some n → (h.kicked = true → needPhys s h.pa 256 = s) → checkPacket s d h = .good t us → queueRoom s d h.queue = true →
      let queues (i : Instr) : Prop := ∃ u z, exec i s = .next u ∧ u.tasks = s.tasks ++ [z] ∧ z.seq = n ∧ z.state = t.state
      (l.held = some h → queues .packetAccept) ∧ (∀ rest, l.conts = h :: rest → queues .continuationEnqueue)) ∧
    (fieldNat v 56 8 = 0 → fieldNat v 0 8 = 0 → die (.lqConfigWrite 0x0200 v) fun z => z.launch.lqbase = v ∧ z.launch.head = 0) ∧
    (fieldNat v 27 37 = 0 → s.task (fieldNat v 0 24) = some x →
      ∃ t, exec (.tprio v) s = .next t ∧ t.task x.seq = some { x with prio := fieldNat v 24 3 }) ∧
    (y.faults.recs ≠ [] → v.toNat % 64 = 0 → v.toNat < 2 ^ 56 → s.isBacked v.toNat = true → s.isLocal v.toNat = true →
      die (.fqpop v) fun z => z.faults.recs = y.faults.recs.drop 1) ∧
    (fieldNat v 33 31 = 0 → die (.xinv v) fun z => ∀ e ∈ z.xlates, e ∈ y.xlates ∧ v.getLsbD 32 = false ∧ e.oid ≠ fieldNat v 0 32) ∧
    (∀ a < 16, v &&& aperReserved 0 = 0 → s.writesOut = false → die (.apertureRegWrite (BitVec.ofNat 16 (0x400 + 4 * a)) v) fun z => (z.aper a).base = v) ∧
    (die (.registerWrite 0x202 v) fun z => z.launch.grant = v) ∧
    (∀ r, fieldNat v 48 14 = 0 → fieldNat v 14 2 = 0 → s.region d (fieldNat v 0 14) = some r → r.seq = fieldNat v 16 24 → r.frozen ≠ .no →
      (faultWaits s r = false → ∃ t r', exec (.mctlRelease v) s = .next t ∧ t.region d (fieldNat v 0 14) = some r' ∧ r'.frozen = .no) ∧
      ∃ t, exec (.mctlKill v) s = .next t ∧ t.task (fieldNat v 16 24) = none) ∧
    (fieldNat v 48 14 = 0 → s.task (fieldNat v 16 24) = some x → x.die = d → x.state = .waiting →
      ∃ t z, exec (.mctlResume v) s = .next t ∧ t.task x.seq = some z ∧ z.state = .queued) ∧
    (fieldNat v 26 6 = 0 → y.faults.preState ≠ 1 → s.task (fieldNat v 0 24) = some x → x.die = d → x.state = .bound →
      frozenMaster s x.seq = false → let pre (i : Instr) (P : Task → Prop) : Prop := ∃ t z, exec i s = .next t ∧ t.task x.seq = some z ∧ P z
      (pre (.preAbort v) fun z => z.state = .queued ∧ z.pre = .no) ∧
      (pre (.preDrain v) fun z => z.pre = .drain (if fieldNat v 32 30 = 0 then none else some (s.now d + fieldNat v 32 30))) ∧
      pre (.preFreeze v) fun z => z.pre = .freeze) ∧
    (s.task s.focus.id = some x →
      (∀ due, x.pre = .drain (some due) → due ≤ s.now x.die → (∃ r ∈ s.regions, r.seq = x.seq ∧ r.held = false) →
        ∃ t z, exec .drainDeadline s = .next t ∧ t.task x.seq = some z ∧ z.state = .queued ∧ z.pre = .no) ∧
      (∀ opened, x.state = .window opened → opened + 4096 ≤ s.now x.die →
        (s.tasks.filter fun t => t.die == x.die && t.state == .waiting).length < 256 →
        ∃ t z, exec .pageFaultWindowClose s = .next t ∧ t.task x.seq = some z ∧ z.state = .waiting))

/-- Where the steps of links, of a start, of the firmware registers and of attestation complete: each with its main effect, under conditions
on the state and its operands alone (R312, R315, R316, R324 to R326, R328 to R330). So the receipt of a flit, a request of another
module, the re-translation of held beats, power-on, STCTL.GO, the steps of a start, FWDATA, erase, verify, activate, what ends them, and
ATTEST complete. The layout of flits is the model's choice (log 39), the steps that can fail its reading (log 41). -/
def Obligations.LinkAndStartStepsComplete : Prop :=
  ∀ (s : State) (f : Flit) (v : W64), let m := s.module
    let p := s.port s.focus.port
    let mod (i : Instr) (P : Module → Prop) : Prop := ∃ t, exec i s = .next t ∧ P t.module
    let a := leNat (f.payload.take 7)
    let n := (f.payload.getD 7 0).toNat
    let open_ := m.phase ≠ .starting ∧ m.fwBusy = 0
    (p.up = true → s.focus.port < Config.narebPorts → p.hold = [] → p.retry = false → f.kind = 0 → ∃ t, exec (.flitReceive f true) s = .next t ∧
      t.agenda = .run { Focus.none with die := Config.portDie s.focus.port } (.narebRequest f) :: s.agenda) ∧
    (s.memOk → 1 ≤ n → n ≤ 64 → physBacked s a n = true → f.kind = 2 → n ≤ (f.payload.drop 8).length →
      ∃ t, exec (.narebRequest f) s = .next t ∧ memReadN t.mem (paLocal a) n = (f.payload.drop 8).take n) ∧
    (∀ b u, p.hold = [b] → p.holdAt ≤ s.now (Config.portDie s.focus.port) → s.focus.port < Config.narebPorts →
      Config.portDie s.focus.port < u.dies.length → landBeat s (Config.portDie s.focus.port) b = .written u → b.src = u.module.nrid.toNat →
      ∃ t, exec .xferHoldRetranslate s = .next t ∧ t.mem = u.mem ∧ (t.port s.focus.port).hold = []) ∧
    (mod .powerOn fun x => x.phase = .starting ∧ x.step = 1 ∧ x.attempts = 0 ∧ x.otb = 0) ∧
    (m.phase ≠ .starting → mod (.moduleStart v) fun x => x.phase = .starting ∧ x.step = (if v.getLsbD 1 then 4 else 1) ∧ x.otb = 0) ∧
    (m.phase = .starting → m.off = false → m.parts.faults = [] → 1 ≤ m.step → m.step ≤ 6 → (m.step = 6 → imageOk m m.fwAct = true) →
      (m.step = 1 → ∀ x ∈ (readFuses s).dies, x.usable ≠ []) → (m.step = 3 → ∀ x ∈ (selfTest s).dies, x.usable ≠ []) →
      mod .startStepDone fun x => x.phase = .starting ∧ x.step = m.step + 1 ∧ x.attempts = m.attempts) ∧
    (m.phase = .starting → m.off = false → m.parts.faults = [] → m.step = 7 → (∀ x ∈ s.dies, x.usable ≠ []) →
      mod .startStepDone fun x => x.phase = .running ∧ x.step = 0 ∧ x.attempts = m.attempts + 1) ∧
    (open_ → m.fwOfs < 2 ^ 22 → mod (.fwdata v) fun x => x.fwOfs = m.fwOfs + 1 ∧ x.fwVok = false) ∧
    (open_ → mod (.fwErase v) fun x => x.fwBusy = 1 ∧ x.fwOfs = 0 ∧ x.fwVok = false) ∧ (open_ → mod (.fwVerify v) fun x => x.fwBusy = 2) ∧
    (open_ → m.fwVok = true → mod (.fwActivate v) fun x => x.fwAct = !m.fwAct) ∧
    (m.fwBusy = 1 → mod .fwEraseDone fun x => x.fwBusy = 0) ∧
    (m.fwBusy = 2 → mod .fwVerifyDone fun x => x.fwBusy = 0 ∧ x.fwVok = imageOk m !m.fwAct) ∧
    (m.phase = .running → m.attState ≠ 1 → m.digest ≠ none → s.isLocal m.attDst.toNat = true →
      paLocal m.attDst.toNat + 7568 ≤ 0x6000000000 → mod (.attest v) fun x => x.attState = 2)

/-- Where the commands of islands complete: MCLAIM, MRELEASE, MDRAIN and NORM with their last item, and each streamer command with its last
step, the command then done with its work (R82, R237, R242, R243, R252, R254 to R264). A step's cycles are the model's choice (log
15). So MCLAIM, MRELEASE, MDRAIN, NORM, COPY, CHAIN, STASH, RESTORE, CONV to and from CSR and to C4, FPRINT, DEDUP, XFER put and get
complete. -/
def Obligations.IslandCommandsComplete : Prop :=
  ∀ (s u : State) (c : Cmd) (w : EngWords), EngineReady s c w → c.isLoad = false →
    let x := (s.die c.die).island c.isl
    let src := x.tile c.accTile
    let dst := ((s.die c.die).island (c.f1 58 6)).tile (c.f1 54 4)
    let done (i : Instr) : Prop := ∃ t y, exec i s = .next t ∧ Claims.left s t = some y ∧ y.stage = .complete ∧ y.id = c.id
    ((∀ n ∈ c.claimSlots, (x.slot n).owner = 0) → (∀ n ∈ c.amask, (x.tile n).owner = 0) → done (.mclaim w)) ∧
    ((∀ n ∈ c.claimSlots, (x.slot n).owner = c.seq) → (∀ n ∈ c.amask, (x.tile n).owner = c.seq) → done (.mrelease w)) ∧
    (c.begun = true → src.owner = c.seq → dst.owner = c.seq → src.anchor ≠ none → dst.anchor = none ∨ dst.anchor = src.anchor →
      done (.mdrain w)) ∧
    (∀ r v, c.begun = true → c.reading = some v → s.region c.die c.rblk = some r → r.held = false →
      (∀ j < 2 ^ c.f0 31 3, returnRoom r (c.f0 17 14 + j) (c.f0 15 2) (s.now c.die) = true) →
      (normItem v (c.f0 34 1 == 1) (2 ^ c.f0 31 3) c.item).2.2 = true → done (.norm w)) ∧
    ∀ e ∈ streamerOps w, ∀ n c', islandFrozen s c.die c.target c.isl c.rblk = false → c.begun = true →
      e.2.step s c = .ok (true, n, c') u → u.wants = [] → c'.id = c.id → Claims.left s u = some c → done e.1

namespace Sys2Proof.Machine

/-! The machine as a whole. -/

end Sys2Proof.Machine

/-- The forms of stored data hold at reset: memory lists nothing, and no fault queue exceeds its 512 records (R160, R294). That
unlisted memory reads 0 is the model's choice (log 5). -/
def Obligations.ResetMeetsTheInvariant : Prop := State.reset.Inv

/-- Every step keeps the forms of stored data: memory stays a strictly ascending list of bytes that are not zero, and no die's system fault
queue ever holds more than 512 records (R294). -/
def Obligations.StepsKeepTheInvariant : Prop := ∀ s t : State, s.Inv → step s = .next t → t.Inv

/-- For every instruction that has an encoding, decoding its bytes gives it back, every operand at every value that the encoding admits
(R97 to R102, R231, R233). -/
def Obligations.DecodingInvertsEncoding : Prop := ∀ i : Instr, i.wf = true → ∀ e, encode i = some e → decode e = some i

namespace Sys2Proof.Machine

/-- What a step is whose event has come to an outcome: what it has still to write on other modules leaves, and nothing stays wanted
(R315). -/
def Claims.steps (s : State) (o : Out) : Prop := step s = match o with
  | .next t => .next (eventDone t)
  | o => o

/-- A step from s runs instruction i in state v; where that comes to a state with nothing under way to other modules, that state is the
next one. -/
def Claims.runs (s : State) (i : Instr) (v : State) : Prop :=
  Claims.steps s (exec i v) ∧ ∀ t, exec i v = .next t → t.wants = [] → t.puts = [] → step s = .next t

/-- The same of an instruction that the actor f fetched in state u: until its word is there the step has not been taken (R315). -/
def Claims.runsFetched (s u : State) (i : Instr) (v : State) : Prop :=
  Claims.steps s (settleOut u (exec i v)) ∧
  (u.asking u.focus = false → ∀ t, exec i v = .next t → t.focus = u.focus → t.Alone → step s = .next t)

end Sys2Proof.Machine

/-- A step runs the instruction that its event fetches: a controller's word at pc, a cell's operation, the next command of a CFG or
the words of an island command, decoded; the state is that of the event with its actor in focus. A trap that is due comes first. What
the step writes on other modules leaves with it. With no event due, a step plans a cycle. The order of events is the model's choice (log
1). -/
def Obligations.StepsRunTheDecodedInstruction : Prop :=
  ∀ (s : State) (f : Focus) (es : List Event) (i : Instr),
    let u := { s with agenda := es, focus := f }
    (∀ r w n u', s.agenda = .ctl f :: es → s.region f.die f.rblk = some r → r.ctl = .ready n → n ≤ s.now f.die → r.frozen = .no →
      r.held = false → trapDue r = none → fetchCtl u r = .ok w u' → u'.wants = [] → decode64 w = some i →
      Claims.runsFetched s u i { u' with focus := f }) ∧
    (∀ r n, s.agenda = .ctl f :: es → s.region f.die f.rblk = some r → r.ctl = .ready n → n ≤ s.now f.die → r.frozen = .no →
      r.held = false → trapDue r ≠ none → Claims.runs s .trapEntry u) ∧
    (∀ r, s.agenda = .cell f :: es → s.region f.die f.rblk = some r → f.cell < r.cellCount → decode40 (r.cell f.cell).cfg.op = some i →
      Claims.runs s i u) ∧
    (∀ r c w u', s.agenda = .cfg f :: es → s.region f.die f.rblk = some r → r.cfg = some c → r.ctl = .cfg → r.frozen = .no →
      c.at_ ≤ s.now f.die → fetchCfg u r c = .ok w u' → u'.wants = [] → decode32 (w.setWidth 32) = some i →
      Claims.runsFetched s u i { u' with focus := f }) ∧
    (∀ c, s.agenda = .cmd f :: es → s.cmd f.id = some c → decode128 c.words.w0 c.words.w1 = some i → Claims.runs s i u) ∧
    (s.agenda = .run f i :: es → actorThere { s with agenda := es } f i = true → Claims.runs s i u) ∧
    (s.agenda = [] → step s = .next (planCycle s))

/-- Words written out from the encoding tables decode to the instructions they stand for: commands, operation words, controller instructions
and island commands; and words with a reserved field, code or register decode to none (R8, R12, R97 to R103). -/
def Obligations.WrittenWordsDecode : Prop :=
  decode32 0x48699580 = some (.extend 0x08699580) ∧ decode32 0x00070000 = some (.write 7 0 0) ∧
  decode32 0x90040002 = some (.selectRepeat 16 2) ∧ decode32 0xE0000000 = some .cfgEnd ∧ decode32 0xF0000000 = none ∧
  decode40 0x21A6560000 = some (.fma ⟨0x09, 0x25, 3, 0⟩) ∧ decode40 0x00A0000000 = some (.add ⟨0x08, 0, 0, 0⟩) ∧
  decode40 0x21A65C0000 = none ∧ decode40 0x218E560000 = none ∧ decode40 0 = none ∧
  decode64 0x11200000FFFFFFFD = some (.brc ⟨2, 0xFFFFFFFD⟩) ∧ decode64 0x11900000FFFFFFFD = none ∧
  decode64 0x11200001FFFFFFFD = none ∧ decode64 0x2132080000000005 = some (.addw ⟨3, 2, 0, 1, 0, 5⟩) ∧
  decode64 0x0100000000400002 = some (.cfg ⟨4, 2⟩) ∧ decode64 0x3F00000000000000 = some .halt ∧ decode64 0 = none ∧
  decode128 0x1302004000000001 0 = some (.mclaim ⟨0x1302004000000001, 0⟩) ∧ decode128 0x1700000000000000 0 = none
end

