-- ==== Sys2Proof/Laws/Memory.lean ====
section
/-! SUPPORT. The laws of the byte store (a read after a write, and the canonical form that every operation keeps) and of the
association lists. -/

namespace Sys2Proof.Machine

/-! The canonical form. -/

/-- Every address listed is above k. -/
def Memory.above (k : Nat) (m : List Host.Cell) : Prop := ∀ c ∈ m, k < c.1

theorem Memory.wf_cons {k : Nat} {v : Byte} {m : List Host.Cell} :
    Memory.wf ((k, v) :: m) = true ↔ v ≠ unlistedByte ∧ Memory.above k m ∧ Memory.wf m = true := by
  simp [Memory.wf, Memory.above, and_assoc]

theorem Memory.above_memWrite {k a : Nat} {v : Byte} {m : List Host.Cell} (h : Memory.above k m) (ha : k < a) :
    Memory.above k (memWrite m a v) := by
  induction m with
  | nil => unfold memWrite; split <;> simp [Memory.above, ha]
  | cons c m ih =>
    obtain ⟨k', x⟩ := c
    have hk' : k < k' := h (k', x) (by simp)
    have hm : Memory.above k m := fun c hc => h c (List.mem_cons_of_mem _ hc)
    unfold memWrite
    split
    · split
      · exact h
      · intro c hc
        rcases List.mem_cons.1 hc with rfl | hc
        · exact ha
        · exact h c hc
    · split
      · split
        · exact hm
        · intro c hc
          rcases List.mem_cons.1 hc with rfl | hc
          · exact ha
          · exact hm c hc
      · intro c hc
        rcases List.mem_cons.1 hc with rfl | hc
        · exact hk'
        · exact ih hm c hc

/-- A write of one byte keeps the canonical form. -/
theorem Memory.wf_memWrite {m : List Host.Cell} (h : Memory.wf m = true) (a : Nat) (v : Byte) :
    Memory.wf (memWrite m a v) = true := by
  induction m with
  | nil =>
    unfold memWrite
    split
    · rfl
    · next hv => exact Memory.wf_cons.2 ⟨hv, by simp [Memory.above], rfl⟩
  | cons c m ih =>
    obtain ⟨k, x⟩ := c
    obtain ⟨hx, hab, hm⟩ := Memory.wf_cons.1 h
    unfold memWrite
    split
    · next hlt =>
      split
      · exact h
      · next hv =>
        refine Memory.wf_cons.2 ⟨hv, ?_, h⟩
        intro c hc
        rcases List.mem_cons.1 hc with rfl | hc
        · exact hlt
        · exact Nat.lt_trans hlt (hab c hc)
    · next hge =>
      split
      · next heq =>
        subst heq
        split
        · exact hm
        · next hv => exact Memory.wf_cons.2 ⟨hv, hab, hm⟩
      · next hne => exact Memory.wf_cons.2 ⟨hx, Memory.above_memWrite hab (by omega), ih hm⟩

/-- A write of bytes keeps the canonical form. -/
theorem Memory.wf_memWriteN {m : List Host.Cell} (h : Memory.wf m = true) (a : Nat) (bs : List Byte) :
    Memory.wf (memWriteN m a bs) = true := by
  induction bs generalizing m a with
  | nil => exact h
  | cons b bs ih => exact ih (Memory.wf_memWrite h a b) (a + 1)

/-! A read after a write. -/

theorem memRead_above {k : Nat} {m : List Host.Cell} (h : Memory.above k m) {a : Nat} (ha : a ≤ k) :
    memRead m a = unlistedByte := by
  induction m with
  | nil => rfl
  | cons c m ih =>
    obtain ⟨k', x⟩ := c
    have hk' : k < k' := h (k', x) (by simp)
    have : k' ≠ a := by omega
    simp only [memRead, this, if_false]
    exact ih fun c hc => h c (List.mem_cons_of_mem _ hc)

/-- A read where a byte was written gives that byte. -/
theorem memRead_memWrite_same {m : List Host.Cell} (h : Memory.wf m = true) (a : Nat) (v : Byte) :
    memRead (memWrite m a v) a = v := by
  induction m with
  | nil => unfold memWrite; split <;> simp_all [memRead]
  | cons c m ih =>
    obtain ⟨k, x⟩ := c
    obtain ⟨hx, hab, hm⟩ := Memory.wf_cons.1 h
    unfold memWrite
    split
    · next hlt =>
      split
      · next hv =>
        have hne : k ≠ a := by omega
        simp only [memRead, hne, if_false, hv]
        exact memRead_above hab (by omega)
      · simp [memRead]
    · split
      · next heq =>
        subst heq
        split
        · next hv => rw [hv]; exact memRead_above hab (Nat.le_refl _)
        · simp [memRead]
      · next hne =>
        have : k ≠ a := fun h => hne h.symm
        simp only [memRead, this, if_false]
        exact ih hm

/-- A read elsewhere gives what it gave before. -/
theorem memRead_memWrite_other {m : List Host.Cell} (a b : Nat) (v : Byte) (hne : b ≠ a) :
    memRead (memWrite m a v) b = memRead m b := by
  have hne' : a ≠ b := fun h => hne h.symm
  induction m with
  | nil => unfold memWrite; split <;> simp [memRead, hne']
  | cons c m ih =>
    obtain ⟨k, x⟩ := c
    unfold memWrite
    split
    · split
      · rfl
      · simp [memRead, hne']
    · split
      · next heq => subst heq; split <;> simp [memRead, hne']
      · simp only [memRead, ih]

/-- Bytes outside those written read as before. -/
theorem memRead_memWriteN_other (m : List Host.Cell) (a b : Nat) (bs : List Byte) (h : b < a ∨ a + bs.length ≤ b) :
    memRead (memWriteN m a bs) b = memRead m b := by
  induction bs generalizing m a with
  | nil => rfl
  | cons x bs ih =>
    simp only [memWriteN]
    rw [ih (memWrite m a x) (a + 1) (by simp only [List.length_cons] at h; omega)]
    exact memRead_memWrite_other a b x (by simp only [List.length_cons] at h; omega)

/-- Byte i of those written reads as written. -/
theorem memRead_memWriteN_in {m : List Host.Cell} (hm : Memory.wf m = true) (a i : Nat) (bs : List Byte)
    (h : i < bs.length) : memRead (memWriteN m a bs) (a + i) = bs[i] := by
  induction bs generalizing m a i with
  | nil => exact absurd h (Nat.not_lt_zero _)
  | cons x bs ih =>
    simp only [memWriteN]
    cases i with
    | zero =>
      rw [memRead_memWriteN_other _ (a + 1) (a + 0) bs (by omega)]
      exact memRead_memWrite_same hm a x
    | succ i =>
      have := ih (Memory.wf_memWrite hm a x) (a + 1) i (by simpa using h)
      rw [show a + (i + 1) = a + 1 + i by omega]
      simpa using this

/-- A read of n bytes just written gives them. -/
theorem memReadN_memWriteN {m : List Host.Cell} (hm : Memory.wf m = true) (a : Nat) (bs : List Byte) :
    memReadN (memWriteN m a bs) a bs.length = bs := by
  induction bs generalizing m a with
  | nil => rfl
  | cons x bs ih =>
    simp only [memWriteN, List.length_cons, memReadN]
    rw [ih (Memory.wf_memWrite hm a x) (a + 1), memRead_memWriteN_other _ (a + 1) a bs (by omega),
      memRead_memWrite_same hm]

/-! Bytes of numbers. -/

@[simp] theorem natLe_length (n x : Nat) : (natLe n x).length = n := by
  induction n generalizing x with
  | zero => rfl
  | succ n ih => simp [natLe, ih]

/-- The number in the bytes of a number. -/
theorem leNat_natLe (n x : Nat) : leNat (natLe n x) = x % 256 ^ n := by
  induction n generalizing x with
  | zero => simp [natLe, leNat, Nat.mod_one]
  | succ n ih =>
    have hb : (BitVec.ofNat 8 x).toNat = x % 256 := by simp
    rw [natLe, leNat, ih, hb, show (256 : Nat) ^ (n + 1) = 256 * 256 ^ n from Nat.pow_succ', Nat.mod_mul]

/-! Association lists. -/

/-- A look-up at the key just put. -/
theorem lookD_putAsc_same {α : Type} (l : List (Nat × α)) (k : Nat) (v d : α) : lookD (putAsc l k v) k d = v := by
  induction l with
  | nil => simp [putAsc, lookD, look]
  | cons x l ih =>
    unfold putAsc
    split
    · simp [lookD, look]
    · split
      · simp [lookD, look]
      · next hne =>
        have : (x.1 == k) = false := by simpa using fun h => hne h.symm
        simpa [lookD, look, List.find?_cons, this] using ih

/-- A look-up at another key. -/
theorem lookD_putAsc_other {α : Type} (l : List (Nat × α)) (k j : Nat) (v d : α) (h : j ≠ k) :
    lookD (putAsc l k v) j d = lookD l j d := by
  have hkj : (k == j) = false := by simpa using fun h' => h h'.symm
  induction l with
  | nil => simp [putAsc, lookD, look, hkj]
  | cons x l ih =>
    unfold putAsc
    split
    · simp [lookD, look, hkj]
    · split
      · next heq =>
        subst heq
        simp [lookD, look, hkj]
      · simp only [lookD, look, List.find?_cons] at ih ⊢
        split
        · rfl
        · exact ih

end Sys2Proof.Machine
end

