-- ==== Sys2Proof/Laws/State.lean ====
section
/-! SUPPORT. One lemma per field per update of the state, and of a region by an update of one of its cells. -/

namespace Sys2Proof.Machine

namespace State

/-! updDie. -/

@[simp] theorem updDie_module (s : State) (d : Nat) (f : Die → Die) : (s.updDie d f).module = s.module := rfl
@[simp] theorem updDie_dies (s : State) (d : Nat) (f : Die → Die) : (s.updDie d f).dies = modNth s.dies d f := rfl
@[simp] theorem updDie_regions (s : State) (d : Nat) (f : Die → Die) : (s.updDie d f).regions = s.regions := rfl
@[simp] theorem updDie_tasks (s : State) (d : Nat) (f : Die → Die) : (s.updDie d f).tasks = s.tasks := rfl
@[simp] theorem updDie_reqs (s : State) (d : Nat) (f : Die → Die) : (s.updDie d f).reqs = s.reqs := rfl
@[simp] theorem updDie_cmds (s : State) (d : Nat) (f : Die → Die) : (s.updDie d f).cmds = s.cmds := rfl
@[simp] theorem updDie_iports (s : State) (d : Nat) (f : Die → Die) : (s.updDie d f).iports = s.iports := rfl
@[simp] theorem updDie_monitors (s : State) (d : Nat) (f : Die → Die) : (s.updDie d f).monitors = s.monitors := rfl
@[simp] theorem updDie_mem (s : State) (d : Nat) (f : Die → Die) : (s.updDie d f).mem = s.mem := rfl
@[simp] theorem updDie_capTags (s : State) (d : Nat) (f : Die → Die) : (s.updDie d f).capTags = s.capTags := rfl
@[simp] theorem updDie_accTags (s : State) (d : Nat) (f : Die → Die) : (s.updDie d f).accTags = s.accTags := rfl
@[simp] theorem updDie_bad (s : State) (d : Nat) (f : Die → Die) : (s.updDie d f).bad = s.bad := rfl
@[simp] theorem updDie_outbox (s : State) (d : Nat) (f : Die → Die) : (s.updDie d f).outbox = s.outbox := rfl
@[simp] theorem updDie_replies (s : State) (d : Nat) (f : Die → Die) : (s.updDie d f).replies = s.replies := rfl
@[simp] theorem updDie_ethIn (s : State) (d : Nat) (f : Die → Die) : (s.updDie d f).ethIn = s.ethIn := rfl
@[simp] theorem updDie_ethOut (s : State) (d : Nat) (f : Die → Die) : (s.updDie d f).ethOut = s.ethOut := rfl
@[simp] theorem updDie_asks (s : State) (d : Nat) (f : Die → Die) : (s.updDie d f).asks = s.asks := rfl
@[simp] theorem updDie_words (s : State) (d : Nat) (f : Die → Die) : (s.updDie d f).words = s.words := rfl
@[simp] theorem updDie_wants (s : State) (d : Nat) (f : Die → Die) : (s.updDie d f).wants = s.wants := rfl
@[simp] theorem updDie_puts (s : State) (d : Nat) (f : Die → Die) : (s.updDie d f).puts = s.puts := rfl
@[simp] theorem updDie_errands (s : State) (d : Nat) (f : Die → Die) : (s.updDie d f).errands = s.errands := rfl
@[simp] theorem updDie_queueEdges (s : State) (d : Nat) (f : Die → Die) : (s.updDie d f).queueEdges = s.queueEdges := rfl
@[simp] theorem updDie_agenda (s : State) (d : Nat) (f : Die → Die) : (s.updDie d f).agenda = s.agenda := rfl
@[simp] theorem updDie_inputs (s : State) (d : Nat) (f : Die → Die) : (s.updDie d f).inputs = s.inputs := rfl
@[simp] theorem updDie_focus (s : State) (d : Nat) (f : Die → Die) : (s.updDie d f).focus = s.focus := rfl

/-! updRegion. -/

@[simp] theorem updRegion_module (s : State) (d b : Nat) (f : Region → Region) : (s.updRegion d b f).module = s.module := rfl
@[simp] theorem updRegion_dies (s : State) (d b : Nat) (f : Region → Region) : (s.updRegion d b f).dies = s.dies := rfl
@[simp] theorem updRegion_regions (s : State) (d b : Nat) (f : Region → Region) : (s.updRegion d b f).regions = s.regions.map fun r => if r.die == d && r.rblk == b then f r else r := rfl
@[simp] theorem updRegion_tasks (s : State) (d b : Nat) (f : Region → Region) : (s.updRegion d b f).tasks = s.tasks := rfl
@[simp] theorem updRegion_reqs (s : State) (d b : Nat) (f : Region → Region) : (s.updRegion d b f).reqs = s.reqs := rfl
@[simp] theorem updRegion_cmds (s : State) (d b : Nat) (f : Region → Region) : (s.updRegion d b f).cmds = s.cmds := rfl
@[simp] theorem updRegion_iports (s : State) (d b : Nat) (f : Region → Region) : (s.updRegion d b f).iports = s.iports := rfl
@[simp] theorem updRegion_monitors (s : State) (d b : Nat) (f : Region → Region) : (s.updRegion d b f).monitors = s.monitors := rfl
@[simp] theorem updRegion_mem (s : State) (d b : Nat) (f : Region → Region) : (s.updRegion d b f).mem = s.mem := rfl
@[simp] theorem updRegion_capTags (s : State) (d b : Nat) (f : Region → Region) : (s.updRegion d b f).capTags = s.capTags := rfl
@[simp] theorem updRegion_accTags (s : State) (d b : Nat) (f : Region → Region) : (s.updRegion d b f).accTags = s.accTags := rfl
@[simp] theorem updRegion_bad (s : State) (d b : Nat) (f : Region → Region) : (s.updRegion d b f).bad = s.bad := rfl
@[simp] theorem updRegion_outbox (s : State) (d b : Nat) (f : Region → Region) : (s.updRegion d b f).outbox = s.outbox := rfl
@[simp] theorem updRegion_replies (s : State) (d b : Nat) (f : Region → Region) : (s.updRegion d b f).replies = s.replies := rfl
@[simp] theorem updRegion_ethIn (s : State) (d b : Nat) (f : Region → Region) : (s.updRegion d b f).ethIn = s.ethIn := rfl
@[simp] theorem updRegion_ethOut (s : State) (d b : Nat) (f : Region → Region) : (s.updRegion d b f).ethOut = s.ethOut := rfl
@[simp] theorem updRegion_asks (s : State) (d b : Nat) (f : Region → Region) : (s.updRegion d b f).asks = s.asks := rfl
@[simp] theorem updRegion_words (s : State) (d b : Nat) (f : Region → Region) : (s.updRegion d b f).words = s.words := rfl
@[simp] theorem updRegion_wants (s : State) (d b : Nat) (f : Region → Region) : (s.updRegion d b f).wants = s.wants := rfl
@[simp] theorem updRegion_puts (s : State) (d b : Nat) (f : Region → Region) : (s.updRegion d b f).puts = s.puts := rfl
@[simp] theorem updRegion_errands (s : State) (d b : Nat) (f : Region → Region) : (s.updRegion d b f).errands = s.errands := rfl
@[simp] theorem updRegion_queueEdges (s : State) (d b : Nat) (f : Region → Region) : (s.updRegion d b f).queueEdges = s.queueEdges := rfl
@[simp] theorem updRegion_agenda (s : State) (d b : Nat) (f : Region → Region) : (s.updRegion d b f).agenda = s.agenda := rfl
@[simp] theorem updRegion_inputs (s : State) (d b : Nat) (f : Region → Region) : (s.updRegion d b f).inputs = s.inputs := rfl
@[simp] theorem updRegion_focus (s : State) (d b : Nat) (f : Region → Region) : (s.updRegion d b f).focus = s.focus := rfl

/-! updTask. -/

@[simp] theorem updTask_module (s : State) (q : Nat) (f : Task → Task) : (s.updTask q f).module = s.module := rfl
@[simp] theorem updTask_dies (s : State) (q : Nat) (f : Task → Task) : (s.updTask q f).dies = s.dies := rfl
@[simp] theorem updTask_regions (s : State) (q : Nat) (f : Task → Task) : (s.updTask q f).regions = s.regions := rfl
@[simp] theorem updTask_tasks (s : State) (q : Nat) (f : Task → Task) : (s.updTask q f).tasks = s.tasks.map fun t => if t.seq == q then f t else t := rfl
@[simp] theorem updTask_reqs (s : State) (q : Nat) (f : Task → Task) : (s.updTask q f).reqs = s.reqs := rfl
@[simp] theorem updTask_cmds (s : State) (q : Nat) (f : Task → Task) : (s.updTask q f).cmds = s.cmds := rfl
@[simp] theorem updTask_iports (s : State) (q : Nat) (f : Task → Task) : (s.updTask q f).iports = s.iports := rfl
@[simp] theorem updTask_monitors (s : State) (q : Nat) (f : Task → Task) : (s.updTask q f).monitors = s.monitors := rfl
@[simp] theorem updTask_mem (s : State) (q : Nat) (f : Task → Task) : (s.updTask q f).mem = s.mem := rfl
@[simp] theorem updTask_capTags (s : State) (q : Nat) (f : Task → Task) : (s.updTask q f).capTags = s.capTags := rfl
@[simp] theorem updTask_accTags (s : State) (q : Nat) (f : Task → Task) : (s.updTask q f).accTags = s.accTags := rfl
@[simp] theorem updTask_bad (s : State) (q : Nat) (f : Task → Task) : (s.updTask q f).bad = s.bad := rfl
@[simp] theorem updTask_outbox (s : State) (q : Nat) (f : Task → Task) : (s.updTask q f).outbox = s.outbox := rfl
@[simp] theorem updTask_replies (s : State) (q : Nat) (f : Task → Task) : (s.updTask q f).replies = s.replies := rfl
@[simp] theorem updTask_ethIn (s : State) (q : Nat) (f : Task → Task) : (s.updTask q f).ethIn = s.ethIn := rfl
@[simp] theorem updTask_ethOut (s : State) (q : Nat) (f : Task → Task) : (s.updTask q f).ethOut = s.ethOut := rfl
@[simp] theorem updTask_asks (s : State) (q : Nat) (f : Task → Task) : (s.updTask q f).asks = s.asks := rfl
@[simp] theorem updTask_words (s : State) (q : Nat) (f : Task → Task) : (s.updTask q f).words = s.words := rfl
@[simp] theorem updTask_wants (s : State) (q : Nat) (f : Task → Task) : (s.updTask q f).wants = s.wants := rfl
@[simp] theorem updTask_puts (s : State) (q : Nat) (f : Task → Task) : (s.updTask q f).puts = s.puts := rfl
@[simp] theorem updTask_errands (s : State) (q : Nat) (f : Task → Task) : (s.updTask q f).errands = s.errands := rfl
@[simp] theorem updTask_queueEdges (s : State) (q : Nat) (f : Task → Task) : (s.updTask q f).queueEdges = s.queueEdges := rfl
@[simp] theorem updTask_agenda (s : State) (q : Nat) (f : Task → Task) : (s.updTask q f).agenda = s.agenda := rfl
@[simp] theorem updTask_inputs (s : State) (q : Nat) (f : Task → Task) : (s.updTask q f).inputs = s.inputs := rfl
@[simp] theorem updTask_focus (s : State) (q : Nat) (f : Task → Task) : (s.updTask q f).focus = s.focus := rfl

/-! updReq. -/

@[simp] theorem updReq_module (s : State) (n : Nat) (f : Req → Req) : (s.updReq n f).module = s.module := rfl
@[simp] theorem updReq_dies (s : State) (n : Nat) (f : Req → Req) : (s.updReq n f).dies = s.dies := rfl
@[simp] theorem updReq_regions (s : State) (n : Nat) (f : Req → Req) : (s.updReq n f).regions = s.regions := rfl
@[simp] theorem updReq_tasks (s : State) (n : Nat) (f : Req → Req) : (s.updReq n f).tasks = s.tasks := rfl
@[simp] theorem updReq_reqs (s : State) (n : Nat) (f : Req → Req) : (s.updReq n f).reqs = s.reqs.map fun r => if r.id == n then f r else r := rfl
@[simp] theorem updReq_cmds (s : State) (n : Nat) (f : Req → Req) : (s.updReq n f).cmds = s.cmds := rfl
@[simp] theorem updReq_iports (s : State) (n : Nat) (f : Req → Req) : (s.updReq n f).iports = s.iports := rfl
@[simp] theorem updReq_monitors (s : State) (n : Nat) (f : Req → Req) : (s.updReq n f).monitors = s.monitors := rfl
@[simp] theorem updReq_mem (s : State) (n : Nat) (f : Req → Req) : (s.updReq n f).mem = s.mem := rfl
@[simp] theorem updReq_capTags (s : State) (n : Nat) (f : Req → Req) : (s.updReq n f).capTags = s.capTags := rfl
@[simp] theorem updReq_accTags (s : State) (n : Nat) (f : Req → Req) : (s.updReq n f).accTags = s.accTags := rfl
@[simp] theorem updReq_bad (s : State) (n : Nat) (f : Req → Req) : (s.updReq n f).bad = s.bad := rfl
@[simp] theorem updReq_outbox (s : State) (n : Nat) (f : Req → Req) : (s.updReq n f).outbox = s.outbox := rfl
@[simp] theorem updReq_replies (s : State) (n : Nat) (f : Req → Req) : (s.updReq n f).replies = s.replies := rfl
@[simp] theorem updReq_ethIn (s : State) (n : Nat) (f : Req → Req) : (s.updReq n f).ethIn = s.ethIn := rfl
@[simp] theorem updReq_ethOut (s : State) (n : Nat) (f : Req → Req) : (s.updReq n f).ethOut = s.ethOut := rfl
@[simp] theorem updReq_asks (s : State) (n : Nat) (f : Req → Req) : (s.updReq n f).asks = s.asks := rfl
@[simp] theorem updReq_words (s : State) (n : Nat) (f : Req → Req) : (s.updReq n f).words = s.words := rfl
@[simp] theorem updReq_wants (s : State) (n : Nat) (f : Req → Req) : (s.updReq n f).wants = s.wants := rfl
@[simp] theorem updReq_puts (s : State) (n : Nat) (f : Req → Req) : (s.updReq n f).puts = s.puts := rfl
@[simp] theorem updReq_errands (s : State) (n : Nat) (f : Req → Req) : (s.updReq n f).errands = s.errands := rfl
@[simp] theorem updReq_queueEdges (s : State) (n : Nat) (f : Req → Req) : (s.updReq n f).queueEdges = s.queueEdges := rfl
@[simp] theorem updReq_agenda (s : State) (n : Nat) (f : Req → Req) : (s.updReq n f).agenda = s.agenda := rfl
@[simp] theorem updReq_inputs (s : State) (n : Nat) (f : Req → Req) : (s.updReq n f).inputs = s.inputs := rfl
@[simp] theorem updReq_focus (s : State) (n : Nat) (f : Req → Req) : (s.updReq n f).focus = s.focus := rfl

/-! dropReq. -/

@[simp] theorem dropReq_module (s : State) (n : Nat) : (s.dropReq n).module = s.module := rfl
@[simp] theorem dropReq_dies (s : State) (n : Nat) : (s.dropReq n).dies = s.dies := rfl
@[simp] theorem dropReq_regions (s : State) (n : Nat) : (s.dropReq n).regions = s.regions := rfl
@[simp] theorem dropReq_tasks (s : State) (n : Nat) : (s.dropReq n).tasks = s.tasks := rfl
@[simp] theorem dropReq_reqs (s : State) (n : Nat) : (s.dropReq n).reqs = s.reqs.filter (·.id != n) := rfl
@[simp] theorem dropReq_cmds (s : State) (n : Nat) : (s.dropReq n).cmds = s.cmds := rfl
@[simp] theorem dropReq_iports (s : State) (n : Nat) : (s.dropReq n).iports = s.iports := rfl
@[simp] theorem dropReq_monitors (s : State) (n : Nat) : (s.dropReq n).monitors = s.monitors := rfl
@[simp] theorem dropReq_mem (s : State) (n : Nat) : (s.dropReq n).mem = s.mem := rfl
@[simp] theorem dropReq_capTags (s : State) (n : Nat) : (s.dropReq n).capTags = s.capTags := rfl
@[simp] theorem dropReq_accTags (s : State) (n : Nat) : (s.dropReq n).accTags = s.accTags := rfl
@[simp] theorem dropReq_bad (s : State) (n : Nat) : (s.dropReq n).bad = s.bad := rfl
@[simp] theorem dropReq_outbox (s : State) (n : Nat) : (s.dropReq n).outbox = s.outbox := rfl
@[simp] theorem dropReq_replies (s : State) (n : Nat) : (s.dropReq n).replies = s.replies := rfl
@[simp] theorem dropReq_ethIn (s : State) (n : Nat) : (s.dropReq n).ethIn = s.ethIn := rfl
@[simp] theorem dropReq_ethOut (s : State) (n : Nat) : (s.dropReq n).ethOut = s.ethOut := rfl
@[simp] theorem dropReq_asks (s : State) (n : Nat) : (s.dropReq n).asks = s.asks := rfl
@[simp] theorem dropReq_words (s : State) (n : Nat) : (s.dropReq n).words = s.words := rfl
@[simp] theorem dropReq_wants (s : State) (n : Nat) : (s.dropReq n).wants = s.wants := rfl
@[simp] theorem dropReq_puts (s : State) (n : Nat) : (s.dropReq n).puts = s.puts := rfl
@[simp] theorem dropReq_errands (s : State) (n : Nat) : (s.dropReq n).errands = s.errands := rfl
@[simp] theorem dropReq_queueEdges (s : State) (n : Nat) : (s.dropReq n).queueEdges = s.queueEdges := rfl
@[simp] theorem dropReq_agenda (s : State) (n : Nat) : (s.dropReq n).agenda = s.agenda := rfl
@[simp] theorem dropReq_inputs (s : State) (n : Nat) : (s.dropReq n).inputs = s.inputs := rfl
@[simp] theorem dropReq_focus (s : State) (n : Nat) : (s.dropReq n).focus = s.focus := rfl

/-! updCmd. -/

@[simp] theorem updCmd_module (s : State) (n : Nat) (f : Cmd → Cmd) : (s.updCmd n f).module = s.module := rfl
@[simp] theorem updCmd_dies (s : State) (n : Nat) (f : Cmd → Cmd) : (s.updCmd n f).dies = s.dies := rfl
@[simp] theorem updCmd_regions (s : State) (n : Nat) (f : Cmd → Cmd) : (s.updCmd n f).regions = s.regions := rfl
@[simp] theorem updCmd_tasks (s : State) (n : Nat) (f : Cmd → Cmd) : (s.updCmd n f).tasks = s.tasks := rfl
@[simp] theorem updCmd_reqs (s : State) (n : Nat) (f : Cmd → Cmd) : (s.updCmd n f).reqs = s.reqs := rfl
@[simp] theorem updCmd_cmds (s : State) (n : Nat) (f : Cmd → Cmd) : (s.updCmd n f).cmds = s.cmds.map fun c => if c.id == n then f c else c := rfl
@[simp] theorem updCmd_iports (s : State) (n : Nat) (f : Cmd → Cmd) : (s.updCmd n f).iports = s.iports := rfl
@[simp] theorem updCmd_monitors (s : State) (n : Nat) (f : Cmd → Cmd) : (s.updCmd n f).monitors = s.monitors := rfl
@[simp] theorem updCmd_mem (s : State) (n : Nat) (f : Cmd → Cmd) : (s.updCmd n f).mem = s.mem := rfl
@[simp] theorem updCmd_capTags (s : State) (n : Nat) (f : Cmd → Cmd) : (s.updCmd n f).capTags = s.capTags := rfl
@[simp] theorem updCmd_accTags (s : State) (n : Nat) (f : Cmd → Cmd) : (s.updCmd n f).accTags = s.accTags := rfl
@[simp] theorem updCmd_bad (s : State) (n : Nat) (f : Cmd → Cmd) : (s.updCmd n f).bad = s.bad := rfl
@[simp] theorem updCmd_outbox (s : State) (n : Nat) (f : Cmd → Cmd) : (s.updCmd n f).outbox = s.outbox := rfl
@[simp] theorem updCmd_replies (s : State) (n : Nat) (f : Cmd → Cmd) : (s.updCmd n f).replies = s.replies := rfl
@[simp] theorem updCmd_ethIn (s : State) (n : Nat) (f : Cmd → Cmd) : (s.updCmd n f).ethIn = s.ethIn := rfl
@[simp] theorem updCmd_ethOut (s : State) (n : Nat) (f : Cmd → Cmd) : (s.updCmd n f).ethOut = s.ethOut := rfl
@[simp] theorem updCmd_asks (s : State) (n : Nat) (f : Cmd → Cmd) : (s.updCmd n f).asks = s.asks := rfl
@[simp] theorem updCmd_words (s : State) (n : Nat) (f : Cmd → Cmd) : (s.updCmd n f).words = s.words := rfl
@[simp] theorem updCmd_wants (s : State) (n : Nat) (f : Cmd → Cmd) : (s.updCmd n f).wants = s.wants := rfl
@[simp] theorem updCmd_puts (s : State) (n : Nat) (f : Cmd → Cmd) : (s.updCmd n f).puts = s.puts := rfl
@[simp] theorem updCmd_errands (s : State) (n : Nat) (f : Cmd → Cmd) : (s.updCmd n f).errands = s.errands := rfl
@[simp] theorem updCmd_queueEdges (s : State) (n : Nat) (f : Cmd → Cmd) : (s.updCmd n f).queueEdges = s.queueEdges := rfl
@[simp] theorem updCmd_agenda (s : State) (n : Nat) (f : Cmd → Cmd) : (s.updCmd n f).agenda = s.agenda := rfl
@[simp] theorem updCmd_inputs (s : State) (n : Nat) (f : Cmd → Cmd) : (s.updCmd n f).inputs = s.inputs := rfl
@[simp] theorem updCmd_focus (s : State) (n : Nat) (f : Cmd → Cmd) : (s.updCmd n f).focus = s.focus := rfl

/-! dropCmd. -/

@[simp] theorem dropCmd_module (s : State) (n : Nat) : (s.dropCmd n).module = s.module := rfl
@[simp] theorem dropCmd_dies (s : State) (n : Nat) : (s.dropCmd n).dies = s.dies := rfl
@[simp] theorem dropCmd_regions (s : State) (n : Nat) : (s.dropCmd n).regions = s.regions := rfl
@[simp] theorem dropCmd_tasks (s : State) (n : Nat) : (s.dropCmd n).tasks = s.tasks := rfl
@[simp] theorem dropCmd_reqs (s : State) (n : Nat) : (s.dropCmd n).reqs = s.reqs := rfl
@[simp] theorem dropCmd_cmds (s : State) (n : Nat) : (s.dropCmd n).cmds = s.cmds.filter (·.id != n) := rfl
@[simp] theorem dropCmd_iports (s : State) (n : Nat) : (s.dropCmd n).iports = s.iports := rfl
@[simp] theorem dropCmd_monitors (s : State) (n : Nat) : (s.dropCmd n).monitors = s.monitors := rfl
@[simp] theorem dropCmd_mem (s : State) (n : Nat) : (s.dropCmd n).mem = s.mem := rfl
@[simp] theorem dropCmd_capTags (s : State) (n : Nat) : (s.dropCmd n).capTags = s.capTags := rfl
@[simp] theorem dropCmd_accTags (s : State) (n : Nat) : (s.dropCmd n).accTags = s.accTags := rfl
@[simp] theorem dropCmd_bad (s : State) (n : Nat) : (s.dropCmd n).bad = s.bad := rfl
@[simp] theorem dropCmd_outbox (s : State) (n : Nat) : (s.dropCmd n).outbox = s.outbox := rfl
@[simp] theorem dropCmd_replies (s : State) (n : Nat) : (s.dropCmd n).replies = s.replies := rfl
@[simp] theorem dropCmd_ethIn (s : State) (n : Nat) : (s.dropCmd n).ethIn = s.ethIn := rfl
@[simp] theorem dropCmd_ethOut (s : State) (n : Nat) : (s.dropCmd n).ethOut = s.ethOut := rfl
@[simp] theorem dropCmd_asks (s : State) (n : Nat) : (s.dropCmd n).asks = s.asks := rfl
@[simp] theorem dropCmd_words (s : State) (n : Nat) : (s.dropCmd n).words = s.words := rfl
@[simp] theorem dropCmd_wants (s : State) (n : Nat) : (s.dropCmd n).wants = s.wants := rfl
@[simp] theorem dropCmd_puts (s : State) (n : Nat) : (s.dropCmd n).puts = s.puts := rfl
@[simp] theorem dropCmd_errands (s : State) (n : Nat) : (s.dropCmd n).errands = s.errands := rfl
@[simp] theorem dropCmd_queueEdges (s : State) (n : Nat) : (s.dropCmd n).queueEdges = s.queueEdges := rfl
@[simp] theorem dropCmd_agenda (s : State) (n : Nat) : (s.dropCmd n).agenda = s.agenda := rfl
@[simp] theorem dropCmd_inputs (s : State) (n : Nat) : (s.dropCmd n).inputs = s.inputs := rfl
@[simp] theorem dropCmd_focus (s : State) (n : Nat) : (s.dropCmd n).focus = s.focus := rfl

/-! updMod. -/

@[simp] theorem updMod_module (s : State) (f : Module → Module) : (s.updMod f).module = f s.module := rfl
@[simp] theorem updMod_dies (s : State) (f : Module → Module) : (s.updMod f).dies = s.dies := rfl
@[simp] theorem updMod_regions (s : State) (f : Module → Module) : (s.updMod f).regions = s.regions := rfl
@[simp] theorem updMod_tasks (s : State) (f : Module → Module) : (s.updMod f).tasks = s.tasks := rfl
@[simp] theorem updMod_reqs (s : State) (f : Module → Module) : (s.updMod f).reqs = s.reqs := rfl
@[simp] theorem updMod_cmds (s : State) (f : Module → Module) : (s.updMod f).cmds = s.cmds := rfl
@[simp] theorem updMod_iports (s : State) (f : Module → Module) : (s.updMod f).iports = s.iports := rfl
@[simp] theorem updMod_monitors (s : State) (f : Module → Module) : (s.updMod f).monitors = s.monitors := rfl
@[simp] theorem updMod_mem (s : State) (f : Module → Module) : (s.updMod f).mem = s.mem := rfl
@[simp] theorem updMod_capTags (s : State) (f : Module → Module) : (s.updMod f).capTags = s.capTags := rfl
@[simp] theorem updMod_accTags (s : State) (f : Module → Module) : (s.updMod f).accTags = s.accTags := rfl
@[simp] theorem updMod_bad (s : State) (f : Module → Module) : (s.updMod f).bad = s.bad := rfl
@[simp] theorem updMod_outbox (s : State) (f : Module → Module) : (s.updMod f).outbox = s.outbox := rfl
@[simp] theorem updMod_replies (s : State) (f : Module → Module) : (s.updMod f).replies = s.replies := rfl
@[simp] theorem updMod_ethIn (s : State) (f : Module → Module) : (s.updMod f).ethIn = s.ethIn := rfl
@[simp] theorem updMod_ethOut (s : State) (f : Module → Module) : (s.updMod f).ethOut = s.ethOut := rfl
@[simp] theorem updMod_asks (s : State) (f : Module → Module) : (s.updMod f).asks = s.asks := rfl
@[simp] theorem updMod_words (s : State) (f : Module → Module) : (s.updMod f).words = s.words := rfl
@[simp] theorem updMod_wants (s : State) (f : Module → Module) : (s.updMod f).wants = s.wants := rfl
@[simp] theorem updMod_puts (s : State) (f : Module → Module) : (s.updMod f).puts = s.puts := rfl
@[simp] theorem updMod_errands (s : State) (f : Module → Module) : (s.updMod f).errands = s.errands := rfl
@[simp] theorem updMod_queueEdges (s : State) (f : Module → Module) : (s.updMod f).queueEdges = s.queueEdges := rfl
@[simp] theorem updMod_agenda (s : State) (f : Module → Module) : (s.updMod f).agenda = s.agenda := rfl
@[simp] theorem updMod_inputs (s : State) (f : Module → Module) : (s.updMod f).inputs = s.inputs := rfl
@[simp] theorem updMod_focus (s : State) (f : Module → Module) : (s.updMod f).focus = s.focus := rfl

/-! soon. -/

@[simp] theorem soon_module (s : State) (es : List Event) : (s.soon es).module = s.module := rfl
@[simp] theorem soon_dies (s : State) (es : List Event) : (s.soon es).dies = s.dies := rfl
@[simp] theorem soon_regions (s : State) (es : List Event) : (s.soon es).regions = s.regions := rfl
@[simp] theorem soon_tasks (s : State) (es : List Event) : (s.soon es).tasks = s.tasks := rfl
@[simp] theorem soon_reqs (s : State) (es : List Event) : (s.soon es).reqs = s.reqs := rfl
@[simp] theorem soon_cmds (s : State) (es : List Event) : (s.soon es).cmds = s.cmds := rfl
@[simp] theorem soon_iports (s : State) (es : List Event) : (s.soon es).iports = s.iports := rfl
@[simp] theorem soon_monitors (s : State) (es : List Event) : (s.soon es).monitors = s.monitors := rfl
@[simp] theorem soon_mem (s : State) (es : List Event) : (s.soon es).mem = s.mem := rfl
@[simp] theorem soon_capTags (s : State) (es : List Event) : (s.soon es).capTags = s.capTags := rfl
@[simp] theorem soon_accTags (s : State) (es : List Event) : (s.soon es).accTags = s.accTags := rfl
@[simp] theorem soon_bad (s : State) (es : List Event) : (s.soon es).bad = s.bad := rfl
@[simp] theorem soon_outbox (s : State) (es : List Event) : (s.soon es).outbox = s.outbox := rfl
@[simp] theorem soon_replies (s : State) (es : List Event) : (s.soon es).replies = s.replies := rfl
@[simp] theorem soon_ethIn (s : State) (es : List Event) : (s.soon es).ethIn = s.ethIn := rfl
@[simp] theorem soon_ethOut (s : State) (es : List Event) : (s.soon es).ethOut = s.ethOut := rfl
@[simp] theorem soon_asks (s : State) (es : List Event) : (s.soon es).asks = s.asks := rfl
@[simp] theorem soon_words (s : State) (es : List Event) : (s.soon es).words = s.words := rfl
@[simp] theorem soon_wants (s : State) (es : List Event) : (s.soon es).wants = s.wants := rfl
@[simp] theorem soon_puts (s : State) (es : List Event) : (s.soon es).puts = s.puts := rfl
@[simp] theorem soon_errands (s : State) (es : List Event) : (s.soon es).errands = s.errands := rfl
@[simp] theorem soon_queueEdges (s : State) (es : List Event) : (s.soon es).queueEdges = s.queueEdges := rfl
@[simp] theorem soon_agenda (s : State) (es : List Event) : (s.soon es).agenda = es ++ s.agenda := rfl
@[simp] theorem soon_inputs (s : State) (es : List Event) : (s.soon es).inputs = s.inputs := rfl
@[simp] theorem soon_focus (s : State) (es : List Event) : (s.soon es).focus = s.focus := rfl

end State

namespace Region

/-! setCell. -/

@[simp] theorem setCell_cells (r : Region) (c : Nat) (x : Cell) : (r.setCell c x).cells = putAsc r.cells c x := rfl
@[simp] theorem setCell_die (r : Region) (c : Nat) (x : Cell) : (r.setCell c x).die = r.die := rfl
@[simp] theorem setCell_rblk (r : Region) (c : Nat) (x : Cell) : (r.setCell c x).rblk = r.rblk := rfl
@[simp] theorem setCell_width (r : Region) (c : Nat) (x : Cell) : (r.setCell c x).width = r.width := rfl
@[simp] theorem setCell_height (r : Region) (c : Nat) (x : Cell) : (r.setCell c x).height = r.height := rfl
@[simp] theorem setCell_seq (r : Region) (c : Nat) (x : Cell) : (r.setCell c x).seq = r.seq := rfl
@[simp] theorem setCell_num (r : Region) (c : Nat) (x : Cell) : (r.setCell c x).num = r.num := rfl
@[simp] theorem setCell_pc (r : Region) (c : Nat) (x : Cell) : (r.setCell c x).pc = r.pc := rfl
@[simp] theorem setCell_w (r : Region) (c : Nat) (x : Cell) : (r.setCell c x).w = r.w := rfl
@[simp] theorem setCell_i (r : Region) (c : Nat) (x : Cell) : (r.setCell c x).i = r.i := rfl
@[simp] theorem setCell_ks (r : Region) (c : Nat) (x : Cell) : (r.setCell c x).ks = r.ks := rfl
@[simp] theorem setCell_st (r : Region) (c : Nat) (x : Cell) : (r.setCell c x).st = r.st := rfl
@[simp] theorem setCell_depth (r : Region) (c : Nat) (x : Cell) : (r.setCell c x).depth = r.depth := rfl
@[simp] theorem setCell_frames (r : Region) (c : Nat) (x : Cell) : (r.setCell c x).frames = r.frames := rfl
@[simp] theorem setCell_ctl (r : Region) (c : Nat) (x : Cell) : (r.setCell c x).ctl = r.ctl := rfl
@[simp] theorem setCell_frozen (r : Region) (c : Nat) (x : Cell) : (r.setCell c x).frozen = r.frozen := rfl
@[simp] theorem setCell_cellsHeld (r : Region) (c : Nat) (x : Cell) : (r.setCell c x).cellsHeld = r.cellsHeld := rfl
@[simp] theorem setCell_running (r : Region) (c : Nat) (x : Cell) : (r.setCell c x).running = r.running := rfl
@[simp] theorem setCell_runAt (r : Region) (c : Nat) (x : Cell) : (r.setCell c x).runAt = r.runAt := rfl
@[simp] theorem setCell_passes (r : Region) (c : Nat) (x : Cell) : (r.setCell c x).passes = r.passes := rfl
@[simp] theorem setCell_passNext (r : Region) (c : Nat) (x : Cell) : (r.setCell c x).passNext = r.passNext := rfl
@[simp] theorem setCell_lastAct (r : Region) (c : Nat) (x : Cell) : (r.setCell c x).lastAct = r.lastAct := rfl
@[simp] theorem setCell_cfg (r : Region) (c : Nat) (x : Cell) : (r.setCell c x).cfg = r.cfg := rfl
@[simp] theorem setCell_runTrap (r : Region) (c : Nat) (x : Cell) : (r.setCell c x).runTrap = r.runTrap := rfl
@[simp] theorem setCell_orders (r : Region) (c : Nat) (x : Cell) : (r.setCell c x).orders = r.orders := rfl
@[simp] theorem setCell_stores (r : Region) (c : Nat) (x : Cell) : (r.setCell c x).stores = r.stores := rfl
@[simp] theorem setCell_cellTraps (r : Region) (c : Nat) (x : Cell) : (r.setCell c x).cellTraps = r.cellTraps := rfl
@[simp] theorem setCell_engFaults (r : Region) (c : Nat) (x : Cell) : (r.setCell c x).engFaults = r.engFaults := rfl
@[simp] theorem setCell_freeList (r : Region) (c : Nat) (x : Cell) : (r.setCell c x).freeList = r.freeList := rfl
@[simp] theorem setCell_stage (r : Region) (c : Nat) (x : Cell) : (r.setCell c x).stage = r.stage := rfl
@[simp] theorem setCell_brkDue (r : Region) (c : Nat) (x : Cell) : (r.setCell c x).brkDue = r.brkDue := rfl
@[simp] theorem setCell_ctlw (r : Region) (c : Nat) (x : Cell) : (r.setCell c x).ctlw = r.ctlw := rfl
@[simp] theorem setCell_cfgAt (r : Region) (c : Nat) (x : Cell) : (r.setCell c x).cfgAt = r.cfgAt := rfl
@[simp] theorem setCell_held (r : Region) (c : Nat) (x : Cell) : (r.setCell c x).held = r.held := rfl

/-! updRt. -/

@[simp] theorem updRt_cells (r : Region) (c : Nat) (f : CellRt → CellRt) : (r.updRt c f).cells = putAsc r.cells c { r.cell c with rt := f (r.cell c).rt } := rfl
@[simp] theorem updRt_die (r : Region) (c : Nat) (f : CellRt → CellRt) : (r.updRt c f).die = r.die := rfl
@[simp] theorem updRt_rblk (r : Region) (c : Nat) (f : CellRt → CellRt) : (r.updRt c f).rblk = r.rblk := rfl
@[simp] theorem updRt_width (r : Region) (c : Nat) (f : CellRt → CellRt) : (r.updRt c f).width = r.width := rfl
@[simp] theorem updRt_height (r : Region) (c : Nat) (f : CellRt → CellRt) : (r.updRt c f).height = r.height := rfl
@[simp] theorem updRt_seq (r : Region) (c : Nat) (f : CellRt → CellRt) : (r.updRt c f).seq = r.seq := rfl
@[simp] theorem updRt_num (r : Region) (c : Nat) (f : CellRt → CellRt) : (r.updRt c f).num = r.num := rfl
@[simp] theorem updRt_pc (r : Region) (c : Nat) (f : CellRt → CellRt) : (r.updRt c f).pc = r.pc := rfl
@[simp] theorem updRt_w (r : Region) (c : Nat) (f : CellRt → CellRt) : (r.updRt c f).w = r.w := rfl
@[simp] theorem updRt_i (r : Region) (c : Nat) (f : CellRt → CellRt) : (r.updRt c f).i = r.i := rfl
@[simp] theorem updRt_ks (r : Region) (c : Nat) (f : CellRt → CellRt) : (r.updRt c f).ks = r.ks := rfl
@[simp] theorem updRt_st (r : Region) (c : Nat) (f : CellRt → CellRt) : (r.updRt c f).st = r.st := rfl
@[simp] theorem updRt_depth (r : Region) (c : Nat) (f : CellRt → CellRt) : (r.updRt c f).depth = r.depth := rfl
@[simp] theorem updRt_frames (r : Region) (c : Nat) (f : CellRt → CellRt) : (r.updRt c f).frames = r.frames := rfl
@[simp] theorem updRt_ctl (r : Region) (c : Nat) (f : CellRt → CellRt) : (r.updRt c f).ctl = r.ctl := rfl
@[simp] theorem updRt_frozen (r : Region) (c : Nat) (f : CellRt → CellRt) : (r.updRt c f).frozen = r.frozen := rfl
@[simp] theorem updRt_cellsHeld (r : Region) (c : Nat) (f : CellRt → CellRt) : (r.updRt c f).cellsHeld = r.cellsHeld := rfl
@[simp] theorem updRt_running (r : Region) (c : Nat) (f : CellRt → CellRt) : (r.updRt c f).running = r.running := rfl
@[simp] theorem updRt_runAt (r : Region) (c : Nat) (f : CellRt → CellRt) : (r.updRt c f).runAt = r.runAt := rfl
@[simp] theorem updRt_passes (r : Region) (c : Nat) (f : CellRt → CellRt) : (r.updRt c f).passes = r.passes := rfl
@[simp] theorem updRt_passNext (r : Region) (c : Nat) (f : CellRt → CellRt) : (r.updRt c f).passNext = r.passNext := rfl
@[simp] theorem updRt_lastAct (r : Region) (c : Nat) (f : CellRt → CellRt) : (r.updRt c f).lastAct = r.lastAct := rfl
@[simp] theorem updRt_cfg (r : Region) (c : Nat) (f : CellRt → CellRt) : (r.updRt c f).cfg = r.cfg := rfl
@[simp] theorem updRt_runTrap (r : Region) (c : Nat) (f : CellRt → CellRt) : (r.updRt c f).runTrap = r.runTrap := rfl
@[simp] theorem updRt_orders (r : Region) (c : Nat) (f : CellRt → CellRt) : (r.updRt c f).orders = r.orders := rfl
@[simp] theorem updRt_stores (r : Region) (c : Nat) (f : CellRt → CellRt) : (r.updRt c f).stores = r.stores := rfl
@[simp] theorem updRt_cellTraps (r : Region) (c : Nat) (f : CellRt → CellRt) : (r.updRt c f).cellTraps = r.cellTraps := rfl
@[simp] theorem updRt_engFaults (r : Region) (c : Nat) (f : CellRt → CellRt) : (r.updRt c f).engFaults = r.engFaults := rfl
@[simp] theorem updRt_freeList (r : Region) (c : Nat) (f : CellRt → CellRt) : (r.updRt c f).freeList = r.freeList := rfl
@[simp] theorem updRt_stage (r : Region) (c : Nat) (f : CellRt → CellRt) : (r.updRt c f).stage = r.stage := rfl
@[simp] theorem updRt_brkDue (r : Region) (c : Nat) (f : CellRt → CellRt) : (r.updRt c f).brkDue = r.brkDue := rfl
@[simp] theorem updRt_ctlw (r : Region) (c : Nat) (f : CellRt → CellRt) : (r.updRt c f).ctlw = r.ctlw := rfl
@[simp] theorem updRt_cfgAt (r : Region) (c : Nat) (f : CellRt → CellRt) : (r.updRt c f).cfgAt = r.cfgAt := rfl
@[simp] theorem updRt_held (r : Region) (c : Nat) (f : CellRt → CellRt) : (r.updRt c f).held = r.held := rfl

end Region

end Sys2Proof.Machine
end

