-- ==== Sys2Proof/Laws/Ops.lean ====
section
/-! SUPPORT. What the named operations do: look-ups after an update, what a record posted leaves alone, and the canonical form
of memory under every operation that writes it. -/

namespace Sys2Proof.Machine

/-! Regions, cells, dies and tasks after an update. -/

/-- An update that keeps a region where it is. -/
def KeepsPlace (f : Region → Region) : Prop := ∀ r, (f r).die = r.die ∧ (f r).rblk = r.rblk

namespace State

theorem region_place {s : State} {d b : Nat} {r : Region} (h : s.region d b = some r) : r.die = d ∧ r.rblk = b := by
  have := List.find?_some h
  simpa using this

theorem find_updRegion {l : List Region} {d b d' b' : Nat} {f : Region → Region} (hf : KeepsPlace f) :
    (l.map fun r => if r.die == d && r.rblk == b then f r else r).find? (fun r => r.die == d' && r.rblk == b') =
      (l.find? fun r => r.die == d' && r.rblk == b').map fun r => if r.die == d && r.rblk == b then f r else r := by
  induction l with
  | nil => rfl
  | cons r l ih =>
    have hp : (((if r.die == d && r.rblk == b then f r else r).die == d') &&
        ((if r.die == d && r.rblk == b then f r else r).rblk == b')) = (r.die == d' && r.rblk == b') := by
      split <;> simp [(hf r).1, (hf r).2]
    simp only [List.map_cons, List.find?_cons]
    rw [hp]
    split
    · rfl
    · exact ih

/-- The region updated. -/
theorem region_updRegion_same {s : State} {d b : Nat} {f : Region → Region} (hf : KeepsPlace f) :
    (s.updRegion d b f).region d b = (s.region d b).map f := by
  simp only [region, updRegion, find_updRegion hf]
  cases h : s.regions.find? fun r => r.die == d && r.rblk == b with
  | none => rfl
  | some r =>
    have := List.find?_some h
    exact congrArg some (if_pos this)

/-- Another region. -/
theorem region_updRegion_other {s : State} {d b d' b' : Nat} {f : Region → Region} (hf : KeepsPlace f)
    (hne : ¬(d' = d ∧ b' = b)) : (s.updRegion d b f).region d' b' = s.region d' b' := by
  simp only [region, updRegion, find_updRegion hf]
  cases h : s.regions.find? fun r => r.die == d' && r.rblk == b' with
  | none => rfl
  | some r =>
    have := List.find?_some h
    have hr : r.die = d' ∧ r.rblk = b' := by simpa using this
    have : (r.die == d && r.rblk == b) = false := by
      rw [hr.1, hr.2]
      by_cases hd : d' = d <;> by_cases hb : b' = b <;> simp_all
    exact congrArg some (if_neg (by simp [this]))

@[simp] theorem now_updRegion (s : State) (d b : Nat) (f : Region → Region) (d' : Nat) :
    (s.updRegion d b f).now d' = s.now d' := rfl

@[simp] theorem now_updTask (s : State) (q : Nat) (f : Task → Task) (d' : Nat) : (s.updTask q f).now d' = s.now d' := rfl

@[simp] theorem region_updDie (s : State) (d : Nat) (f : Die → Die) (d' b' : Nat) :
    (s.updDie d f).region d' b' = s.region d' b' := rfl

@[simp] theorem region_updTask (s : State) (q : Nat) (f : Task → Task) (d' b' : Nat) :
    (s.updTask q f).region d' b' = s.region d' b' := rfl

theorem getD_modNth {α : Type} (l : List α) (i j : Nat) (f : α → α) (x : α) (h : i < l.length) :
    (modNth l i f).getD j x = if j = i then f (l.getD j x) else l.getD j x := by
  induction l generalizing i j with
  | nil => exact absurd h (Nat.not_lt_zero _)
  | cons y l ih =>
    cases i with
    | zero => cases j <;> simp [modNth]
    | succ i =>
      cases j with
      | zero => simp [modNth]
      | succ j => simpa [modNth] using ih i j (by simpa using h)

/-- A die after a die is updated. -/
theorem die_updDie (s : State) (d j : Nat) (f : Die → Die) (h : d < s.dies.length) :
    (s.updDie d f).die j = if j = d then f (s.die j) else s.die j := getD_modNth _ _ _ _ _ h

/-- A die that an update does not name. -/
theorem die_updDie_other (s : State) (d j : Nat) (f : Die → Die) (h : j ≠ d) : (s.updDie d f).die j = s.die j := by
  simp only [die, updDie]
  induction s.dies generalizing d j with
  | nil => rfl
  | cons y l ih =>
    cases d with
    | zero => cases j with
      | zero => exact absurd rfl h
      | succ j => rfl
    | succ d => cases j with
      | zero => rfl
      | succ j => simpa [modNth] using ih d j (by simpa using h)

end State

namespace Region

/-- A cell just put. -/
@[simp] theorem cell_setCell_same (r : Region) (c : Nat) (x : Cell) : (r.setCell c x).cell c = x :=
  lookD_putAsc_same _ _ _ _

/-- Another cell. -/
theorem cell_setCell_other (r : Region) (c j : Nat) (x : Cell) (h : j ≠ c) : (r.setCell c x).cell j = r.cell j :=
  lookD_putAsc_other _ _ _ _ _ h

/-- The cell whose run-time state is changed. -/
@[simp] theorem cell_updRt_same (r : Region) (c : Nat) (f : CellRt → CellRt) :
    (r.updRt c f).cell c = { r.cell c with rt := f (r.cell c).rt } := lookD_putAsc_same _ _ _ _

/-- Another cell. -/
theorem cell_updRt_other (r : Region) (c j : Nat) (f : CellRt → CellRt) (h : j ≠ c) : (r.updRt c f).cell j = r.cell j :=
  lookD_putAsc_other _ _ _ _ _ h

/-- No update of a cell's run-time state changes a configuration. -/
theorem cfg_updRt (r : Region) (c j : Nat) (f : CellRt → CellRt) : ((r.updRt c f).cell j).cfg = (r.cell j).cfg := by
  by_cases h : j = c
  · subst h; simp
  · rw [cell_updRt_other r c j f h]

theorem keeps_updRt (c : Nat) (f : CellRt → CellRt) : KeepsPlace fun r => r.updRt c f := fun _ => ⟨rfl, rfl⟩

end Region

/-! Traffic with other modules. -/

/-- What sending flits leaves alone: all but link ports and what has been given out. -/
structure SameButLinks (s t : State) : Prop where
  module : t.module = s.module
  faults : ∀ d, (t.die d).faults = (s.die d).faults
  regions : t.regions = s.regions
  tasks : t.tasks = s.tasks
  reqs : t.reqs = s.reqs
  cmds : t.cmds = s.cmds
  iports : t.iports = s.iports
  monitors : t.monitors = s.monitors
  mem : t.mem = s.mem
  capTags : t.capTags = s.capTags
  accTags : t.accTags = s.accTags
  bad : t.bad = s.bad
  replies : t.replies = s.replies
  asks : t.asks = s.asks
  words : t.words = s.words
  wants : t.wants = s.wants
  puts : t.puts = s.puts
  agenda : t.agenda = s.agenda
  inputs : t.inputs = s.inputs
  focus : t.focus = s.focus

theorem SameButLinks.refl (s : State) : SameButLinks s s :=
  ⟨rfl, fun _ => rfl, rfl, rfl, rfl, rfl, rfl, rfl, rfl, rfl, rfl, rfl, rfl, rfl, rfl, rfl, rfl, rfl, rfl, rfl⟩

theorem SameButLinks.trans {s t u : State} (h : SameButLinks s t) (k : SameButLinks t u) : SameButLinks s u :=
  ⟨k.module.trans h.module, fun d => (k.faults d).trans (h.faults d), k.regions.trans h.regions, k.tasks.trans h.tasks,
    k.reqs.trans h.reqs, k.cmds.trans h.cmds, k.iports.trans h.iports, k.monitors.trans h.monitors, k.mem.trans h.mem,
    k.capTags.trans h.capTags, k.accTags.trans h.accTags, k.bad.trans h.bad, k.replies.trans h.replies, k.asks.trans h.asks,
    k.words.trans h.words, k.wants.trans h.wants, k.puts.trans h.puts, k.agenda.trans h.agenda, k.inputs.trans h.inputs,
    k.focus.trans h.focus⟩

theorem getD_modNth_map {α β : Type} (g : α → β) (f : α → α) (hf : ∀ x, g (f x) = g x) (l : List α) (i j : Nat) (x : α) :
    g ((modNth l i f).getD j x) = g (l.getD j x) := by
  induction l generalizing i j with
  | nil => rfl
  | cons y l ih =>
    cases i with
    | zero => cases j <;> simp [modNth, hf]
    | succ i =>
      cases j with
      | zero => simp [modNth]
      | succ j => simpa [modNth] using ih i j

theorem putPort_same (s : State) (p : LinkPort) : SameButLinks s (putPort s p) := by
  unfold putPort
  split
  · exact .refl s
  · refine ⟨rfl, fun d => ?_, rfl, rfl, rfl, rfl, rfl, rfl, rfl, rfl, rfl, rfl, rfl, rfl, rfl, rfl, rfl, rfl, rfl, rfl⟩
    exact getD_modNth_map Die.faults (fun x => { x with
      links := if x.links.any (·.id == p.id) then x.links.map (fun q => if q.id == p.id then p else q) else x.links ++ [p] })
      (fun _ => rfl) _ _ _ _

theorem sendOn_same (s : State) (n : Nat) (fs : List Flit) : SameButLinks s (sendOn s n fs) := by
  obtain ⟨h1, h2, h3, h4, h5, h6, h7, h8, h9, h10, h11, h12, h13, h14, h15, h16, h17, h18, h19, h20⟩ :=
    putPort_same s ((s.port n).keep fs)
  exact ⟨h1, h2, h3, h4, h5, h6, h7, h8, h9, h10, h11, h12, h13, h14, h15, h16, h17, h18, h19, h20⟩

theorem sendFlits_same (s : State) (fs : List Flit) : SameButLinks s (sendFlits s fs) := by
  unfold sendFlits
  split
  · exact .refl s
  · split
    · exact .refl s
    · exact sendOn_same _ _ _

/-- A step that needs nothing of other modules stands as it is. -/
theorem settle_idle {s t : State} (hs : s.asks = []) (ht : t.asks = []) (hwo : t.words = []) (hwa : t.wants = [])
    (hp : t.puts = []) : settle s t = t := by
  have h1 : s.asking s.focus = false := by simp [State.asking, hs]
  have h2 : t.asking s.focus = false := by simp [State.asking, ht]
  obtain ⟨_, _, _, _, _, _, _, _, _, _, _, _, _, _, _, _, _, _, _, _, _, _, _, _⟩ := t
  simp only at hwo hwa hp
  subst hwo hwa hp
  simp only [settle, h1, h2]
  rfl

/-- The same where the actor in focus alone has nothing under way. -/
theorem settle_alone {s t : State} (hs : s.asking s.focus = false) (hf : t.focus = s.focus) (ha : t.asking t.focus = false)
    (hwo : ∀ a ∈ t.words, a.who ≠ t.focus) (hwa : t.wants = []) (hp : t.puts = []) : settle s t = t := by
  have h1 : t.words.filter (·.who != s.focus) = t.words := by
    rw [List.filter_eq_self]
    intro a h
    simpa [← hf] using hwo a h
  rw [hf] at ha
  obtain ⟨_, _, _, _, _, _, _, _, _, _, _, _, _, _, _, _, _, _, _, _, _, _, _, _⟩ := t
  simp only at hwa hp h1
  subst hwa hp
  simp only [settle, hs, ha, State.flush, State.forget, List.foldl_nil, List.isEmpty_nil, Bool.not_true, Bool.false_eq_true, if_false,
    h1]

/-- What a step lacks is asked for, and the step has not been taken (R315). -/
theorem settle_lacks {s t : State} (hs : s.asking s.focus = false) (hw : t.wants ≠ []) :
    settle s t = t.wants.foldl (State.ask s.focus) s := by
  simp [settle, hs, hw]

/-! Bytes written at a local address. -/

theorem tellPeer_same (woke : Bool) (s : State) (m : Monitor) : SameButLinks s (tellPeer woke s m) := by
  unfold tellPeer
  split
  · exact .refl s
  · exact sendFlits_same _ _

/-- What bytes written at a local address leave alone: all but memory, capability tags and monitors, and what tells other modules of
their monitors. -/
structure SameButMemory (s t : State) : Prop where
  module : t.module = s.module
  faults : ∀ d, (t.die d).faults = (s.die d).faults
  regions : t.regions = s.regions
  tasks : t.tasks = s.tasks
  reqs : t.reqs = s.reqs
  cmds : t.cmds = s.cmds
  iports : t.iports = s.iports
  accTags : t.accTags = s.accTags
  bad : t.bad = s.bad
  replies : t.replies = s.replies
  asks : t.asks = s.asks
  words : t.words = s.words
  wants : t.wants = s.wants
  puts : t.puts = s.puts
  agenda : t.agenda = s.agenda
  inputs : t.inputs = s.inputs
  focus : t.focus = s.focus

theorem SameButMemory.links {s t u : State} (h : SameButMemory s t) (k : SameButLinks t u) : SameButMemory s u :=
  ⟨k.module.trans h.module, fun d => (k.faults d).trans (h.faults d), k.regions.trans h.regions, k.tasks.trans h.tasks,
    k.reqs.trans h.reqs, k.cmds.trans h.cmds, k.iports.trans h.iports, k.accTags.trans h.accTags, k.bad.trans h.bad,
    k.replies.trans h.replies, k.asks.trans h.asks, k.words.trans h.words, k.wants.trans h.wants, k.puts.trans h.puts,
    k.agenda.trans h.agenda, k.inputs.trans h.inputs, k.focus.trans h.focus⟩

theorem tellPeers_same (ms : List Monitor) (s : State) : SameButLinks s (ms.foldl (tellPeer true) s) := by
  induction ms generalizing s with
  | nil => exact .refl s
  | cons m ms ih => exact (tellPeer_same true s m).trans (ih _)

theorem wake_same {s t : State} (h : SameButMemory s t) (g : Nat) : SameButMemory s (wake t g) := by
  refine SameButMemory.links ?_ (tellPeers_same _ _)
  exact ⟨h.module, h.faults, h.regions, h.tasks, h.reqs, h.cmds, h.iports, h.accTags, h.bad, h.replies, h.asks, h.words, h.wants,
    h.puts, h.agenda, h.inputs, h.focus⟩

@[simp] theorem wake_mem (s : State) (g : Nat) : (wake s g).mem = s.mem := (tellPeers_same _ _).mem

@[simp] theorem wake_capTags (s : State) (g : Nat) : (wake s g).capTags = s.capTags := (tellPeers_same _ _).capTags

@[simp] theorem wake_accTags (s : State) (g : Nat) : (wake s g).accTags = s.accTags := (tellPeers_same _ _).accTags

theorem wakes_mem (gs : List Nat) (s : State) : (gs.foldl wake s).mem = s.mem := by
  induction gs generalizing s with
  | nil => rfl
  | cons g gs ih => exact (ih (wake s g)).trans (wake_mem s g)

theorem wakes_same (gs : List Nat) (s t : State) (h : SameButMemory s t) : SameButMemory s (gs.foldl wake t) := by
  induction gs generalizing t with
  | nil => exact h
  | cons g gs ih => exact ih (wake t g) (wake_same h g)

@[simp] theorem pokeBytes_mem (s : State) (a : Nat) (bs : List Byte) : (pokeBytes s a bs).mem = memWriteN s.mem a bs :=
  wakes_mem _ _

theorem pokeBytes_same (s : State) (a : Nat) (bs : List Byte) : SameButMemory s (pokeBytes s a bs) :=
  wakes_same _ _ _ ⟨rfl, fun _ => rfl, rfl, rfl, rfl, rfl, rfl, rfl, rfl, rfl, rfl, rfl, rfl, rfl, rfl, rfl, rfl⟩

/-- Bytes written at a local address keep the canonical form. -/
theorem memOk_pokeBytes {s : State} (h : Memory.wf s.mem = true) (a : Nat) (bs : List Byte) :
    Memory.wf (pokeBytes s a bs).mem = true := by
  rw [pokeBytes_mem]; exact Memory.wf_memWriteN h a bs

/-- Bytes written at a physical address keep the canonical form. -/
theorem memOk_pokePhys {s : State} (h : Memory.wf s.mem = true) (a : Nat) (bs : List Byte) (q : Nat) :
    Memory.wf (pokePhys s a bs q).mem = true := by
  unfold pokePhys
  split
  · exact memOk_pokeBytes h _ _
  · unfold State.addPut
    split
    · split <;> exact h
    · exact h

/-! Records (R294). -/

/-- What posting a record leaves alone: all but the fault queues, and the doorbell word with its tags and monitors. -/
structure SameButRecords (s t : State) : Prop where
  module : t.module = s.module
  regions : t.regions = s.regions
  tasks : t.tasks = s.tasks
  reqs : t.reqs = s.reqs
  cmds : t.cmds = s.cmds
  iports : t.iports = s.iports
  bad : t.bad = s.bad
  replies : t.replies = s.replies
  asks : t.asks = s.asks
  words : t.words = s.words
  wants : t.wants = s.wants
  agenda : t.agenda = s.agenda
  inputs : t.inputs = s.inputs
  focus : t.focus = s.focus

theorem addPut_same (s : State) (p : Put) : SameButRecords s (s.addPut p) := by
  unfold State.addPut
  split
  · split <;> exact ⟨rfl, rfl, rfl, rfl, rfl, rfl, rfl, rfl, rfl, rfl, rfl, rfl, rfl, rfl⟩
  · exact ⟨rfl, rfl, rfl, rfl, rfl, rfl, rfl, rfl, rfl, rfl, rfl, rfl, rfl, rfl⟩

theorem pokePhys_same (s : State) (a : Nat) (bs : List Byte) (q : Nat) : SameButRecords s (pokePhys s a bs q) := by
  unfold pokePhys
  split
  · obtain ⟨h1, h2, h3, h4, h5, h6, h7, h8, h9, h10, h11, h12, h13, h14, h15, h16, h17⟩ := pokeBytes_same s (paLocal a) bs
    exact ⟨h1, h3, h4, h5, h6, h7, h9, h10, h11, h12, h13, h15, h16, h17⟩
  · exact addPut_same _ _

theorem post_same (s : State) (p : Where) (code src : Nat) (vec : Bool) (tseq : Nat) (ws : List Nat) :
    SameButRecords s (post s p code src vec tseq ws) := by
  unfold post
  simp only
  split
  · split
    · obtain ⟨h1, h2, h3, h4, h5, h6, h7, h8, h9, h10, h11, h12, h13, h14⟩ := pokePhys_same (s.updDie p.die fun x =>
          { x with faults := { x.faults with
              recs := addRecord x.faults.recs (mkRec (recHead p code src vec (s.die p.die).faults.mark (s.now p.die) tseq) ws),
              mark := false } }) (fieldNat (s.die p.die).faults.fqdb 3 53 * 8)
          (natLe 8 ((s.die p.die).faults.recs.length + 1)) 0
      exact ⟨h1, h2, h3, h4, h5, h6, h7, h8, h9, h10, h11, h12, h13, h14⟩
    · exact ⟨rfl, rfl, rfl, rfl, rfl, rfl, rfl, rfl, rfl, rfl, rfl, rfl, rfl, rfl⟩
  · exact ⟨rfl, rfl, rfl, rfl, rfl, rfl, rfl, rfl, rfl, rfl, rfl, rfl, rfl, rfl⟩

@[simp] theorem post_regions (s : State) (p : Where) (code src : Nat) (vec : Bool) (tseq : Nat) (ws : List Nat) :
    (post s p code src vec tseq ws).regions = s.regions := (post_same ..).regions

@[simp] theorem post_region (s : State) (p : Where) (code src : Nat) (vec : Bool) (tseq : Nat) (ws : List Nat) (d b : Nat) :
    (post s p code src vec tseq ws).region d b = s.region d b := by
  simp only [State.region, post_regions]

/-- A record posted keeps the canonical form. -/
theorem memOk_post {s : State} (h : Memory.wf s.mem = true) (p : Where) (code src : Nat) (vec : Bool) (tseq : Nat)
    (ws : List Nat) : Memory.wf (post s p code src vec tseq ws).mem = true := by
  unfold post
  simp only
  split
  · split
    · exact memOk_pokePhys (s := s.updDie p.die _) h _ _ _
    · exact h
  · exact h

/-- With no doorbell armed a record leaves memory alone. -/
theorem post_mem {s : State} {p : Where} (h : (s.die p.die).faults.fqdb.getLsbD 0 = false) (code src : Nat) (vec : Bool)
    (tseq : Nat) (ws : List Nat) : (post s p code src vec tseq ws).mem = s.mem := by
  unfold post
  simp only [h]
  split <;> rfl

/-- Adding a record makes a queue longer by one. -/
@[simp] theorem length_addRecord (l : List (BitVec 512)) (r : BitVec 512) : (addRecord l r).length = l.length + 1 := by
  induction l with
  | nil => rfl
  | cons x xs ih =>
    unfold addRecord
    split
    · rfl
    · simp [ih]

/-! Accesses at home. -/

@[simp] theorem updBuffers_mem (s : State) (d blk : Nat) (f : List (Nat × LineData) → List (Nat × LineData)) :
    (updBuffers s d blk f).mem = s.mem := rfl

@[simp] theorem updLine_mem (s : State) (d blk line : Nat) (f : LineData → LineData) :
    (updLine s d blk line f).mem = s.mem := rfl

@[simp] theorem applyTags_mem (s : State) (l : List (Nat × W32)) : (applyTags s l).mem = s.mem := rfl

@[simp] theorem clearTags_mem (s : State) (a n : Nat) : (clearTags s a n).mem = s.mem := rfl

@[simp] theorem fillLine_mem (s : State) (d blk line : Nat) : (fillLine s d blk line).mem = s.mem := rfl

@[simp] theorem dropLine_mem (s : State) (d blk line : Nat) : (dropLine s d blk line).mem = s.mem := rfl

@[simp] theorem invalidateL1_mem (s : State) (r : Region) : (invalidateL1 s r).mem = s.mem := rfl

@[simp] theorem countHit_mem (s : State) (d blk : Nat) (hit : Bool) : (countHit s d blk hit).mem = s.mem := rfl

@[simp] theorem addPut_mem (s : State) (p : Put) : (s.addPut p).mem = s.mem := by
  unfold State.addPut
  split
  · split <;> rfl
  · rfl

@[simp] theorem want_mem (s : State) (w : Want) : (s.want w).mem = s.mem := by
  unfold State.want
  split <;> rfl

@[simp] theorem needFar_mem (s : State) (a n : Nat) : (needFar s a n).mem = s.mem := by
  unfold needFar
  generalize List.range ((a + n + 15) / 16 - a / 16) = l
  induction l generalizing s with
  | nil => rfl
  | cons i l ih =>
    refine (ih _).trans ?_
    simp only
    split
    · rfl
    · exact want_mem _ _

@[simp] theorem needLine_mem (s : State) (a : Nat) : (needLine s a).mem = s.mem := by
  unfold needLine
  split
  · rfl
  · exact want_mem _ _

@[simp] theorem needPhys_mem (s : State) (a n : Nat) : (needPhys s a n).mem = s.mem := by
  unfold needPhys
  split
  · rfl
  · exact needFar_mem _ _ _

@[simp] theorem needChunks_mem (s : State) (md : Mode) (cs : List Chunk) : (needChunks s md cs).mem = s.mem := by
  unfold needChunks
  induction cs generalizing s with
  | nil => rfl
  | cons c cs ih =>
    refine (ih _).trans ?_
    cases c <;> simp only
    split
    · rfl
    · split
      · exact needLine_mem _ _
      · exact needFar_mem _ _ _

@[simp] theorem needAper_mem (s : State) (ap : Aperture) (o : Nat) : (needAper s ap o).mem = s.mem := by
  unfold needAper
  split
  · exact needPhys_mem _ _ _
  · rfl

/-- One byte written: memory of this module is written there and nowhere else. -/
theorem writeChunk_mem (s : State) (md : Mode) (c : Chunk) (b : Byte) :
    (writeChunk s md c b).mem = match c with | .at a => memWrite s.mem a b | _ => s.mem := by
  unfold writeChunk
  rcases c with a | a | ⟨_, _⟩
  · simp only
    split <;> split <;> simp
  · simp only
    split <;> simp
  · rfl

theorem memOk_writeChunks {s : State} (h : Memory.wf s.mem = true) (md : Mode) (cs : List Chunk) (bs : List Byte) :
    Memory.wf (writeChunks s md cs bs).mem = true := by
  induction cs generalizing s bs with
  | nil => cases bs <;> exact h
  | cons c cs ih =>
    cases bs with
    | nil => exact h
    | cons b bs =>
      refine ih ?_ bs
      rw [writeChunk_mem]
      rcases c with a | a | ⟨_, _⟩
      · exact Memory.wf_memWrite h a b
      · exact h
      · exact h

/-- A byte at an address that no chunk names reads as before. -/
theorem memRead_writeChunks_other {s : State} (md : Mode) (cs : List Chunk) (bs : List Byte) (a : Nat)
    (h : Chunk.at a ∉ cs) : memRead (writeChunks s md cs bs).mem a = memRead s.mem a := by
  induction cs generalizing s bs with
  | nil => cases bs <;> rfl
  | cons c cs ih =>
    cases bs with
    | nil => rfl
    | cons b bs =>
      obtain ⟨hc, hcs⟩ : Chunk.at a ≠ c ∧ Chunk.at a ∉ cs := by simpa using h
      simp only [writeChunks]
      rw [ih bs hcs, writeChunk_mem]
      rcases c with k | k | ⟨_, _⟩
      · exact memRead_memWrite_other k a b fun e => hc (by rw [e])
      · rfl
      · rfl

@[simp] theorem readChunk_mem (s : State) (md : Mode) (c : Chunk) : (readChunk s md c).2.mem = s.mem := by
  unfold readChunk
  repeat' split
  all_goals rfl

@[simp] theorem readChunks_mem (s : State) (md : Mode) (cs : List Chunk) : (readChunks s md cs).2.mem = s.mem := by
  induction cs generalizing s with
  | nil => rfl
  | cons c cs ih => simp only [readChunks]; rw [ih, readChunk_mem]

@[simp] theorem findExtent_mem (a o n : Nat) (seen : List (BitVec 128)) (s : State) :
    (findExtent a o n seen s).2.mem = s.mem := by
  induction n generalizing a seen s with
  | zero => rfl
  | succ n ih =>
    simp only [findExtent]
    split
    · exact needPhys_mem _ _ _
    · split
      · exact needPhys_mem _ _ _
      · split
        · exact needPhys_mem _ _ _
        · exact (ih _ _ _).trans (needPhys_mem _ _ _)

@[simp] theorem translateWalk_mem (s : State) (d blk oid o : Nat) (w st : Bool) (dsc : BitVec 256) :
    (translateWalk s d blk oid o w st dsc).2.mem = s.mem := by
  have h := findExtent_mem (fieldNat dsc 200 56) o (fieldNat dsc 184 16) [] s
  unfold translateWalk
  generalize findExtent (fieldNat dsc 200 56) o (fieldNat dsc 184 16) [] s = x at h ⊢
  obtain ⟨x, s1⟩ := x
  cases x with
  | inl c => exact h
  | inr x =>
    obtain ⟨x, seen⟩ := x
    simp only
    split
    · exact h
    · split
      · exact (needPhys_mem _ _ _).trans h
      · split <;> exact (needPhys_mem _ _ _).trans h

@[simp] theorem translate_mem (s : State) (d blk oid o : Nat) (w st : Bool) :
    (translate s d blk oid o w st).2.mem = s.mem := by
  unfold translate
  split
  · rfl
  · split
    · rfl
    · simp only
      repeat' split
      all_goals first
        | exact needPhys_mem _ _ _
        | exact (translateWalk_mem _ _ _ _ _ _ _ _).trans (needPhys_mem _ _ _)

theorem plan_mem (s : State) (md : Mode) (oid : Nat) (w : Bool) (ps : List (Nat × Nat)) :
    (plan s md oid w ps).2.mem = s.mem := by
  induction ps generalizing s with
  | nil => rfl
  | cons p ps ih =>
    obtain ⟨o, n⟩ := p
    have ht := translate_mem s md.die md.blk oid o w md.stash
    simp only [plan]
    generalize translate s md.die md.blk oid o w md.stash = x at ht ⊢
    obtain ⟨x, s1⟩ := x
    cases x with
    | bad c => exact ht
    | aper _ _ => exact ht
    | ok pa =>
      have h := ih s1
      simp only
      generalize plan s1 md oid w ps = y at h ⊢
      obtain ⟨y, s2⟩ := y
      cases y <;> exact h.trans ht

/-- The state that an access leaves. -/
def Acc.state : Acc → State
  | .ok _ s => s
  | .bad _ _ _ s => s

/-- A load of chunks leaves memory alone. -/
theorem loadChunks_mem (s : State) (md : Mode) (o : Nat) (cs : List Chunk) : (loadChunks s md o cs).state.mem = s.mem := by
  unfold loadChunks
  simp only
  split
  · exact needChunks_mem _ _ _
  · split
    · exact needChunks_mem _ _ _
    · exact (readChunks_mem _ _ _).trans (needChunks_mem _ _ _)

theorem loadAper_mem (s : State) (md : Mode) (ap : Aperture) (ps : List (Nat × Nat)) :
    (loadAper s md ap ps).state.mem = s.mem := by
  induction ps generalizing s with
  | nil => rfl
  | cons p ps ih =>
    obtain ⟨o, n⟩ := p
    simp only [loadAper]
    split
    · exact needAper_mem _ _ _
    · next cs _ =>
      have h1 := (loadChunks_mem (needAper s ap o) { md with l1 := false } o cs).trans (needAper_mem s ap o)
      generalize loadChunks (needAper s ap o) { md with l1 := false } o cs = x at h1 ⊢
      cases x with
      | bad c x t s1 => exact h1
      | ok bs s1 =>
        have h2 := ih s1
        simp only
        generalize loadAper s1 md ap ps = y at h2 ⊢
        cases y <;> exact h2.trans h1

/-- A load leaves memory alone. -/
theorem loadAt_mem (s : State) (md : Mode) (oid o n : Nat) (special : Bool) :
    (loadAt s md oid o n special).state.mem = s.mem := by
  unfold loadAt
  split
  · split
    · rfl
    · exact loadAper_mem _ _ _ _
  · have h := plan_mem s md oid false (pieces o n)
    generalize plan s md oid false (pieces o n) = x at h ⊢
    obtain ⟨x, s1⟩ := x
    cases x with
    | bad c x => exact h
    | bytes cs => exact (loadChunks_mem _ _ _ _).trans h

/-- A store of chunks keeps the canonical form. -/
theorem memOk_storeChunks {s : State} (h : Memory.wf s.mem = true) (md : Mode) (o : Nat) (cs : List Chunk) (bs : List Byte) :
    Memory.wf (storeChunks s md o cs bs).state.mem = true := by
  unfold storeChunks
  split
  · exact h
  · exact memOk_writeChunks (s := applyTags s _) h _ _ _

theorem memOk_storeAper {s : State} (h : Memory.wf s.mem = true) (md : Mode) (ap : Aperture) (ps : List (Nat × Nat))
    (bs : List Byte) : Memory.wf (storeAper s md ap ps bs).state.mem = true := by
  induction ps generalizing s bs with
  | nil => exact h
  | cons p ps ih =>
    obtain ⟨o, n⟩ := p
    simp only [storeAper]
    split
    · exact h
    · next cs _ =>
      have h1 := memOk_storeChunks h { md with l1 := false, keepTags := false } o cs bs
      generalize storeChunks s { md with l1 := false, keepTags := false } o cs bs = x at h1 ⊢
      cases x with
      | bad c x t s1 => exact h1
      | ok l s1 => exact ih h1 _

/-- A store keeps the canonical form. -/
theorem memOk_storeAt {s : State} (h : Memory.wf s.mem = true) (md : Mode) (oid o : Nat) (bs : List Byte) (special : Bool) :
    Memory.wf (storeAt s md oid o bs special).state.mem = true := by
  unfold storeAt
  split
  · split
    · exact h
    · exact memOk_storeAper h _ _ _ _
  · have hp := plan_mem s md oid true (pieces o bs.length)
    generalize plan s md oid true (pieces o bs.length) = x at hp ⊢
    obtain ⟨x, s1⟩ := x
    have h1 : Memory.wf s1.mem = true := by rw [hp]; exact h
    cases x with
    | bad c x => exact h1
    | bytes cs => exact memOk_storeChunks h1 _ _ _ _

@[simp] theorem bypass_mem (s : State) (md : Mode) (cs : List Chunk) : (bypass s md cs).mem = s.mem := by
  cases cs <;> rfl

/-- A read-modify-write keeps the canonical form. -/
theorem memOk_rmwAt {s : State} (h : Memory.wf s.mem = true) (md : Mode) (q oid o n : Nat) (writes : Bool)
    (f : List Byte → Option (List Byte)) : Memory.wf (rmwAt s md q oid o n writes f).state.mem = true := by
  unfold rmwAt
  have hp := plan_mem s md oid writes (pieces o n)
  generalize plan s md oid writes (pieces o n) = x at hp ⊢
  obtain ⟨x, s1⟩ := x
  have h1 : Memory.wf s1.mem = true := by rw [hp]; exact h
  cases x with
  | bad c x => exact h1
  | bytes cs =>
    have hn : Memory.wf (needChunks s1 { md with l1 := false } cs).mem = true := by rw [needChunks_mem]; exact h1
    simp only
    split
    · exact hn
    · have h2 := readChunks_mem (needChunks s1 { md with l1 := false } cs) { md with l1 := false } cs
      generalize readChunks (needChunks s1 { md with l1 := false } cs) { md with l1 := false } cs = y at h2 ⊢
      obtain ⟨old, s2⟩ := y
      have h3 : Memory.wf s2.mem = true := by rw [h2]; exact hn
      simp only [Acc.state]
      rw [bypass_mem]
      split
      · exact h3
      · exact memOk_writeChunks h3 _ _ _

end Sys2Proof.Machine
end

