-- ==== Sys2Proof/Laws/Cells.lean ====
section
/-! SUPPORT. The turn of a cell: what it does when the cell may fire, and what the shared firing rule of the element-wise forms
gives on values. -/

namespace Sys2Proof.Machine

/-- A cell none of whose results has come sends none. -/
theorem sendResult_unready {s : State} {r : Region} {c t : Nat} (h : (r.cell c).rt.results.all (!·.ready) = true) :
    sendResult s r c t = s := by
  cases hk : (r.cell c).rt.results with
  | nil => simp only [sendResult, hk]
  | cons k rest =>
    rw [hk, List.all_cons, Bool.and_eq_true, Bool.not_eq_true'] at h
    simp [sendResult, hk, h.1]

/-- A cell that may fire performs its form's turn. -/
theorem cellTurn_ready {s : State} {cx : Cx} (h : CellReady s cx) (form : Cx → Turn) :
    cellTurn s cx.m form = .next (applyTurn cx (form cx)) := by
  obtain ⟨cs, r, c, x, t, m⟩ := cx
  obtain ⟨⟨⟨⟨hs, hr, hc, hi, hl, hx, ht, hsend, hg, hk⟩, hf, hp, ho⟩, hw⟩, hb⟩ := h
  simp only at hs hr hc hi hl hx ht hsend hg hf hp ho hk hb
  subst hs hx ht hc
  have hlt : ¬ r.cellCount ≤ cs.focus.cell := by omega
  have hlb : ¬ cs.now cs.focus.die < (r.cell cs.focus.cell).rt.busy := by omega
  unfold cellTurn
  simp only [hr, hlt, if_false, hl, Bool.not_true, Bool.false_eq_true, hsend, Option.getD_some, hg, Bool.false_or, hp, ho]
  simp [hf, hk, hw, hlb]

/-- A cell that an earlier DIV or REM still holds does nothing. -/
theorem cellTurn_busy {s : State} {cx : Cx} (h : CellAwake s cx) (hb : cx.t < cx.x.rt.busy) (form : Cx → Turn) :
    cellTurn s cx.m form = .next s := by
  obtain ⟨cs, r, c, x, t, m⟩ := cx
  obtain ⟨⟨⟨hs, hr, hc, hi, hl, hx, ht, hsend, hg, hk⟩, hf, hp, ho⟩, hw⟩ := h
  simp only at hs hr hc hi hl hx ht hsend hg hf hp ho hk hb
  subst hs hx ht hc
  have hlt : ¬ r.cellCount ≤ cs.focus.cell := by omega
  unfold cellTurn
  simp only [hr, hlt, if_false, hl, Bool.not_true, Bool.false_eq_true, hsend, Option.getD_some, hg, Bool.false_or, hp, ho]
  simp [hf, hk, hw, hb]

/-- A head that its form does not accept is turned away, whatever stands at the other ports and whatever the cell still owes (R24). -/
theorem cellTurn_wrong {s : State} {cx : Cx} (h : CellStands s cx) {p : Nat} (hw : cx.wrongKind = some p) (form : Cx → Turn) :
    cellTurn s cx.m form = .next (rejectAt s cx.r cx.c p) := by
  obtain ⟨cs, r, c, x, t, m⟩ := cx
  obtain ⟨hs, hr, hc, hi, hl, hx, ht, hsend, hg, hk⟩ := h
  simp only at hs hr hc hi hl hx ht hsend hg hk
  subst hs hx ht hc
  have hlt : ¬ r.cellCount ≤ cs.focus.cell := by omega
  unfold cellTurn
  simp only [hr, hlt, if_false, hl, Bool.not_true, Bool.false_eq_true, hsend, Option.getD_some, hg, Bool.false_or]
  simp [hk, hw]

/-- Whether a port refuses a VAL does not depend on the headers it accepts. -/
theorem Cx.refuses_val {cx : Cx} {p : Nat} {k : Token} (hk : cx.head p = some k) (hv : k.kind = .val) (f g : W64 → Bool) :
    cx.refuses p markKinds f = cx.refuses p markKinds g := by
  simp only [Cx.refuses, hk, hv]
  rfl

theorem mapM_head {cx : Cx} {ps : List Nat} (h : ∀ p ∈ ps, ∃ k, cx.head p = some k ∧ k.kind = .val ∧ k.void = false) :
    ∃ ks, cx.heads ps = some ks ∧ ks.length = ps.length ∧ (∀ k ∈ ks, k.kind = .val ∧ k.void = false) := by
  induction ps with
  | nil => exact ⟨[], rfl, rfl, by simp⟩
  | cons p ps ih =>
    obtain ⟨k, hk, hkind, hvoid⟩ := h p (by simp)
    obtain ⟨ks, hks, hlen, hall⟩ := ih fun q hq => h q (List.mem_cons_of_mem _ hq)
    refine ⟨k :: ks, ?_, by simp [hlen], ?_⟩
    · simp only [Cx.heads] at hks ⊢
      simp [List.mapM_cons, hk, hks]
    · intro j hj
      rcases List.mem_cons.1 hj with rfl | hj
      · exact ⟨hkind, hvoid⟩
      · exact hall j hj

/-- The turn of an element-wise form on values, as the form's own effect f gives it. -/
def Cx.valueTurn (cx : Cx) (ps : List Nat) : Fire → Turn
  | .hold => .idle
  | .reject p => .reject p
  | .violate c a => .violate c a
  | .eff e => .act { e with takes := ps.filter cx.isLink ++ e.takes }
  | .value v fl => .act { takes := ps.filter cx.isLink, sends := cx.toAll (.plain .val v), val := some v, rdst := cx.m.rdstNat,
                          rdstVal := v, flags := fl }

/-- With its operands ready, an element-wise form acts on their values. -/
theorem elemTurn_ready {cx : Cx} {ps : List Nat} {os : List Operand} (h : ElemReady cx ps os) (hdrOk : Nat → W64 → Bool)
    (outHdr : W64) (f : List Operand → Fire) : elemTurn cx ps hdrOk outHdr f = cx.valueTurn ps (f os) := by
  obtain ⟨hb, hos, hlk, hv, hr, hfree⟩ := h
  have hv' : ∀ p ∈ ps.filter cx.isLink, ∃ k, cx.head p = some k ∧ k.kind = .val ∧ k.void = false := by
    intro p hp; obtain ⟨h1, h2⟩ := List.mem_filter.1 hp; exact hv p h1 h2
  obtain ⟨ks, hks, hlen, hall⟩ := mapM_head hv'
  have hnone : (ps.filter cx.isLink).find? (fun p => cx.refuses p markKinds (hdrOk p)) = none := by
    rw [List.find?_eq_none]
    intro p hp
    obtain ⟨k, hk, hkind, _⟩ := hv' p hp
    obtain ⟨h1, h2⟩ := List.mem_filter.1 hp
    rw [Cx.refuses_val hk hkind (hdrOk p) fun _ => true, hr p h1 h2]
    simp
  have hball : (ps.all cx.bound) = true := List.all_eq_true.2 hb
  have hpend : (cx.m.rdstNat != 0 && cx.pendingReg cx.m.rdstNat) = false := by
    rcases hfree with h | h <;> simp [h]
  cases ks with
  | nil => exact absurd (List.length_eq_zero_iff.1 hlen.symm) hlk
  | cons k ks =>
    have hk := hall k (by simp)
    have hsame : ((ps.filter cx.isLink).zip (k :: ks)).find? (fun pk => pk.2.kind != Kind.val) = none := by
      rw [List.find?_eq_none]
      intro pk hpk
      have := hall pk.2 (List.of_mem_zip hpk).2
      simp [this.1]
    have hvoid : ((k :: ks).any (·.void)) = false := by
      rw [List.any_eq_false]
      intro j hj
      simp [(hall j hj).2]
    unfold elemTurn
    simp only [hnone, hball, Bool.not_true, Bool.false_eq_true, if_false, hpend, hos, hks, hsame, hk.1, hvoid, beq_self_eq_true,
      if_true]
    cases f os <;> rfl

end Sys2Proof.Machine
end

