-- ==== Sys2Proof/Tests/Slice0.lean ====
section
/-! SUPPORT. Tests: words written out from the encoding tables, an ill-formed term for each check of WellFormed, single steps
on small states with results from the manual's tables and examples, and for every statement with hypotheses a concrete state
and operands that meet them. -/

namespace Sys2Proof.Tests

open Sys2Proof Sys2Proof.Machine

set_option Elab.async false

/-! Small states. -/

/-- An order of four elements, and a ragged one of at most four. -/
def order4 : OMap := [⟨0, false, false, false, 0, 4⟩]
/-- A ragged order. -/
def rag4 : OMap := [⟨0, false, true, false, 0, 4⟩]

/-- A task bound to region 0 of one block, its route at offset 64 of object 1. -/
def task0 : Task := placedTask

/-- Region 0 of that task, running. -/
def region0 (cells : List (Nat × Cell)) : Region :=
  { freshRegion task0 0 0 5 with
    running := true, cells := cells, orders := [some order4, some order4, some rag4], ctl := .ready 10, pc := 64 }

/-- The module running with one region, die 0 in cycle 10, and cell c of the region in focus. -/
def stateOf (r : Region) (c : Nat) : State :=
  { State.reset with
    module := { Module.reset with phase := .running, otlen := 2 }
    dies := { Die.reset with cycle := 10, sysBlock := 255 } :: List.replicate 15 .reset
    regions := [r], tasks := [task0], agenda := [], focus := ⟨0, 0, c, 0, 0, 0⟩ }

/-- An operation word from its fields (R97). -/
def opWord (opc ty rdst rm mod : Nat) : BitVec 40 :=
  BitVec.ofNat 40 (opc * 2 ^ 31 + ty * 2 ^ 26 + rdst * 2 ^ 20 + rm * 2 ^ 17 + mod)

/-- A destination: two slots at port p of cell c, order 0. -/
def toCell (c p : Nat) : BitVec 32 := BitVec.ofNat 32 (2 ^ 30 + c * 2 ^ 16 + p * 2 ^ 14 + 2 ^ 10)

/-- A cell with its operation word, links with the given heads at its first ports and one destination, cell 1. -/
def cellOf (op : BitVec 40) (qs : List (List Token)) : Cell :=
  { cfg := { CellCfg.reset with op := op, ins := (qs.map fun _ => 1) ++ List.replicate (4 - qs.length) 0, outs := [toCell 1 0, 0, 0, 0] }
    rt := { CellRt.reset with ports := (qs.map fun q => { Port.empty with q := q }) ++ List.replicate (4 - qs.length) .empty } }

/-- A cell with a change to its run-time state. -/
def withRt (x : Cell) (f : CellRt → CellRt) : Cell := { x with rt := f x.rt }
/-- A cell with a change to its fields. -/
def withCfg (x : Cell) (f : CellCfg → CellCfg) : Cell := { x with cfg := f x.cfg }

/-- A VAL. -/
def v (n : Nat) : Token := .plain .val (BitVec.ofNat 64 n)

/-- The state with one cell in focus. -/
def one (x : Cell) : State := stateOf (region0 [(0, x)]) 0

/-- The context of the focused cell of a state whose region in focus is r. -/
def ctx (s : State) (r : Region) : Cx :=
  ⟨s, r, s.focus.cell, r.cell s.focus.cell, s.now s.focus.die, (r.cell s.focus.cell).cfg.mods⟩

/-- The context of the one cell. -/
def cx1 (x : Cell) : Cx := ctx (one x) (region0 [(0, x)])

/-- What CellTurns asks beside the places. -/
def turnsB (cx : Cx) : Bool :=
  cx.c < cx.r.cellCount && cx.r.live && cx.x.rt.results.all (!·.ready) && !cx.x.rt.stopped && cx.x.rt.fired != cx.t + 1 && paced cx.r cx.c &&
  cx.x.rt.owed.isEmpty && !cx.x.rt.lost
/-- What CellReady asks beside the places. -/
def readyB (cx : Cx) : Bool := turnsB cx && cx.wrongKind == none && decide (cx.x.rt.busy ≤ cx.t)

theorem turns_of {s : State} {r : Region} (h : s.region s.focus.die s.focus.rblk = some r) (hb : turnsB (ctx s r) = true) :
    CellTurns s (ctx s r) := by
  simp only [turnsB, Bool.and_eq_true, decide_eq_true_eq, List.isEmpty_iff, Bool.not_eq_true', bne_iff_ne] at hb
  obtain ⟨⟨⟨⟨⟨⟨⟨h1, h2⟩, h3⟩, h4⟩, h5⟩, h6⟩, h7⟩, h8⟩ := hb
  exact ⟨⟨rfl, h, rfl, h1, h2, rfl, rfl, sendResult_unready h3, h4, h8⟩, h5, h6, h7⟩

theorem ready_of {s : State} {r : Region} (h : s.region s.focus.die s.focus.rblk = some r) (hb : readyB (ctx s r) = true) :
    CellReady s (ctx s r) := by
  simp only [readyB, Bool.and_eq_true, decide_eq_true_eq, beq_iff_eq] at hb
  exact ⟨⟨turns_of h hb.1.1, hb.1.2⟩, hb.2⟩

/-- Nothing of a state is under way with other modules. -/
theorem alone_of {s : State} (h : (s.asks.isEmpty && s.words.isEmpty && s.wants.isEmpty && s.puts.isEmpty) = true) : s.Alone := by
  simp only [Bool.and_eq_true, List.isEmpty_iff] at h
  obtain ⟨⟨⟨h1, h2⟩, h3⟩, h4⟩ := h
  exact ⟨by simp [State.asking, h1], by simp [h2], h3, h4⟩

theorem at_one (r : Region) (c : Nat) (hd : r.die = 0) (hb : r.rblk = 0) : (stateOf r c).region 0 0 = some r := by
  simp [stateOf, State.region, hd, hb]

/-- The one cell has a turn. -/
theorem turns1 {x : Cell} (h : turnsB (cx1 x) = true) : CellTurns (one x) (cx1 x) := turns_of (at_one _ _ rfl rfl) h

/-- The one cell may fire. -/
theorem ready1 {x : Cell} (h : readyB (cx1 x) = true) : CellReady (one x) (cx1 x) := ready_of (at_one _ _ rfl rfl) h

/-- Every link of ps has a VAL that is not void at its head, and the port takes it. -/
def headsB (cx : Cx) (ps : List Nat) : Bool :=
  ps.all fun p => cx.bound p && (!cx.isLink p || (match cx.head p with | some k => k.kind == .val && !k.void | none => false) &&
    !cx.refuses p markKinds (fun _ => true))

theorem heads_of {cx : Cx} {ps : List Nat} (h : headsB cx ps = true) : (∀ p ∈ ps, cx.bound p = true) ∧
    (∀ p ∈ ps, cx.isLink p = true → ∃ k, cx.head p = some k ∧ k.kind = .val ∧ k.void = false) ∧
    ∀ p ∈ ps, cx.isLink p = true → cx.refuses p markKinds (fun _ => true) = false := by
  simp only [headsB, List.all_eq_true, Bool.and_eq_true, Bool.or_eq_true, Bool.not_eq_true'] at h
  refine ⟨fun p hp => (h p hp).1, fun p hp hl => ?_, fun p hp hl => ?_⟩ <;> rcases (h p hp).2 with h2 | ⟨h2, h3⟩
  · simp [hl] at h2
  · cases hk : cx.head p with
    | none => simp [hk] at h2
    | some k => exact ⟨k, rfl, by simpa [hk] using h2⟩
  · simp [hl] at h2
  · exact h3

theorem elem_of {cx : Cx} {ps : List Nat} {os : List Operand} (h : headsB cx ps = true) (h1 : cx.operands ps = some os)
    (h2 : ps.filter cx.isLink ≠ []) (h3 : cx.m.rdstNat = 0 ∨ cx.pendingReg cx.m.rdstNat = false) : ElemReady cx ps os :=
  ⟨(heads_of h).1, h1, h2, (heads_of h).2.1, (heads_of h).2.2, h3⟩

theorem mem_of {cx : Cx} {ps : List Nat} {os : List Operand} (h : headsB cx ps = true) (h1 : cx.operands ps = some os)
    (h2 : ps.filter cx.isLink ≠ []) (h3 : cx.bound 3 = false ∨ cx.x.rt.after = true) :
    MemReady cx ps os := ⟨(heads_of h).1, h1, h2, (heads_of h).2.1, (heads_of h).2.2, h3⟩

/-- Operands of a cell that come by link. -/
def ops (xs : List (Nat × Nat)) : List Operand := xs.map fun x => ⟨BitVec.ofNat 64 x.2, x.1, true⟩

/-- The one cell stands ready, and p holds. -/
def Stands (x : Cell) (p : Cx → Bool) : Prop := CellReady (one x) (cx1 x) ∧ p (cx1 x) = true

theorem stands {x : Cell} {p : Cx → Bool} (h : (readyB (cx1 x) && p (cx1 x)) = true) : Stands x p := by
  rw [Bool.and_eq_true] at h; exact ⟨ready1 h.1, h.2⟩

/-- The one cell stands ready with its element-wise operands, and p holds. -/
def Meets (x : Cell) (ps : List Nat) (os : List Operand) (p : Cx → Bool) : Prop :=
  CellReady (one x) (cx1 x) ∧ ElemReady (cx1 x) ps os ∧ p (cx1 x) = true

theorem meets {x : Cell} {ps : List Nat} {os : List Operand} {p : Cx → Bool} (h : (readyB (cx1 x) && headsB (cx1 x) ps &&
    ((cx1 x).operands ps == some os) && !(ps.filter (cx1 x).isLink).isEmpty &&
    ((cx1 x).m.rdstNat == 0 || !(cx1 x).pendingReg (cx1 x).m.rdstNat) && p (cx1 x)) = true) : Meets x ps os p := by
  simp only [Bool.and_eq_true, beq_iff_eq, Bool.not_eq_true', List.isEmpty_eq_false_iff, Bool.or_eq_true] at h
  obtain ⟨⟨⟨⟨⟨h1, h2⟩, h3⟩, h4⟩, h5⟩, h6⟩ := h
  exact ⟨ready1 h1, elem_of h2 h3 h4 h5, h6⟩

/-- The one cell stands ready with the operands of a memory form, and p holds. -/
def MeetsMem (x : Cell) (ps : List Nat) (os : List Operand) (p : Cx → Bool) : Prop :=
  CellReady (one x) (cx1 x) ∧ MemReady (cx1 x) ps os ∧ p (cx1 x) = true

theorem meetsMem {x : Cell} {ps : List Nat} {os : List Operand} {p : Cx → Bool} (h : (readyB (cx1 x) && headsB (cx1 x) ps &&
    ((cx1 x).operands ps == some os) && !(ps.filter (cx1 x).isLink).isEmpty &&
    (!(cx1 x).bound 3 || (cx1 x).x.rt.after) && p (cx1 x)) = true) : MeetsMem x ps os p := by
  simp only [Bool.and_eq_true, beq_iff_eq, Bool.not_eq_true', List.isEmpty_eq_false_iff, Bool.or_eq_true] at h
  obtain ⟨⟨⟨⟨⟨h1, h2⟩, h3⟩, h4⟩, h5⟩, h6⟩ := h
  exact ⟨ready1 h1, mem_of h2 h3 h4 h5, h6⟩

/-- Port p offers k, as Cx.offers has it. -/
def offersB (cx : Cx) (p : Nat) (k : Token) (kinds : List Kind) (ok : W64 → Bool) : Bool :=
  cx.head p == some k && !cx.refuses p kinds ok

/-- A marker. -/
def mk (k : Kind) (n : Nat) : Token := .plain k (BitVec.ofNat 64 n)

/-- An outcome is a next state. -/
def isNext (o : Out) : Bool := match o with | .next _ => true | _ => false

theorem next_of {o : Out} (h : isNext o = true) : ∃ t, o = .next t := by
  cases o <;> first | exact ⟨_, rfl⟩ | simp [isNext] at h

/-- A capability for bytes 64 to 127 of object 1 at cursor 64, with some rights. -/
def cap64 (rights : Nat) : Cap := ((⟨1#32 ++ BitVec.ofNat 8 rights ++ 64#44 ++ 0#6 ++ 64#18 ++ 128#18 ++ 0#2, true⟩ : Cap))

/-- What Cap.lets says. -/
def letsB (k : Cap) (need : Nat) (b : Int) (z align : Nat) : Bool :=
  k.tag && k.rights &&& need == need && decide ((k.base : Int) ≤ b) && decide (b + z ≤ k.top) && b % (align : Int) == 0

/-- A capability of object 1 for the bytes from base up to top, with every right. -/
def capOf (base top : Nat) : Cap := ⟨1#32 ++ 0xFF#8 ++ BitVec.ofNat 44 base ++ 0#6 ++ BitVec.ofNat 18 base ++ BitVec.ofNat 18 top ++ 0#2, true⟩

/-! Witnesses: cells that compute. -/

theorem witness_integer_forms : Meets (cellOf (opWord 0x001 1 0 0 0) [[v 100], [v 100]]) [0, 1] (ops [(0, 100), (1, 100)]) (fun _ => true) ∧
    Meets (cellOf (opWord 0x00A 1 0x20 0 0) [[v 100]]) [0] (ops [(0, 100)]) (fun _ => true) ∧
    Meets (cellOf (opWord 0x012 1 1 0 0) [[v 0], [v 1], [v 2]]) [0, 1, 2] (ops [(0, 0), (1, 1), (2, 2)]) (fun _ => true) := by
  refine ⟨?_, ?_, ?_⟩ <;> exact meets (by decide +kernel)

theorem witness_dividers :
    Meets (withRt (cellOf (opWord 0x005 8 0 0 0) [[v 7], [v 0]]) fun y => { y with busy := 10 }) [0, 1] (ops [(0, 7), (1, 0)])
      (fun _ => true) ∧
    let x := withRt (cellOf (opWord 0x005 8 0 0 0) [[v 7], [v 3]]) fun y => { y with busy := 11 }
    CellAwake (one x) (cx1 x) ∧ (cx1 x).t < (cx1 x).x.rt.busy := by
  exact ⟨meets (by decide +kernel), ⟨turns1 (by decide +kernel), by decide +kernel⟩, by decide +kernel⟩

theorem witness_carry_forms : Meets (cellOf (opWord 0x015 8 0 0 0) [[v 1], [v 2], [v 1]]) [0, 1, 2] (ops [(0, 1), (1, 2), (2, 1)])
    (fun _ => true) := meets (by decide +kernel)

theorem witness_affine : Meets (cellOf (opWord 0x025 8 0 0 0) [[v 5], [v 6]]) ((List.range 4).filter
    (cx1 (cellOf (opWord 0x025 8 0 0 0) [[v 5], [v 6]])).bound) (ops [(0, 5), (1, 6)]) (fun _ => true) := meets (by decide +kernel)

/-- A capability form on k0 with an operand. -/
def capCell (op mod a : Nat) (k : Cap) : Cell :=
  withRt (cellOf (opWord op 8 0x11 0 mod) [[v a]]) fun y => { y with k := [k, .none, .none, .none] }

theorem witness_capability_forms :
    Meets (capCell 0x020 0 8 (cap64 0xFF)) [0] (ops [(0, 8)]) (fun cx =>
      let k := cx.kreg (cx.m.modF 0 2) [0]
      !cx.kPending (cx.m.modF 0 2) && !cx.kPending (cx.m.rdstNat - 0x10) && k.tag && k.wf && k.rights.testBit 5) ∧
    Meets (capCell 0x022 4 64 (cap64 0xFF)) [0] (ops [(0, 64)]) (fun cx =>
      let k := cx.kreg (cx.m.modF 0 2) [0]
      k.tag && k.wf && k.rights.testBit 5 && match smallestBounds k.cursor (k.cursor + 64) with
        | some (e, bb, bt) => k.base ≤ bb * 2 ^ e && bt * 2 ^ e ≤ k.top && cx.m.modF 2 1 == 1 && bb * 2 ^ e == k.cursor &&
            bt * 2 ^ e == k.cursor + 64
        | none => false) := by
  refine ⟨?_, ?_⟩ <;> exact meets (by decide +kernel)

theorem witness_capability_faults :
    Meets (capCell 0x022 0 1 { cap64 0xFF with tag := false }) [0] (ops [(0, 1)]) (fun cx => !(cx.kreg 0 [0]).tag && !cx.x.cfg.scout) ∧
    Meets (withCfg (capCell 0x022 0 1 { cap64 0xFF with tag := false }) fun c => { c with mode := 1 }) [0] (ops [(0, 1)])
      (fun cx => !(cx.kreg 0 [0]).tag && cx.x.cfg.scout) ∧
    Meets (capCell 0x022 0 1 (cap64 0xDF)) [0] (ops [(0, 1)]) (fun cx =>
      (cx.kreg 0 [0]).tag && !(cx.kreg 0 [0]).rights.testBit 5) ∧
    Meets (capCell 0x022 0 65 (cap64 0xFF)) [0] (ops [(0, 65)]) (fun cx => let k := cx.kreg 0 [0]
      k.tag && k.rights.testBit 5 && match smallestBounds k.cursor (k.cursor + 65) with
        | some (e, _, bt) => k.top < bt * 2 ^ e
        | none => false) := by
  refine ⟨?_, ?_, ?_, ?_⟩ <;> exact meets (by decide +kernel)

theorem witness_captag : ∀ sel ∈ List.range 6, Meets (withCfg (capCell 0x024 (4 * sel) 0 (cap64 3)) fun c =>
    { c with op := opWord 0x024 8 0 0 (4 * sel) }) [0] (ops [(0, 0)]) (fun cx => cx.m.modF 2 3 == sel && !cx.kPending (cx.m.modF 0 2)) := by
  intro sel h
  simp only [List.mem_range] at h
  interval_cases sel <;> exact meets (by decide +kernel)

theorem witness_float_forms : Meets (cellOf (opWord 0x049 9 0 0 0) [[v 0x3F800000]]) [0] (ops [(0, 0x3F800000)]) (fun _ => true) ∧
    Meets (cellOf (opWord 0x040 9 0 0 0) [[v 0x3F800000], [v 0x7FC00000]]) [0, 1] (ops [(0, 0x3F800000), (1, 0x7FC00000)]) (fun _ => true) ∧
    Meets (cellOf (opWord 0x043 9 0 0 0) [[v 0], [v 0], [v 0x80000000]]) [0, 1, 2] (ops [(0, 0), (1, 0), (2, 0x80000000)])
      (fun _ => true) := by
  refine ⟨?_, ?_, ?_⟩ <;> exact meets (by decide +kernel)

theorem witness_fcmp :
    Meets (cellOf (opWord 0x046 9 0 0 6) [[v 0x7FC00000], [v 0]]) [0, 1] (ops [(0, 0x7FC00000), (1, 0)]) (fun cx =>
      (cx.fArg cx.m.tyNat ⟨0x7FC00000, 0, true⟩).isNaN) ∧
    Meets (cellOf (opWord 0x046 9 0 0 5) [[v 0x80000000], [v 0]]) [0, 1] (ops [(0, 0x80000000), (1, 0)]) (fun cx =>
      !(cx.fArg cx.m.tyNat ⟨0x80000000, 0, true⟩).isNaN && !(cx.fArg cx.m.tyNat ⟨0, 1, true⟩).isNaN) := by
  refine ⟨?_, ?_⟩ <;> exact meets (by decide +kernel)

theorem witness_sign_forms :
    Meets (cellOf (opWord 0x047 9 0 0 0) [[v 0xFFC00000]]) [0] (ops [(0, 0xFFC00000)]) (fun cx =>
      (ownPattern cx cx.m.tyNat ⟨0xFFC00000, 0, true⟩).isSome) ∧
    Meets (withRt (cellOf (opWord 0x047 9 0 0 0) [[v 0x3F80]]) fun y =>
        { y with ports := y.ports.set 0 { Port.empty with q := [v 0x3F80], hdr := some 11 } }) [0] (ops [(0, 0x3F80)]) (fun cx =>
      (ownPattern cx cx.m.tyNat ⟨0x3F80, 0, true⟩).isNone) := by
  refine ⟨?_, ?_⟩ <;> exact meets (by decide +kernel)

/-! Witnesses: conversions and streams. -/

/-- A cell whose port 0 decodes under a header. -/
def hdrCell (op : BitVec 40) (h : Nat) (q : List Token) : Cell :=
  withRt (cellOf op [q]) fun y => { y with ports := y.ports.set 0 { Port.empty with q := q, hdr := some (BitVec.ofNat 64 h) } }

theorem witness_cvt_and_dqnt :
    Meets (cellOf (opWord 0x060 1 0 0 (8 + 32)) [[v 300]]) [0] (ops [(0, 300)]) (fun cx => cx.m.tyNat < 10 && cx.m.rmNat < 4) ∧
    Meets (hdrCell (opWord 0x062 9 0 0 0) (12 + 32) [v 0x7F38]) [0] (ops [(0, 0x7F38)]) (fun cx => (cx.x.rt.port 0).hdr == some 44) ∧
    Meets (cellOf (opWord 0x062 9 0 0 0) [[v 0x38]]) [0] (ops [(0, 0x38)]) (fun cx => (cx.x.rt.port 0).hdr.isNone) := by
  refine ⟨?_, ?_, ?_⟩ <;> exact meets (by decide +kernel)

/-- What the quantising forms ask of the head of port 0. -/
def quantB (cx : Cx) (k : Token) : Bool :=
  cx.bound 0 && cx.m.rdstNat == 0 && cx.m.modF 14 1 == 0 && cx.m.modF 15 1 == 0 && offersB cx 0 k markKinds (fun _ => true) &&
  k.kind == .val && !k.void && (sourceValue cx (cx.fmtOf 0 (cx.m.modF 0 5)) k).isSome

theorem witness_quantising_forms :
    Stands (cellOf (opWord 0x060 11 0 4 9) [[v 0x3F800001]]) (fun cx => quantB cx (v 0x3F800001) && cx.m.rmNat == 4 && 10 ≤ cx.m.tyNat) ∧
    Stands (cellOf (opWord 0x061 12 0 0 9) [[v 0x3F800001]]) (fun cx => quantB cx (v 0x3F800001) && cx.m.rmNat != 5 && cx.m.modF 5 1 == 0) ∧
    Stands (cellOf (opWord 0x061 12 0 5 (9 + 256)) [[v 0x3F800001]]) (fun cx => quantB cx (v 0x3F800001) && cx.m.rmNat == 5 &&
      (axisAt ((cx.orderIn 0).getD OMap.unit) (cx.m.modF 6 2) (posIndex ((cx.orderIn 0).getD OMap.unit) cx.x.rt)).isSome) := by
  refine ⟨?_, ?_, ?_⟩ <;> exact stands (by decide +kernel)

theorem witness_block_quantiser :
    Stands (cellOf (opWord 0x061 12 0 0 (9 + 32)) [[v 0x3F800001]]) (fun cx => cx.bound 0 && cx.m.modF 5 1 == 1 && cx.x.rt.qbuf.isEmpty &&
      offersB cx 0 (v 0x3F800001) markKinds hdrQnt && cx.fmtOf 0 (cx.m.modF 0 5) != handHdr &&
      (sourceValue cx (cx.fmtOf 0 (cx.m.modF 0 5)) (v 0x3F800001)).isSome) ∧
    Stands (withRt (cellOf (opWord 0x061 12 0 0 (9 + 32)) [[]]) fun y => { y with qbuf := [⟨v 0x3F800000, 9, some 127, 10⟩] }) (fun cx =>
      cx.bound 0 && cx.m.modF 5 1 == 1 && cx.head 0 == none && cx.m.rmNat < 4 && cx.m.modF 14 1 == 0 && cx.m.modF 15 1 == 0 &&
      cx.room cx.x.cfg.dataOuts && match cx.x.rt.qbuf with
        | q :: _ => q.tok.kind == .val && !q.tok.void && q.e == some 127 && q.due ≤ cx.t && match sourceValue cx (bufHdr q.fmt) q.tok with
          | some x => !x.isNaN
          | none => false
        | [] => false) := by
  refine ⟨?_, ?_⟩ <;> exact stands (by decide +kernel)

theorem witness_codebook_loads : (∀ k ∈ [v 3, .voidVal, mk .eor 0, mk .hdr 11, mk .eot 0],
      Stands (withRt (cellOf (opWord 0x063 11 0 0 2) [[k]]) fun y => { y with phase := 15 }) fun cx =>
        offersB cx 0 k [.val, .eor, .eot, .hdr] (hdrOnly 11)) ∧
    ∀ k ∈ [mk .hdr 11, v 3, mk .eot 0, mk .eor 0], ∀ b ∈ [true, false],
      Stands (withRt (cellOf (opWord 0x064 0 0 0 0) [[k]]) fun y => { y with begun := b }) fun cx => offersB cx 0 k markKinds hdrMove := by
  constructor
  · simp only [List.forall_mem_cons, List.not_mem_nil, false_imp_iff, implies_true, and_true]
    refine ⟨?_, ?_, ?_, ?_, ?_⟩ <;> exact stands (by decide +kernel)
  · simp only [List.forall_mem_cons, List.not_mem_nil, false_imp_iff, implies_true, and_true]
    refine ⟨⟨?_, ?_⟩, ⟨?_, ?_⟩, ⟨?_, ?_⟩, ?_, ?_⟩ <;> exact stands (by decide +kernel)

theorem witness_steering :
    Stands (cellOf (opWord 0x100 0 0 0 0) [[v 7], [mk .ctl 4]]) (fun cx => offersB cx 0 (v 7) markKinds hdrMove && !refusesCtl cx 1 &&
      cx.head 1 == some (mk .ctl 4) && cx.x.cfg.dataOuts.contains 0) ∧
    Stands (cellOf (opWord 0x100 0 0 0 0) [[v 7], [mk .ctl 3]]) (fun cx => offersB cx 0 (v 7) markKinds hdrMove && !refusesCtl cx 1 &&
      cx.head 1 == some (mk .ctl 3) && !cx.x.cfg.dataOuts.contains 3) ∧
    (∀ m ∈ [0, 1, 3], ∀ c ∈ [0, 1], Stands (cellOf (opWord 0x103 0 0 0 m) [[v 7], [mk .ctl c]]) fun cx =>
      offersB cx 0 (v 7) markKinds hdrMove && !refusesCtl cx 1 && cx.head 1 == some (mk .ctl c) && cx.m.modF 0 2 == m) ∧
    Stands (cellOf (opWord 0x103 0 0 0 1) [[mk .eor 0], []]) (fun cx => offersB cx 0 (mk .eor 0) markKinds hdrMove && !refusesCtl cx 1) ∧
    Stands (cellOf (opWord 0x10B 0 0 0 0) [[mk .rsd 5]]) fun cx => offersB cx 0 (mk .rsd 5) [.val, .eor, .eot, .hdr, .ctl, .swp, .rsd]
      (fun h => hdrMove h || h == handHdr) := by
  simp only [List.forall_mem_cons, List.not_mem_nil, false_imp_iff, implies_true, and_true]
  refine ⟨?_, ?_, ⟨⟨?_, ?_⟩, ⟨?_, ?_⟩, ?_, ?_⟩, ?_, ?_⟩ <;> exact stands (by decide +kernel)

/-- A data port refuses nothing that it heads. -/
def clearB (cx : Cx) (ps : List Nat) : Bool := ps.all fun p => !refusesData cx p

theorem witness_merges :
    Stands (cellOf (opWord 0x101 0 0 0 0) [[mk .ctl 1], [v 7], [v 8]]) (fun cx => clearB cx (dataIns cx 1) && !refusesCtl cx 0 &&
      dataIns cx 1 == [1, 2] && oneMarker cx [1, 2] == none && cx.head 0 == some (mk .ctl 1) && cx.head 1 == some (v 7) &&
      cx.x.rt.outCnt < runBound cx.orderOut0) ∧
    (∀ k ∈ [mk .hdr 9, mk .eot 0], Stands (cellOf (opWord 0x101 0 0 0 0) [[], [k], [k]]) fun cx =>
      clearB cx (dataIns cx 1) && !refusesCtl cx 0 && dataIns cx 1 == [1, 2] && oneMarker cx [1, 2] == some k) ∧
    (∀ n ∈ [3, 4], Stands (withRt (cellOf (opWord 0x101 0 0 0 0) [[], [mk .eor 0], [mk .eor 0]]) fun y => { y with outCnt := n }) fun cx =>
      clearB cx (dataIns cx 1) && oneMarker cx (dataIns cx 1) == some (mk .eor 0) && match cx.orderOut0 with
        | some o => !o.ragged && o.runLen == 4
        | none => false) ∧
    Stands (cellOf (opWord 0x102 0 0 0 0) [[mk .eor 0], [mk .eor 0]]) (fun cx => clearB cx (dataIns cx 0) &&
      oneMarker cx (dataIns cx 0) == some (mk .eor 0)) ∧
    Stands (cellOf (opWord 0x102 0 0 0 0) [[mk .eor 0], [v 3]]) fun cx => clearB cx (dataIns cx 0) &&
      (dataIns cx 0).contains 1 && oneMarker cx (dataIns cx 0) == none && cx.head 1 == some (v 3) := by
  simp only [List.forall_mem_cons, List.not_mem_nil, false_imp_iff, implies_true, and_true]
  refine ⟨?_, ⟨?_, ?_⟩, ⟨?_, ?_⟩, ?_, ?_⟩ <;> exact stands (by decide +kernel)

/-- A remarking cell at a position of its run, in the order of four or the ragged one. -/
def remarkCell (op mod pos : Nat) (rag : Bool) (k : Token) : Cell :=
  withCfg (withRt (cellOf (opWord op 0 0 0 mod) [[k]]) fun y => { y with runPos := pos })
    fun c => if rag then { c with ins := c.ins.set 0 2 } else c

theorem witness_remarking :
    (∀ f ∈ [(Instr.drop, 0x105), (.take, 0x106), (.mark, 0x109), (.strip, 0x10A), (.voidOp, 0x10E)],
      Stands (remarkCell f.2 2 3 false (v 7)) fun cx => (Claims.sends cx.m (f.1 cx.m) cx.x.rt.runPos (v 7)).isSome &&
        offersB cx 0 (v 7) markKinds hdrMove && cx.x.rt.runPos < (inOrder cx).runLen && cx.x.rt.runIdx < (inOrder cx).runs) ∧
    (∀ k ∈ [v 7, mk .eor 0], Stands (remarkCell 0x105 2 4 false k) fun cx => offersB cx 0 k markKinds hdrMove &&
      (inOrder cx).runLen ≤ cx.x.rt.runPos && cx.x.rt.runIdx < (inOrder cx).runs) ∧
    (∀ k ∈ [v 7, mk .eor 0], Stands (withRt (remarkCell 0x105 2 0 false k) fun y => { y with runIdx := 1 }) fun cx =>
      offersB cx 0 k markKinds hdrMove && (inOrder cx).runs ≤ cx.x.rt.runIdx) ∧
    Stands (remarkCell 0x105 2 3 false (mk .eor 0)) (fun cx => offersB cx 0 (mk .eor 0) markKinds hdrMove &&
      cx.x.rt.runPos < (inOrder cx).runLen && !(inOrder cx).ragged) ∧
    Stands (remarkCell 0x10E 0 3 true (mk .eor 0)) (fun cx => offersB cx 0 (mk .eor 0) markKinds hdrMove &&
      cx.x.rt.runPos < (inOrder cx).runLen && (inOrder cx).ragged && cx.x.rt.runIdx < (inOrder cx).runs) ∧
    ∀ k ∈ [mk .hdr 9, mk .ctl 1, mk .swp 0, mk .eot 0], Stands (remarkCell 0x10A 0 0 false k) fun cx => offersB cx 0 k markKinds hdrMove := by
  simp only [List.forall_mem_cons, List.not_mem_nil, false_imp_iff, implies_true, and_true]
  refine ⟨⟨?_, ?_, ?_, ?_, ?_⟩, ⟨?_, ?_⟩, ⟨?_, ?_⟩, ?_, ?_, ?_, ?_, ?_, ?_⟩ <;> exact stands (by decide +kernel)

theorem witness_repeat_zip_split :
    (∀ n ∈ [2, 3], Stands (withRt (remarkCell 0x104 0 3 false (v 7)) fun y => { y with phase := n }) fun cx =>
      cx.x.rt.runPos < (inOrder cx).runLen && cx.x.rt.runIdx < (inOrder cx).runs && offersB cx 0 (v 7) markKinds hdrMove && (outOrder cx).runLen == 4) ∧
    (∀ n ∈ [0, 1], Stands (withRt (cellOf (opWord 0x107 0 0 0 0) [[v 7], [v 8]]) fun y => { y with phase := n }) fun cx =>
      cx.x.rt.runPos < (inOrder cx).runLen && cx.x.rt.runIdx < (inOrder cx).runs && dataIns cx 0 == [0, 1] && clearB cx [0, 1] &&
      [0, 1].all (fun p => !zipWrong cx (inOrder cx) p (if p < n then 1 else 0)) && n < 2 &&
      cx.heads ([0, 1].drop n) == some (([v 7, v 8]).drop n)) := by
  simp only [List.forall_mem_cons, List.not_mem_nil, false_imp_iff, implies_true, and_true]
  refine ⟨⟨?_, ?_⟩, ?_, ?_⟩ <;> exact stands (by decide +kernel)

theorem witness_reductions :
    (∀ k ∈ [v 7, .voidVal, mk .eor 0, mk .eot 0], Stands (cellOf (opWord 0x10C 3 1 0 0) [[k]]) fun cx =>
      !cx.pendingReg cx.m.rdstNat && offersB cx 0 k markKinds (hdrRed cx.m) && cx.m.modF 4 1 == 0 && cx.x.rt.runPos == 0) ∧
    Stands (cellOf (opWord 0x10C 3 1 0 16) [[v 7], [v 8]]) (fun cx => !cx.pendingReg cx.m.rdstNat && cx.m.modF 4 1 == 1 && cx.bound 1 &&
      offersB cx 0 (v 7) markKinds (hdrRed cx.m) && offersB cx 1 (v 8) markKinds (hdrRed cx.m)) := by
  simp only [List.forall_mem_cons, List.not_mem_nil, false_imp_iff, implies_true, and_true]
  refine ⟨⟨?_, ?_, ?_, ?_⟩, ?_⟩ <;> exact stands (by decide +kernel)

/-! Witnesses: memory forms. -/

/-- A memory form on k0 = k with heads of its first ports. -/
def memCell (op rdst mod : Nat) (k : Cap) (qs : List (List Token)) : Cell :=
  withRt (cellOf (opWord op 8 rdst 0 mod) qs) fun y => { y with k := [k, k, .none, .none] }

/-- Capability for bytes 64 to 127 at another cursor. -/
def capAt (rights cursor : Nat) : Cap := ⟨1#32 ++ BitVec.ofNat 8 rights ++ BitVec.ofNat 44 cursor ++ 0#6 ++ 64#18 ++ 128#18 ++ 0#2, true⟩

theorem witness_requests :
    MeetsMem (memCell 0x189 0x20 7 (cap64 0x87) [[v 7], [v 1], [v 2]]) [0, 1, 2] (ops [(0, 7), (1, 1), (2, 2)]) (fun cx =>
      cx.m.modF 0 4 == 7 && tileRoom cx 1 && !cx.kPending (cx.m.modF 4 2) && !cx.pendingReg cx.m.rdstNat &&
      letsB (cx.kreg (cx.m.modF 4 2) [0, 1, 2]) rAtomic (Claims.byteAt (cx.kreg (cx.m.modF 4 2) [0, 1, 2]) 7 8) 8 8) ∧
    MeetsMem (memCell 0x18A 0 0 (cap64 0x87) [[v 0]]) [0] (ops [(0, 0)]) (fun cx => cx.m.rdstNat == 0 && !cx.kPending (cx.m.modF 0 2) &&
      letsB (cx.kreg (cx.m.modF 0 2) [0]) rRead (Claims.byteAt (cx.kreg (cx.m.modF 0 2) [0]) 0 8) 8 8) ∧
    MeetsMem (memCell 0x1A1 0 0 (cap64 0xFF) [[v 0], [v 112]]) [0, 1] (ops [(0, 0), (1, 112)]) (fun cx =>
      !cx.kPending (cx.m.modF 0 2) && futOffsetOk (cx.kreg (cx.m.modF 0 2) [0, 1]) 112 &&
      letsB (cx.kreg (cx.m.modF 0 2) [0, 1]) rFuture (Claims.byteAt (cx.kreg (cx.m.modF 0 2) [0, 1]) 0 8) 8 8) ∧
    MeetsMem (memCell 0x183 0 0 (capAt 0x87 65) [[v 0], [v 112]]) [0, 1] (ops [(0, 0), (1, 112)]) (fun cx =>
      cx.m.modF 2 1 == 0 && letsB (cx.kreg (cx.m.modF 0 2) [0, 1]) rWrite (Claims.byteAt (cx.kreg (cx.m.modF 0 2) [0, 1]) 0 8) 8 1) := by
  refine ⟨?_, ?_, ?_, ?_⟩ <;> exact meetsMem (by decide +kernel)

/-- The first bytes of an STG, and what its capability lacks. -/
def stgB (cx : Cx) (i : W64) : Cap × Int := (cx.kreg (cx.m.modF 0 2) [0, 1], Claims.byteAt (cx.kreg (cx.m.modF 0 2) [0, 1]) i 8)

theorem witness_request_faults :
    MeetsMem (memCell 0x183 0 0 { cap64 0x87 with tag := false } [[v 0], [v 1]]) [0, 1] (ops [(0, 0), (1, 1)]) (fun cx =>
      !(stgB cx 0).1.tag && !cx.x.cfg.scout && !cx.kPending (cx.m.modF 0 2)) ∧
    MeetsMem (withCfg (memCell 0x183 0 0 { cap64 0x87 with tag := false } [[v 0], [v 1]]) fun c => { c with mode := 1 }) [0, 1]
      (ops [(0, 0), (1, 1)]) (fun cx => !(stgB cx 0).1.tag && cx.x.cfg.scout) ∧
    MeetsMem (memCell 0x183 0 0 (cap64 1) [[v 0], [v 1]]) [0, 1] (ops [(0, 0), (1, 1)]) (fun cx =>
      (stgB cx 0).1.tag && (stgB cx 0).1.rights &&& rWrite != rWrite) ∧
    MeetsMem (memCell 0x183 0 0 (capAt 0x87 63) [[v 0], [v 1]]) [0, 1] (ops [(0, 0), (1, 1)]) (fun cx =>
      (stgB cx 0).1.tag && (stgB cx 0).1.rights &&& rWrite == rWrite && decide ((stgB cx 0).2 < (stgB cx 0).1.base)) ∧
    MeetsMem (memCell 0x183 0 0 (capAt 0x87 121) [[v 0], [v 1]]) [0, 1] (ops [(0, 0), (1, 1)]) (fun cx =>
      (stgB cx 0).1.tag && (stgB cx 0).1.rights &&& rWrite == rWrite && decide ((stgB cx 0).2 < (stgB cx 0).1.top) &&
      decide (((stgB cx 0).1.top : Int) < (stgB cx 0).2 + 8)) := by
  refine ⟨?_, ?_, ?_, ?_, ?_⟩ <;> exact meetsMem (by decide +kernel)

theorem witness_stream_memory_forms :
    Stands (withRt (memCell 0x180 0 0 (cap64 1) [[mk .ctl 3]]) fun y => { y with eotAt := 10 }) (fun cx => !cx.bound 3 &&
      cx.head 0 == some (mk .ctl 3) && !cx.refuses 0 [.ctl] (fun _ => true) && cx.x.rt.results.isEmpty && cx.x.rt.gen.isNone && cx.x.rt.eotAt ≤ cx.t) ∧
    Stands (withRt (memCell 0x181 0 0 (cap64 2) [[v 9]]) fun y => { y with runPos := 3 }) (fun cx => !cx.bound 3 && !cx.bound 1 &&
      offersB cx 0 (v 9) markKinds (hdrOnly cx.m.tyNat) && cx.x.rt.runPos < ((cx.orderIn 0).getD OMap.unit).runLen &&
      cx.x.rt.runIdx < ((cx.orderIn 0).getD OMap.unit).runs && tileRoom cx 1 && !cx.kPending (cx.m.modF 0 2) &&
      letsB (cx.kreg (cx.m.modF 0 2) [0]) rWrite ((cx.kreg (cx.m.modF 0 2) [0]).cursor +
        affineIndex cx ((cx.orderIn 0).getD OMap.unit) (cx.x.cfg.lin 0) 3 0 * 8) 8 1) ∧
    Stands (memCell 0x181 0 0 (cap64 2) [[v 9], [mk .ctl 1]]) (fun cx => cx.bound 1 && cx.x.rt.base.isNone && cx.head 1 == some (mk .ctl 1) &&
      offersB cx 0 (v 9) markKinds (hdrOnly cx.m.tyNat) && !cx.refuses 1 [.ctl] (fun _ => true)) := by
  refine ⟨?_, ?_, ?_⟩ <;> exact stands (by decide +kernel)

theorem witness_gathers_and_prefetches :
    MeetsMem (memCell 0x182 0 0 (cap64 1) [[v 1]]) [0] (ops [(0, 1)]) (fun cx => cx.x.rt.gen.isNone && cx.m.rdstNat == 0) ∧
    MeetsMem (memCell 0x183 0 (4 + 8) (cap64 0x92) [[v 3]]) [0] (ops [(0, 3)]) (fun cx => cx.m.modF 2 1 == 1 && tileRoom cx 1 &&
      !cx.kPending (cx.m.modF 0 2) && !cx.kPending (cx.m.modF 3 2) && (cx.kreg (cx.m.modF 3 2) [0]).rights &&& rShare != 0 &&
      letsB (cx.kreg (cx.m.modF 0 2) [0]) rWrite (Claims.byteAt (cx.kreg (cx.m.modF 0 2) [0]) 3 16) 16 16) ∧
    MeetsMem (memCell 0x188 0 0 (cap64 1) [[v 7]]) [0] (ops [(0, 7)]) (fun cx => tileRoom cx 1 && !cx.kPending (cx.m.modF 0 2) &&
      letsB (cx.kreg (cx.m.modF 0 2) [0]) rRead (Claims.byteAt (cx.kreg (cx.m.modF 0 2) [0]) 7 8) 8 1) := by
  refine ⟨?_, ?_, ?_⟩ <;> exact meetsMem (by decide +kernel)

/-- What the forms of local memory ask of address a. -/
def localB (cx : Cx) (a : Nat) (full : Bool) : Bool :=
  a % tyBytes cx.m.tyNat == 0 && a + tyBytes cx.m.tyNat ≤ (if cx.m.modF 0 1 = 1 then Config.scratchBytes else Config.localBytes) &&
  !heldByStore cx.r (Claims.localAt cx a).1 (Claims.localAt cx a).2 (tyBytes cx.m.tyNat) &&
  ((cx.r.cell (Claims.localAt cx a).1).rt.full.contains ((Claims.localAt cx a).2 / 8) == full)

theorem witness_local_memory :
    MeetsMem (memCell 0x186 0 0 .none [[v 49144]]) [0] (ops [(0, 49144)]) (fun cx => localB cx 49144 false && cx.m.rdstNat == 0) ∧
    MeetsMem (withRt (memCell 0x186 0 1 .none [[v 16]]) fun y => { y with full := [2] }) [0] (ops [(0, 16)])
      (fun cx => localB cx 16 true && cx.m.rdstNat == 0) ∧
    MeetsMem (withRt (memCell 0x187 0 1 .none [[v 16], [v 5]]) fun y => { y with full := [2] }) [0, 1] (ops [(0, 16), (1, 5)])
      (fun cx => localB cx 16 true) ∧
    MeetsMem (memCell 0x187 0 1 .none [[v 3047416], [v 5]]) [0, 1] (ops [(0, 3047416), (1, 5)]) (fun cx => localB cx 3047416 false) := by
  refine ⟨?_, ?_, ?_, ?_⟩ <;> exact meetsMem (by decide +kernel)

/-- A store of region 0 with the given number, colour 1, not yet accepted or accepted. -/
def store0 (id : Nat) (acc : Bool) : Req :=
  { (cx1 (memCell 0x183 0 0 (cap64 0x87) [])).request .store (cap64 0x87) 64 8
      ((cx1 (memCell 0x183 0 0 (cap64 0x87) [])).access 0 1 0 (cap64 0x87) 64 2 0) with id := id, colour := 1, accepted := acc }

/-- A FENCE of scope 1 and colour 1 with one store before it. -/
def fenceCell : Cell := memCell 0x18C 0 (1 * 4 + 2 * 32) .none [[v 1]]
/-- The state of that FENCE. -/
def fenceState (acc : Bool) : State := { one fenceCell with reqs := [store0 0 acc] }

theorem witness_fences :
    (∀ acc, CellReady (fenceState acc) (ctx (fenceState acc) (region0 [(0, fenceCell)]))) ∧
    (∀ acc, offersB (ctx (fenceState acc) (region0 [(0, fenceCell)])) 0 (v 1) markKinds hdrMove = true) ∧
    (ctx (fenceState true) (region0 [(0, fenceCell)])).room fenceCell.cfg.dataOuts = true ∧ (store0 0 true).form = 0 ∧ fenceCell.cfg.mods.modF 2 3 = 1 ∧
    ((store0 0 true).id < (fenceState true).module.nextReq ∧ (fenceCell.cfg.mods.modF 5 8).testBit (store0 0 true).colour = true ∧
      (store0 0 true).kind = .store ∧ (store0 0 true).accepted = true ∧ (store0 0 false).accepted = false) ∧
    Stands (memCell 0x18E 0 0 .none [[{ v 1 with hid := .mon 5 }]]) (fun cx => cx.x.rt.waiting.isNone &&
      offersB cx 0 { v 1 with hid := .mon 5 } markKinds hdrMove) ∧
    Stands (withRt (memCell 0x18E 0 0 .none []) fun y => { y with waiting := some 5 }) (fun cx => cx.x.rt.waiting == some 5) ∧
    ∀ b, ([⟨5, 1, 0, 0, 0, 2, b, none, none⟩] : List Monitor).find? (·.num == 5) = some ⟨5, 1, 0, 0, 0, 2, b, none, none⟩ := by
  refine ⟨fun acc => ready_of (at_one _ 0 rfl rfl) ?_, fun acc => ?_, by decide +kernel, by decide +kernel, by decide +kernel,
    by decide +kernel, ?_, ?_, fun b => by cases b <;> rfl⟩
  · cases acc <;> decide +kernel
  · cases acc <;> decide +kernel
  all_goals exact stands (by decide +kernel)

/-! Witnesses: requests, tiles, draws. -/

/-- A request of region 0's cell 0 for 8 bytes at 64, issued in cycle 9. -/
def req0 (kind : ReqKind) (f : Req → Req) : Req := f { store0 0 true with kind := kind, issued := 9, cap := cap64 0xFF }

/-- The state in which that request is at its tile, which has cached the translation of object 1, with the tag of its granule. -/
def tileState (q : Req) (tag : W32) (m : List Host.Cell) : State :=
  { stateOf (region0 [(0, .reset)]) 0 with
    dies := { Die.reset with cycle := 10, xlates := [placedXlate State.reset] } :: List.replicate 15 .reset
    mem := m, reqs := [q], accTags := [(1, tag)], focus := ⟨0, 0, 0, 0, 0, q.id⟩ }

/-- That request may be performed, at home at 64, and p holds. -/
def Performs (q : Req) (tag : W32) (m : List Host.Cell) (writes : Bool) (p : State → Bool) : Prop :=
  RequestReady (tileState q tag m) q ∧ Req.homeAt (tileState q tag m) q writes q.size 64 ∧ p (tileState q tag m) = true

theorem performs {q : Req} {tag : W32} {m : List Host.Cell} {w : Bool} {p : State → Bool} (h : ((tileState q tag m).req q.id == some q && q.stage == .queued &&
    decide (q.issued < (tileState q tag m).now q.die) && releaseReady (tileState q tag m) q &&
    turnReady (tileState q tag m) q && decide (0 < q.size) && decide (q.ofs % 64 + q.size ≤ 64) && decide (q.size ≤ 64) &&
    !(tileState q tag m).bad.contains 1 && (match (translate (tileState q tag m) q.die (q.blk (tileState q tag m)) q.cap.oid q.ofs w false).1 with
      | .ok pa => (tileState q tag m).isLocal pa && paLocal pa == 64
      | _ => false) && p (tileState q tag m)) = true) : Performs q tag m w p := by
  simp only [Bool.and_eq_true, beq_iff_eq, decide_eq_true_eq, Bool.not_eq_true'] at h
  obtain ⟨⟨⟨⟨⟨⟨⟨⟨⟨⟨h1, h2⟩, h3⟩, h4⟩, h5⟩, h6⟩, h7⟩, h8⟩, hb⟩, h9⟩, h10⟩ := h
  refine ⟨⟨h1, h2, h3, h4, h5, alone_of rfl⟩, ⟨h6, h7, by simpa using h8, by simpa using hb, ?_⟩, h10⟩
  split at h9
  · rename_i pa hpa; rw [Bool.and_eq_true, beq_iff_eq] at h9; exact ⟨pa, hpa, h9⟩
  · simp at h9

theorem witness_plain_accesses :
    Performs (req0 .store id) (mkTag tagSync 0) [(64, 0x2A)] true (fun s => (tagCheck (s.racer 1) (getTag s.accTags 1) true).isSome) ∧
    Performs (req0 .store fun q => { q with ofs := 64 }) (mkTag tagWritten 2) [] true (fun s =>
      (tagCheck (s.racer 1) (getTag s.accTags 1) true).isNone && s.dies.all fun d => !d.faults.fqdb.getLsbD 0) ∧
    Performs (req0 .load id) (mkTag tagSync 0) [] false (fun s => (tagCheck (s.racer 1) (getTag s.accTags 1) false).isSome &&
      ((req0 .load id).mode s).buf.isEmpty && ((s.die 0).line ((req0 .load id).blk s) 1).isNone) := by
  refine ⟨?_, ?_, ?_⟩ <;> exact performs (by decide +kernel)

theorem witness_synchronising_accesses :
    (∀ n ∈ [0, 7], Performs (req0 .atom fun q => { q with form := n }) (mkTag tagSync 0) [(64, 0x2A)] true (fun _ =>
      (req0 .atom fun q => { q with form := n }).size == 8 && [3, 4, 7, 8].contains (req0 .atom fun q => { q with form := n }).ty)) ∧
    Performs (req0 .strel fun q => { q with rel := true }) (mkTag tagSync 0) [(64, 0x2A)] true (fun _ => true) ∧
    Performs (req0 .ldacq fun q => { q with acq := true }) (mkTag tagSync 0) [] false (fun _ => true) := by
  simp only [List.forall_mem_cons, List.not_mem_nil, false_imp_iff, implies_true, and_true]
  refine ⟨⟨?_, ?_⟩, ?_, ?_⟩ <;> exact performs (by decide +kernel)

/-- A FUTREG or FUTRES of 96. -/
def futReq (k : ReqKind) (ofs size : Nat) : Req := req0 k fun q => { q with data := 96, ofs := ofs, size := size }

theorem witness_futures :
    (∀ k ∈ [ReqKind.futnew, .futget, .futreg, .futres], Performs (futReq k 64 8) (mkTag tagSync 0) [(71, 0x40)] true (fun s =>
      !(futReq k 64 8).scout && s.dies.length == 16 && futState (leNat (memReadN s.mem 64 8)) == 1)) ∧
    Performs (futReq .futres 64 8) (mkTag tagSync 0) [] true (fun s => futState (leNat (memReadN s.mem 64 8)) == 0) ∧
    Performs (futReq .futres 64 8) (mkTag tagSync 0) [(71, 0x80)] true (fun s => futState (leNat (memReadN s.mem 64 8)) == 2) ∧
    Performs (futReq .futreg 64 16) (mkTag tagSync 0) [] true (fun _ => (96 : Nat) % 16 == 0) := by
  simp only [List.forall_mem_cons, List.not_mem_nil, false_imp_iff, implies_true, and_true]
  refine ⟨⟨?_, ?_, ?_, ?_⟩, ?_, ?_, ?_⟩ <;> exact performs (by decide +kernel)

theorem witness_future_list : ∃ s, Req.homeAt s (futReq .futreg 96 16) true 16 96 := by
  refine ⟨tileState (futReq .futreg 96 16) (mkTag tagSync 0) [], by decide, by decide, by decide, by decide, 96, ?_, ?_, ?_⟩ <;> decide +kernel

/-- The state of a performed request, in focus. -/
def landState (q : Req) (x : Cell) : State :=
  { stateOf (region0 [(0, x)]) 0 with reqs := [{ q with stage := .performed }], focus := ⟨0, 0, 0, 0, 0, q.id⟩ }

theorem witness_returns :
    (∀ k ∈ [ReqKind.load, .atom], ∃ (s : State) (q : Req) (r : Region), s.req s.focus.id = some q ∧ q.stage = .performed ∧ s.region q.die q.rblk = some r ∧ q.kind = k ∧
      q.void = false ∧ q.acq = false ∧ (r.cell q.cell).rt.faultReq = none ∧ q.rdst = 0x20) ∧
    (∃ (s : State) (q : Req), s.req s.focus.id = some q ∧ q.stage = .performed ∧ q.kind = .store) ∧
    (∃ (s : State) (r : Region), s.region s.focus.die s.focus.rblk = some r ∧ r.live = true ∧ (r.cell 0).rt.done = [1] ∧
      (∀ k ∈ (r.cell 0).rt.results, k.tok.kind ≠ .eot) ∧ cellComplete s r.die r.rblk 0 1 (r.cell 0).cfg.doneScope = true ∧
      (r.cell 0).cfg.doneOuts = [0] ∧ hasRoom s r 0 0 (s.now 0) = true) := by
  refine ⟨?_, ?_, ?_⟩
  · intro k hk
    refine ⟨landState (req0 k fun q => { q with rdst := 0x20 }) .reset, { req0 k fun q => { q with rdst := 0x20 } with stage := .performed },
      region0 [(0, .reset)], ?_, rfl, at_one _ 0 rfl rfl, rfl, rfl, rfl, rfl, rfl⟩
    simp [landState, State.req]
  · exact ⟨landState (req0 .store id) .reset, { req0 .store id with stage := .performed }, by simp [landState, State.req], rfl, rfl⟩
  · let x := withCfg (withRt (cellOf (opWord 0x181 8 0 0 0) [[]]) fun y => { y with done := [1] }) fun c => { c with memattr := 64 }
    exact ⟨stateOf (region0 [(0, x)]) 0, region0 [(0, x)], at_one _ 0 rfl rfl, by decide +kernel, by decide +kernel, by decide +kernel,
      by decide +kernel, by decide +kernel, by decide +kernel⟩

/-- A stream port in the middle of a generation, as the statement of its issue has it. -/
def portB (x : Cell) (k : Cap) (lds : Bool) : Bool :=
  let cx := cx1 x
  let o := streamOrder cx
  cx.r.live && !cx.x.rt.stopped && portMayIssue cx && !cx.kPending (cx.m.modF 0 2) && cx.m.rdstNat == 0 && cx.x.rt.k.getD 0 .none == k &&
  match cx.x.rt.gen with
  | some g => if lds then cx.x.cfg.opc == 0x180 && letsB k rRead (k.cursor + affineIndex cx o (cx.x.cfg.lout 0) g.next g.base * 8) 8 1
              else cx.x.cfg.opc != 0x180 && letsB k rRead (k.cursor + g.base * 8) 8 1
  | none => false

theorem cxOf_one (x : Cell) : cxOf (one x) (one x).focus.die (one x).focus.rblk (one x).focus.cell = some (cx1 x) := by
  show Option.map _ ((one x).region 0 0) = _
  rw [show (one x).region 0 0 = some (region0 [(0, x)]) from at_one _ 0 rfl rfl]
  rfl

theorem witness_stream_ports :
    portB (withRt (memCell 0x180 0 0 (cap64 1) [[]]) fun y => { y with gen := some ⟨0, 3⟩, after := true }) (cap64 1) true = true ∧
    portB (withRt (memCell 0x182 0 0 (cap64 1) [[]]) fun y => { y with gen := some ⟨7, 0⟩, after := true }) (cap64 1) false = true := by
  decide +kernel

theorem witness_tile_loads :
    (∀ b ∈ [true, false], Stands (withRt (cellOf (opWord 0x121 0 0 0 0) [[mk .hdr 9]]) fun y => { y with begun := b }) fun cx =>
      offersB cx 0 (mk .hdr 9) markKinds hdrMove && cx.m.modF 0 1 == 0) ∧
    Stands (cellOf (opWord 0x120 8 0 0 0) [[v 1], []]) (fun cx => offersB cx 0 (v 1) markKinds hdrMove && !refusesCtl cx 1) ∧
    Stands (withRt (memCell 0x120 0 (4 + 1024) (cap64 1) [[mk .ctl 1], [mk .ctl 0]]) fun y =>
        { y with k := [(⟨1#32 ++ 1#8 ++ 64#44 ++ 0#6 ++ 64#18 ++ 192#18 ++ 0#2, true⟩ : Cap), .none, .none, .none] }) (fun cx =>
      offersB cx 0 (mk .ctl 1) markKinds hdrMove && cx.m.modF 10 1 == 1 && !cx.x.rt.begun && !refusesCtl cx 1 && cx.head 1 == some (mk .ctl 0) &&
      tileRoom cx 1 && !swpWaiting cx (cx.x.cfg.tindex 0) (cx.x.cfg.tport 0) && !cx.kPending 0 && !(cx.r.cell 1).rt.pending.contains 64 &&
      letsB (cx.kreg 0 [1]) rRead (Claims.byteAt (cx.kreg 0 [1]) 0 8) (15 * cx.m.modF 2 8 * 8 + 8) 1) := by
  simp only [List.forall_mem_cons, List.not_mem_nil, false_imp_iff, implies_true, and_true]
  refine ⟨⟨?_, ?_⟩, ?_, ?_⟩ <;> exact stands (by decide +kernel)

theorem witness_tile_forms :
    (∀ k ∈ [v 3, mk .eor 0, mk .swp 0], Stands (withRt (cellOf (opWord 0x122 3 0 0 0) [[k]]) fun y => { y with runPos := 15, exact := ofIntF 5 })
      fun cx => offersB cx 0 k [.val, .eor, .eot, .hdr, .swp] (hdrTdot cx.m) && cx.m.rdstNat == 0 && cx.m.tyNat ≤ 8 && cx.x.rt.runPos < 16 &&
        cx.x.rt.exact == ofIntF 5 && !cx.pendingReg 64) ∧
    (∀ b ∈ [true, false], ∀ k ∈ [v 0x40000000, mk .eor 0], Stands (withRt (cellOf (opWord 0x122 9 0 2 0) [[k]]) fun y =>
        { y with runPos := 15, begun := b, exact := .fin true 3 0, ta := List.replicate 16 0x3F800000 })
      fun cx => offersB cx 0 k [.val, .eor, .eot, .hdr, .swp] (hdrTdot cx.m) && cx.m.rdstNat == 0 && 8 < cx.m.tyNat && cx.x.rt.runPos < 16 &&
        !cx.x.rt.exact.isNaN && !(cx.fArg 9 ⟨k.pay, 0, true⟩).isNaN && !(decodeF 9 ((cx.x.rt.ta.getD 15 0).toNat % 2 ^ 32)).isNaN &&
        (mulF (cx.fArg 9 ⟨k.pay, 0, true⟩) (decodeF 9 ((cx.x.rt.ta.getD 15 0).toNat % 2 ^ 32))).isSome &&
        (addF (rmodeOf cx.m.rmNat) cx.x.rt.exact (.fin false 1 1)).isSome) ∧
    Stands (withRt (cellOf (opWord 0x122 3 0 0 0) [[mk .swp 0]]) fun y => { y with pending := [64] }) (fun cx => cx.pendingReg 64) ∧
    Stands (cellOf (opWord 0x123 3 0 0 3) [[mk .ctl 0]]) (fun cx => cx.x.rt.gen.isNone && offersB cx 0 (mk .ctl 0) [.ctl, .swp] (fun _ => true)) ∧
    (∀ n ∈ [3, 4, 5], Stands (withRt (cellOf (opWord 0x123 3 0 0 3) [[]]) fun y => { y with gen := some ⟨0, n⟩ }) fun cx =>
      cx.x.rt.gen == some ⟨0, n⟩ && cx.m.modF 0 4 + 1 == 4) ∧
    Stands (withRt (memCell 0x124 0 4 .none [[v 0]]) fun y =>
        { y with k := [(⟨1#32 ++ 2#8 ++ 64#44 ++ 0#6 ++ 64#18 ++ 192#18 ++ 0#2, true⟩ : Cap), .none, .none, .none] }) (fun cx =>
      offersB cx 0 (v 0) markKinds hdrMove && tileRoom cx 16 && !cx.kPending (cx.m.modF 0 2) &&
      letsB (cx.kreg 0 [0]) rWrite (Claims.byteAt (cx.kreg 0 [0]) 0 8) (15 * cx.m.modF 2 8 * 8 + 8) 1) := by
  simp only [List.forall_mem_cons, List.not_mem_nil, false_imp_iff, implies_true, and_true]
  refine ⟨⟨?_, ?_, ?_⟩, ⟨⟨?_, ?_⟩, ?_, ?_⟩, ?_, ?_, ⟨?_, ?_, ?_⟩, ?_⟩ <;> exact stands (by decide +kernel)

theorem witness_draws :
    Stands (cellOf (opWord 0x140 8 0 0 (2 + 4 * 32)) [[v 0]]) (fun cx => offersB cx 0 (v 0) markKinds hdrMove && cx.m.modF 10 1 == 0 &&
      cx.m.modF 11 1 == 0 && [2, 3, 4, 5].all fun i => !cx.pendingReg (32 + i)) ∧
    (∀ n ∈ [0, 1], Stands (withRt (cellOf (opWord 0x142 0 0 0 2) [[v 5], [v 6]]) fun y => { y with phase := n }) fun cx =>
      offersB cx 0 (v 5) markKinds hdrMove && cx.bound 1 && offersB cx 1 (v 6) [.val, .ctl] (fun _ => true) && cx.m.modF 4 3 == 0 &&
      !cx.x.rt.begun && cx.x.rt.runIdx == Kind.val.code) ∧
    Stands (withRt (cellOf (opWord 0x142 0 0 0 2) [[v 5], [v 6]]) fun y => { y with phase := 1, results := [⟨mk .ctl 9, 1, 0, 0, false⟩] }) (fun cx =>
      offersB cx 0 (v 5) markKinds hdrMove && cx.bound 1 && offersB cx 1 (v 6) [.val, .ctl] (fun _ => true) && cx.m.modF 4 3 == 0 &&
      !cx.x.rt.begun && cx.x.rt.runIdx == Kind.val.code && cx.x.rt.results.length == 1) ∧
    Stands (cellOf (opWord 0x141 0 0 0 16) [[mk .ctl 0]]) (fun cx => cx.head 0 == some (mk .ctl 0) && !refusesCtl cx 0 && cx.x.rt.results == [] && cx.m.modF 2 2 == 0 &&
      cx.m.modF 4 1 == 1) := by
  simp only [List.forall_mem_cons, List.not_mem_nil, false_imp_iff, implies_true, and_true]
  refine ⟨?_, ⟨?_, ?_⟩, ?_, ?_⟩ <;> exact stands (by decide +kernel)

/-! Witnesses: the allocator, emitters, and what holds of all cells. -/

/-- A cell on an arena: object 1 of 4,096 bytes, whose header has TOP 128, at the start of memory. -/
def arenaState (x : Cell) (frees : Nat) : State × Region :=
  let r := { region0 [(0, x)] with freeList := List.replicate frees (capOf 0 256, 64, 128) }
  ({ stateOf r 0 with
      module := { Module.reset with phase := .running, otb := 0x1000, otlen := 2 }
      dies := { Die.reset with cycle := 10, xlates := [placedXlate State.reset] } :: List.replicate 15 .reset
      mem := [(8, 128), (0x1033, 1)] }, r)

/-- ALLOC with SOFT, on an arena capability with this top. -/
def allocCell (soft top : Nat) : Cell :=
  withRt (cellOf (opWord 0x148 8 0x11 0 (4 * soft)) [[v 1]]) fun y => { y with k := [capOf 0 top, .none, .none, .none] }
/-- FREE of an extent, with the arena in k1. -/
def freeCell : Cell := withRt (cellOf (opWord 0x149 8 0 0 4) [[v 0]]) fun y => { y with k := [capOf 64 128, capOf 0 256, .none, .none] }

/-- The arena's cell stands ready, and p holds of its context. -/
def Allocs (x : Cell) (frees : Nat) (a : Nat) (p : Cx → Bool) : Prop :=
  let u := arenaState x frees
  CellReady u.1 (ctx u.1 u.2) ∧ u.1.Alone ∧ ElemReady (ctx u.1 u.2) [0] (ops [(0, a)]) ∧ p (ctx u.1 u.2) = true

theorem allocs {x : Cell} {frees a : Nat} {p : Cx → Bool} (h : (
    let cx := ctx (arenaState x frees).1 (arenaState x frees).2
    readyB cx && headsB cx [0] && (cx.operands [0] == some (ops [(0, a)])) && !([0].filter cx.isLink).isEmpty &&
    (cx.m.rdstNat == 0 || !cx.pendingReg cx.m.rdstNat) && p cx) = true) : Allocs x frees a p := by
  simp only [Bool.and_eq_true, beq_iff_eq, Bool.not_eq_true', List.isEmpty_eq_false_iff, Bool.or_eq_true] at h
  obtain ⟨⟨⟨⟨⟨h1, h2⟩, h3⟩, h4⟩, h5⟩, h6⟩ := h
  exact ⟨ready_of (at_one _ 0 rfl rfl) h1, alone_of rfl, elem_of h2 h3 h4 h5, h6⟩

/-- The arena of capability k is well formed, and its next extent ends at n. -/
def arenaB (cx : Cx) (k : Cap) (n : Nat) : Bool :=
  let h := readArena cx.s cx.r.die cx.blk k true
  letsB k 35 0 64 64 && h.1 == 0 && h.2.2.wants.isEmpty && h.2.1.top == 128 && match grantExtent h.2.1.top 64 27 0 with
    | some (_, b, l) => b + l == n
    | none => false

theorem witness_allocations :
    Allocs (allocCell 0 256) 0 1 (fun cx => let k := cx.kreg 0 [0]
      arenaB cx k 192 && 192 ≤ arenaLen (readArena cx.s cx.r.die cx.blk k true).2.2 k) ∧
    (∀ soft ∈ [0, 1], Allocs (allocCell soft 128) 0 1 (fun cx => let k := cx.kreg 0 [0]
      arenaB cx k 192 && arenaLen (readArena cx.s cx.r.die cx.blk k true).2.2 k < 192 && cx.m.modF 2 1 == soft)) ∧
    (∀ n ∈ [63, 64], Allocs freeCell n 0 (fun cx => let k := cx.kreg 0 [0]; let a := cx.kreg 1 [0]
      k.tag && a.tag && k.oid == a.oid && k.base == 64 && k.top == 128 && (readArena cx.s cx.r.die cx.blk a false).1 == 0 &&
      (readArena cx.s cx.r.die cx.blk a false).2.2.wants.isEmpty &&
      k.top ≤ (readArena cx.s cx.r.die cx.blk a false).2.1.top && cx.r.freeList.length == n)) := by
  simp only [List.forall_mem_cons, List.not_mem_nil, false_imp_iff, implies_true, and_true]
  refine ⟨?_, ⟨?_, ?_⟩, ?_, ?_⟩ <;> exact allocs (by decide +kernel)

theorem witness_emitters : ∀ n ∈ [0, 1, 2, 3], Stands (withCfg (withRt (cellOf (opWord 0x1D0 0 0 0 0) [[mk .ctl 1], [mk .ctl 2]])
    fun y => { y with phase := n }) fun c => { c with consts := c.consts.set 2 1 }) fun cx =>
      (cx.head 0).isSome && fieldNat (cx.x.cfg.const 2) 0 8 == 1 && !refusesCtl cx 1 && cx.head 1 == some (mk .ctl 2) := by
  simp only [List.forall_mem_cons, List.not_mem_nil, false_imp_iff, implies_true, and_true]
  refine ⟨?_, ?_, ?_, ?_⟩ <;> exact stands (by decide +kernel)

/-- Both ports of a two-operand form have a head that it takes, as the statement of markers has it. -/
def pairB (cx : Cx) (a b : Token) : Bool :=
  cx.m.rdstNat == 0 && [0, 1].all (fun p => cx.bound p && !cx.refuses p markKinds (hdrOnly cx.m.tyNat)) && (cx.operands [0, 1]).isSome &&
  [0, 1].filter cx.isLink == [0, 1] && cx.heads [0, 1] == some [a, b]

theorem witness_markers_and_voids :
    (∀ k ∈ [mk .eor 0, mk .eot 0, mk .hdr 1, mk .ctl 5, mk .swp 0, .voidVal], Stands (cellOf (opWord 0x001 1 0 0 0) [[k], [k]])
      fun cx => pairB cx k k) ∧
    Stands (cellOf (opWord 0x001 1 0 0 0) [[v 1], [mk .eor 0]]) (fun cx => pairB cx (v 1) (mk .eor 0)) ∧
    Stands (cellOf (opWord 0x001 1 0 0 0) [[v 1], [mk .hdr 2]]) (fun cx => cx.m.rdstNat == 0 && !cx.refuses 0 markKinds (hdrOnly cx.m.tyNat) &&
      cx.refuses 1 markKinds (hdrOnly cx.m.tyNat)) := by
  simp only [List.forall_mem_cons, List.not_mem_nil, false_imp_iff, implies_true, and_true]
  refine ⟨⟨?_, ?_, ?_, ?_, ?_, ?_⟩, ?_, ?_⟩ <;> exact stands (by decide +kernel)

theorem witness_firings :
    Meets (cellOf (opWord 0x001 1 0x3F 0 0) [[v 100], [v 100]]) [0, 1] (ops [(0, 100), (1, 100)]) (fun cx => cx.room cx.x.cfg.dataOuts &&
      cx.x.cfg.target 0 == 1 && (cx.r.storeAt cx.c 0).isNone && !(cx.r.cell (cx.x.cfg.tindex 0)).rt.lost && cx.x.cfg.tport 0 < (cx.r.cell (cx.x.cfg.tindex 0)).rt.ports.length &&
      (Instr.add cx.m).wf) ∧
    (let r := region0 [(0, cellOf (opWord 0x001 1 8 0 0) [[v 1], [v 1]]), (1, cellOf 0 [[v 2, v 3]])]
     CellReady (stateOf r 0) (ctx (stateOf r 0) r) ∧ (ctx (stateOf r 0) r).room (ctx (stateOf r 0) r).x.cfg.dataOuts = false) :=
  ⟨meets (by decide +kernel), ready_of (at_one _ 0 rfl rfl) (by decide +kernel), by decide +kernel⟩

theorem witness_frames : ∃ i ∈ regionForms ⟨1, 0, 0, 0⟩, ∃ s t, exec i s = .next t :=
  ⟨.add ⟨1, 0, 0, 0⟩, List.mem_append_left _ (List.mem_append_left _ (List.mem_cons_self ..)),
    one (cellOf (opWord 0x001 1 0 0 0) [[v 100], [v 100]]), next_of (by decide +kernel)⟩

theorem witness_ctr :
    Stands (cellOf (opWord 0x026 8 0 0 0) [[mk .ctl 0]]) (fun cx => cx.orderOut0 == some order4 && !cx.refuses 0 [.ctl] (fun _ => true) &&
      cx.x.rt.gen.isNone && cx.head 0 == some (mk .ctl 0) && 0 < OMap.runs order4 && 0 < OMap.runLen order4) ∧
    (∀ n ∈ [3, 4, 5], Stands (withRt (cellOf (opWord 0x026 8 0 0 0) [[]]) fun y => { y with gen := some ⟨0, n⟩ }) fun cx =>
      cx.orderOut0 == some order4 && cx.x.rt.gen == some ⟨0, n⟩ && OMap.runs order4 * (OMap.runLen order4 + 1) == 5) := by
  simp only [List.forall_mem_cons, List.not_mem_nil, false_imp_iff, implies_true, and_true]
  refine ⟨?_, ?_, ?_, ?_⟩ <;> exact stands (by decide +kernel)

/-- The state of one BRK cell on a die whose breakpoints are armed. -/
def brkState (x : Cell) (b : W64) : State :=
  { one x with dies := { Die.reset with cycle := 10, brkctl := b } :: List.replicate 15 .reset }

theorem witness_traps_and_breaks :
    (∀ n ∈ [0, 1, 2, 6], Meets (cellOf (opWord 0x1F5 8 0 0 n) [[v 7]]) [0] (ops [(0, 7)]) (fun cx => cx.m.modF 0 4 == n)) ∧
    (∀ b ∈ [(0 : W64), 1 + 256 * 5, 3], let x := cellOf (opWord 0x1F1 0 0 0 5) [[v 7]]
      CellReady (brkState x b) (ctx (brkState x b) (region0 [(0, x)])) ∧
      offersB (ctx (brkState x b) (region0 [(0, x)])) 0 (v 7) [.val, .eor, .eot, .hdr, .ctl, .swp, .rsd] hdrMove) := by
  simp only [List.forall_mem_cons, List.not_mem_nil, false_imp_iff, implies_true, and_true]
  refine ⟨⟨?_, ?_, ?_, ?_⟩, ⟨?_, ?_⟩, ⟨?_, ?_⟩, ?_, ?_⟩
  iterate 4 exact meets (by decide +kernel)
  iterate 3 (exact ready_of (at_one _ 0 rfl rfl) (by decide +kernel); decide +kernel)

theorem witness_system_register_forms :
    (∀ c ∈ [capOf 0 64, .none, { capOf 0 64 with bits := 0 }], Stands (withRt (cellOf (opWord 0x1F3 8 0 0 0) [[v 0x301]]) fun y =>
      { y with k := [c, .none, .none, .none] }) fun cx => cx.m.rdstNat == 0 && offersB cx 0 (v 0x301) markKinds (hdrOnly 8) &&
        fieldNat (v 0x301).pay 20 44 == 0 && !cx.kPending 0) ∧
    ∀ n ∈ [0x301, 0x302], Stands (withRt (cellOf (opWord 0x1F4 8 0 0 0) [[v n], [v 0]]) fun y =>
      { y with k := [capOf 0 64, .none, .none, .none] }) fun cx => offersB cx 0 (v n) markKinds (hdrOnly 8) &&
      offersB cx 1 (v 0) markKinds (hdrOnly 8) && (cx.kreg 0 [0, 1]).tag && (cx.kreg 0 [0, 1]).rights &&& rSystem != 0 &&
      !writeHeld cx.s 0 n && tileRoom cx 1 && cx.s.reqs.isEmpty := by
  simp only [List.forall_mem_cons, List.not_mem_nil, false_imp_iff, implies_true, and_true]
  refine ⟨⟨?_, ?_, ?_⟩, ?_, ?_⟩ <;> exact stands (by decide +kernel)

/-- An RSD before an integer form, whatever stands at its other port, is turned away. -/
theorem witness_rejections : let x := cellOf (opWord 0x001 1 0 0 0) [[mk .rsd 0], []]
    CellTurns (one x) (cx1 x) ∧ (cx1 x).wrongKind = some 0 ∧ ∃ i ∈ regionForms (cx1 x).m, i = .add (cx1 x).m :=
  ⟨turns1 (by decide +kernel), by decide +kernel, _, List.mem_append_left _ (List.mem_append_left _ (List.mem_cons_self ..)), rfl⟩

/-! Witnesses: controllers. -/

/-- A region that runs no pitch, its controller ready. -/
def ctlRegion (f : Region → Region) : Region := f { region0 [] with running := false }

/-- Its state: argument slot 0 is object 1's first 4,096 bytes, with these rights and tag; the tile has cached the object. -/
def ctlState (r : Region) (arg : Cap) : State :=
  { stateOf r 0 with
    tasks := [{ task0 with args := [arg] }]
    dies := { Die.reset with cycle := 10, xlates := [placedXlate State.reset] } :: List.replicate 15 .reset
    mem := [(64, 0x2A)], accTags := (List.range 64).map fun n => (n, mkTag tagSync 0) }

theorem at_ctl (f : Region → Region) (a : Cap) (hd : (ctlRegion f).die = 0) (hb : (ctlRegion f).rblk = 0) :
    Claims.at_ (ctlState (ctlRegion f) a) (ctlRegion f) := at_one _ 0 hd hb

theorem lets_of {k : Cap} {need : Nat} {b : Int} {z al : Nat} (h : letsB k need b z al = true) : k.lets need b z al := by
  simp only [letsB, Bool.and_eq_true, beq_iff_eq, decide_eq_true_eq] at h
  obtain ⟨⟨⟨⟨h1, h2⟩, h3⟩, h4⟩, h5⟩ := h
  exact ⟨h1, h2, h3, h4, h5⟩

/-- The object's translation gives local address a. -/
def placedB (s : State) (r : Region) (oid o a : Nat) (store : Bool) : Bool :=
  match (translate s r.die r.rblk oid o store false).1 with
  | .ok pa => s.isLocal pa && paLocal pa == a
  | _ => false

theorem word_of {s : State} {r : Region} {k : Cap} {o a : Nat} {st : Bool} {nt : W32} (h : (letsB k (if st then rWrite else rRead) o 8 8 &&
    decide (a % 64 + 8 ≤ 64) && !s.bad.contains (a / 64) && placedB s r k.oid o a st && (tagCheck (s.racer r.seq) (getTag s.accTags (a / 64)) st == some nt)) = true) :
    Claims.word s r k o st a nt := by
  simp only [Bool.and_eq_true, beq_iff_eq, decide_eq_true_eq, Bool.not_eq_true', List.contains_eq_mem, decide_eq_false_iff_not] at h
  obtain ⟨⟨⟨⟨h1, h2⟩, h5⟩, h3⟩, h4⟩ := h
  refine ⟨lets_of h1, h2, h5, ?_, h4⟩
  simp only [placedB] at h3
  split at h3
  · rename_i pa hpa; rw [Bool.and_eq_true, beq_iff_eq] at h3; exact ⟨pa, hpa, h3⟩
  · simp at h3

/-- Registers w0 and w1 of a region. -/
def withW (a b : Nat) (r : Region) : Region := { r with w := BitVec.ofNat 64 a :: BitVec.ofNat 64 b :: r.w.drop 2 }

/-- Format G with wD = w0, wA = w1 and IMM32. -/
def g (imm : Nat) : FmtG := ⟨0, 1, 0, 1, 0, BitVec.ofNat 32 imm⟩

theorem witness_words : ∀ st ∈ [true, false], ∃ s r nt, Claims.at_ s r ∧
    Claims.word s r (s.arg r.seq (g 8).slot.toNat) ((r.w.getD (g 8).wa.toNat 0 + Claims.opB r (g 8)).toNat) st 120 nt := by
  intro st h
  refine ⟨ctlState (ctlRegion (withW 0 112)) (capOf 0 4096), ctlRegion (withW 0 112), if st then mkTag tagWritten 1 else mkTag tagSync 0,
    at_ctl _ _ rfl rfl, ?_⟩
  cases st <;> exact word_of (by decide +kernel)

theorem witness_word_faults :
    let o (s : State) (r : Region) : Cap × Nat := (s.arg r.seq (g 0).slot.toNat, (r.w.getD (g 0).wa.toNat 0 + Claims.opB r (g 0)).toNat)
    let r (n : Nat) := ctlRegion (withW 0 n)
    (∀ n k, Claims.at_ (ctlState (r n) k) (r n)) ∧
    (o (ctlState (r 64) .none) (r 64)).1.tag = false ∧
    (let x := o (ctlState (r 64) (cap64 2)) (r 64); x.1.tag = true ∧ x.1.rights &&& rRead ≠ rRead) ∧
    (let x := o (ctlState (r 63) (cap64 3)) (r 63); x.1.tag = true ∧ x.1.rights &&& rRead = rRead ∧ x.2 < x.1.base) ∧
    (let x := o (ctlState (r 127) (cap64 3)) (r 127); x.1.tag = true ∧ x.1.base ≤ x.2 ∧ x.2 < x.1.top ∧ x.1.top < x.2 + 8) ∧
    (let x := o (ctlState (r 119) (cap64 3)) (r 119); x.1.tag = true ∧ x.1.base ≤ x.2 ∧ x.2 + 8 ≤ x.1.top ∧ x.2 % 8 ≠ 0) := by
  refine ⟨fun n k => at_ctl _ _ rfl rfl, ?_, ?_, ?_, ?_, ?_⟩ <;> decide +kernel

/-- The two words that a controller may write at 64. -/
def pairs : List W64 := [1, 2]

theorem witness_controller_stores : let r := ctlRegion id; let s := ctlState r (capOf 0 4096)
    (ctlWrites s r (capOf 0 4096) 64 rWrite pairs).1 = some () ∧ (64 : Nat) % 8 = 0 ∧
    (∀ i < pairs.length, ∃ e, (s.die r.die).xlates.find? (·.serves r.rblk (capOf 0 4096).oid (64 + 8 * i)) = some e ∧
      ∃ pa, pageCheck s e.desc e.ext e.pdesc (64 + 8 * i) true false = .ok pa ∧ s.isLocal pa = true ∧ paLocal pa = 64 + 8 * i) := by
  refine ⟨by decide +kernel, by decide, fun i hi => ⟨placedXlate State.reset, ?_, 64 + 8 * i, ?_⟩⟩ <;>
    (have : i = 0 ∨ i = 1 := by simp [pairs] at hi; omega) <;> rcases this with rfl | rfl <;> decide +kernel

theorem witness_calls : let k := (capOf 64 4096)
    (∀ n ∈ [0, 7, 8], ∃ s r, Claims.at_ s r ∧ r.depth = n) ∧
    (∃ s r nt, Claims.at_ s r ∧ r.depth = 8 ∧ r.ks = k ∧ Claims.word s r r.ks (r.ks.cursor + 8 * (r.depth - 8)) true 64 nt) ∧
    (∃ s r nt, Claims.at_ s r ∧ r.depth = 9 ∧ r.ks = k ∧ Claims.word s r r.ks (r.ks.cursor + 8 * (r.depth - 9)) false 64 nt) := by
  refine ⟨fun n _ => ⟨_, _, at_ctl (fun r => { r with depth := n }) .none rfl rfl, rfl⟩, ?_, ?_⟩
  · exact ⟨_, _, mkTag tagWritten 1, at_ctl (fun r => { r with depth := 8, ks := capOf 64 4096 }) .none rfl rfl, rfl, rfl,
      word_of (by decide +kernel)⟩
  · exact ⟨_, _, mkTag tagSync 0, at_ctl (fun r => { r with depth := 9, ks := capOf 64 4096 }) .none rfl rfl, rfl, rfl,
      word_of (by decide +kernel)⟩

/-- st with TRAPD, or without. -/
def stOf (t : Bool) : W64 := if t then BitVec.ofNat 64 (2 ^ 35) else 0

theorem witness_traps : (∀ t, ∃ s r, Claims.at_ s r ∧ r.trapd = t) ∧
    ∀ p ∈ [none, some 1], ∃ s r k, Claims.at_ s r ∧ r.cellTraps = [k] ∧ k.illegal = p ∧ r.trapd = false := by
  refine ⟨fun t => ⟨_, _, at_ctl (fun r => { r with st := stOf t }) .none rfl rfl, by cases t <;> decide +kernel⟩, fun p _ => ?_⟩
  exact ⟨_, _, ⟨0, 5, p⟩, at_ctl (fun r => { r with cellTraps := [⟨0, 5, p⟩] }) .none rfl rfl, rfl, rfl,
    by simp [ctlRegion, region0, freshRegion, Region.trapd]⟩

theorem witness_saves : let r := ctlRegion (withW 0 64); let s := ctlState r (capOf 0 4096)
    Claims.at_ s r ∧ (r.w.getD (g 0).wa.toNat 0 + Claims.opB r (g 0)).toNat = 64 ∧ r.w.length = 16 ∧ r.i.length = 4 ∧
    (capOf 0 4096).lets rWrite (64 : Nat) 128 8 ∧ (capOf 0 4096).lets rRead (64 : Nat) 128 8 ∧ (capOf 0 4096).lets rWrite (64 : Nat) 40 8 ∧
    (ctlWrites s r (capOf 0 4096) 64 rWrite r.w).1 = some () ∧
    (ctlWrites s r (capOf 0 4096) 64 rWrite (r.i.map (·.setWidth 64) ++ [r.st])).1 = some () ∧
    (ctlReads s r (capOf 0 4096) 64 rRead 16).1.isSome ∧ (ctlReads s r (capOf 0 4096) 64 rRead 5).1.isSome := by
  refine ⟨at_ctl _ _ rfl rfl, by decide +kernel, by decide +kernel, by decide +kernel, lets_of (by decide +kernel), lets_of (by decide +kernel),
    lets_of (by decide +kernel), ?_, ?_, ?_, ?_⟩ <;> decide +kernel

/-- The same on a die whose system block is the region's, with records in its fault queue, beside another region that is frozen or not. -/
def sysState (recs : List (BitVec 512)) (fz : Frozen) : State :=
  let r := ctlRegion (withW 1 64)
  { ctlState r (capOf 0 4096) with
    regions := [r, { ctlRegion id with rblk := 64, frozen := fz }]
    dies := { Die.reset with cycle := 10, sysBlock := 0, xlates := [placedXlate State.reset], faults := { FaultQ.reset with recs := recs } } ::
      List.replicate 15 .reset }

theorem witness_services :
    (∀ recs fz, Claims.at_ (sysState recs fz) (ctlRegion (withW 1 64))) ∧
    (∀ fz ∈ [Frozen.no, .service], let s := sysState [] fz
      (ctlRegion (withW 1 64)).rblk = (s.die 0).sysBlock ∧ (s.die 0).faults.recs = [] ∧
      ∃ y, s.region 0 ((ctlRegion (withW 1 64)).w.getD (g 0).wa.toNat 0).toNat = some y ∧ y.frozen = fz) ∧
    (let s := sysState [5] .no
     (s.die 0).faults.recs = [5] ∧ (capOf 0 4096).lets rWrite (64 : Nat) 64 8 ∧
      (ctlWrites s (ctlRegion (withW 1 64)) (capOf 0 4096) 64 rWrite ((List.range 8).map fun i => (5 : BitVec 512).extractLsb' (64 * i) 64)).1 =
        some ()) ∧
    (∃ s r, Claims.at_ s r ∧ r.rblk ≠ (s.die r.die).sysBlock ∧ r.trapd = false) := by
  refine ⟨fun _ _ => rfl, fun fz h => ?_, ⟨rfl, lets_of (by decide +kernel), by decide +kernel⟩, ?_⟩
  · refine ⟨by simp only [List.mem_cons, List.not_mem_nil, or_false] at h; rcases h with rfl | rfl <;> decide +kernel, rfl, { ctlRegion id with rblk := 64, frozen := fz }, rfl, rfl⟩
  · exact ⟨_, _, at_ctl id .none rfl rfl, by decide +kernel, by decide +kernel⟩


theorem alone_ctl (r : Region) (a : Cap) : (ctlState r a).Alone := alone_of rfl

theorem witness_controller_alone :
    (∀ r a, (ctlState r a).Alone) ∧ (∀ recs fz, (sysState recs fz).Alone) ∧
    (let r := ctlRegion id; let s := ctlState r .none
     r.die < s.dies.length ∧ (s.die r.die).faults.recs.length < Config.faultQueueSize ∧ r.trapd = false ∧ r.rblk ≠ (s.die r.die).sysBlock) ∧
    (ctlWrites (sysState [5] .no) (ctlRegion (withW 1 64)) (capOf 0 4096) 64 rWrite
      ((List.range 8).map fun i => (5 : BitVec 512).extractLsb' (64 * i) 64)).2.wants = [] ∧
    (∃ s r, Claims.at_ s r ∧ s.Alone ∧ r.rblk = (s.die r.die).sysBlock ∧
      ∀ y, s.region r.die ((r.w.getD (g 0).wa.toNat 0).toNat % 256) = some y → y.frozen = .no) := by
  refine ⟨fun _ _ => alone_of rfl, fun _ _ => alone_of rfl, ⟨by decide, by decide, by decide +kernel, by decide +kernel⟩, by decide +kernel,
    sysState [] .no, ctlRegion (withW 1 64), rfl, alone_of rfl, rfl, fun y h => ?_⟩
  have e : (sysState [] .no).region (ctlRegion (withW 1 64)).die (((ctlRegion (withW 1 64)).w.getD (g 0).wa.toNat 0).toNat % 256) =
    some { ctlRegion id with rblk := 64, frozen := .no } := rfl
  rw [e] at h; injection h with h; subst h; rfl

/-! Witnesses: runs, waits and ends. -/

/-- The controller of a region is at work in s, and p holds. -/
def Holds (s : State) (r : Region) (p : State → Region → Prop) : Prop := Claims.at_ s r ∧ p s r

/-- With nothing under way with other modules. -/
theorem Holds.alone {r : Region} {a : Cap} {p : State → Region → Prop} (h : Holds (ctlState r a) r p) :
    (ctlState r a).Alone ∧ Holds (ctlState r a) r p := ⟨alone_ctl r a, h⟩

/-- Registers i0 to i3 of a region. -/
def withI (a b c d : Nat) (r : Region) : Region := { r with i := [a, b, c, d].map (BitVec.ofNat 32) }

/-- The product of the i registers. -/
def product (r : Region) : Nat := (r.i.getD 0 0).toNat * (r.i.getD 1 0).toNat * (r.i.getD 2 0).toNat * (r.i.getD 3 0).toNat

theorem witness_configuring :
    (let r := ctlRegion (withI 641 6700417 (2 ^ 32 - 1) 1); Holds (ctlState r .none) r fun s r =>
      r.running = false ∧ r.runTrap = none ∧ product r = 2 ^ 64 - 1 ∧ (∀ c ∈ s.cmds, c.seq = r.seq → c.rblk ≠ detached)) ∧
    (let r := ctlRegion (withI (2 ^ 31) (2 ^ 31) 4 1); Holds (ctlState r .none) r fun _ r =>
      r.running = false ∧ r.runTrap = none ∧ product r = 2 ^ 64) ∧
    (let r := ctlRegion fun r => { r with runTrap := some fcConfig }; Holds (ctlState r .none) r fun _ r =>
      r.running = false ∧ r.runTrap = some fcConfig) := by
  refine ⟨⟨rfl, ?_⟩, ⟨rfl, ?_⟩, rfl, ?_⟩ <;> decide +kernel

/-- The task of those states. -/
def task0' : Task := { task0 with args := [Cap.none] }

/-- A region with one start-marked port, port 0 of cell 0, whose two slots hold q. -/
def startRegion (q : List Token) (f : Region → Region) : Region :=
  f { region0 [(0, withCfg (cellOf 0 [q]) fun c => { c with starts := [true, false, false, false] }),
    (1, withCfg (cellOf (opWord 1 1 0 0 0) []) fun c => { c with outs := [toCell 0 0, 0, 0, 0] })] with passes := 2, runAt := 10 }

theorem witness_run_pass :
    let P (s : State) (r : Region) (p : Prop) : Prop :=
      Claims.at_ s r ∧ r.live = true ∧ startPorts r = [(0, 0)] ∧ 0 < (r.cell 0).rt.ports.length ∧ p
    let occ (r : Region) : Nat := occupancy ((r.cell 0).rt.port 0).q ((r.cell 0).rt.port 0).popped ((r.cell 0).rt.port 0).popAt 10
    (let r := startRegion [v 1] fun r => { r with passNext := 1 }
     P (stateOf r 0) r (r.runAt ≤ 10 ∧ r.passNext < r.passes ∧ (r.cell 0).rt.lost = false ∧ occ r + 1 = r.portSlots 0 0)) ∧
    (let r := startRegion [v 1] fun r =>
        { r with passNext := 1, cells := r.cells.map fun x => (x.1, withRt x.2 fun c => { c with lost := x.1 == 0 }) }
     P (stateOf r 0) r (r.runAt ≤ 10 ∧ r.passNext < r.passes ∧ (r.cell 0).rt.lost = true)) ∧
    (let r := startRegion [] fun r => { r with passNext := 2 }; P (stateOf r 0) r (r.passes ≤ r.passNext)) ∧
    (let r := startRegion [] fun r => { r with runAt := 11 }; P (stateOf r 0) r (10 < r.runAt)) ∧
    (let r := startRegion [v 1, v 2] id; P (stateOf r 0) r ((r.cell 0).rt.lost = false ∧ r.portSlots 0 0 ≤ occ r)) := by
  refine ⟨⟨rfl, ?_⟩, ⟨rfl, ?_⟩, ⟨rfl, ?_⟩, ⟨rfl, ?_⟩, rfl, ?_⟩ <;> decide +kernel

/-- A region at a BELAY since cycle 7, whose last act was in cycle n. -/
def belayRegion (run : Bool) (n : Nat) (es : List EngFault) : Region :=
  ctlRegion fun r => { r with running := run, lastAct := n, ctl := .belay 8, engFaults := es }

theorem witness_belay : let P (r : Region) (p : State → Region → Prop) : Prop := Holds (ctlState r .none) r p
    P (belayRegion true 8 []) (fun s r => r.running = true ∧ s.now r.die < r.lastAct + 3) ∧
    P { belayRegion true 7 [] with passes := 1 } (fun s r => r.running = true ∧ nothingDue s r 10 = false) ∧
    P { belayRegion false 0 [] with ctl := .belay 9 } (fun s r => r.running = false ∧ s.now r.die < 9 + 2) ∧
    P (belayRegion true 7 [⟨3, true, 0, 0, 1, 1, []⟩]) (fun s r => belayDue s r 8 10 = true ∧ r.trapd = false) ∧
    ∀ run ∈ [true, false], P (belayRegion run 7 []) (fun s r => belayDue s r 8 10 = true ∧ r.engFaults = [] ∧ r.freeList = [] ∧
      r.stage = none ∧ ∀ t, s.task r.seq = some t → ∀ d, t.pre ≠ .drain d) := by
  refine ⟨⟨rfl, by decide +kernel⟩, ⟨rfl, by decide +kernel⟩, ⟨rfl, by decide +kernel⟩, ⟨rfl, by decide +kernel⟩, fun run h => ⟨rfl, ?_⟩⟩
  refine ⟨by simp only [List.mem_cons, List.not_mem_nil, or_false] at h; rcases h with rfl | rfl <;> decide +kernel, rfl, rfl, rfl, ?_⟩
  rintro t ⟨⟩ d ⟨⟩

theorem witness_waits : let P (r : Region) (p : State → Region → Prop) : Prop := Holds (ctlState r .none) r p
    P (ctlRegion id) (fun _ r => r.running = false) ∧
    P (belayRegion true 9 []) (fun s r => quiescent s r 10 = true) ∧
    P (belayRegion true 10 []) (fun s r => r.running = true ∧ quiescent s r 10 = false ∧ (Claims.opB r (g 0)).toNat = 0 ∧
      (Claims.opB r (g 1)).toNat ≠ 0) ∧
    (∀ n ∈ [9, 10], P { belayRegion true n [] with ctl := .waitc 15 10 } (fun s r => quiescent s r 10 = (n == 9))) ∧
    P { belayRegion true 10 [] with ctl := .waitc 15 11 } (fun s r => quiescent s r 10 = false ∧ s.now r.die < 11) := by
  refine ⟨⟨rfl, rfl⟩, ⟨rfl, by decide +kernel⟩, ⟨rfl, by decide +kernel⟩, fun n h => ⟨rfl, ?_⟩, rfl, by decide +kernel⟩
  simp only [List.mem_cons, List.not_mem_nil, or_false] at h; rcases h with rfl | rfl <;> decide +kernel

/-- A command of region 0's. -/
def cmd0 : Cmd :=
  { id := 1, die := 0, target := 2, isl := 0, rblk := 0, seq := 1, port := 0, cell := 0, words := ⟨0, 0⟩, stage := .running, decodedAt := 5,
    ticket := 0, due := 0, m := 0, acq := [], begun := true, hdr := none, lanes := [], buf := [], scales := [], reading := none,
    item := 0, params := [], book := [], acc := [] }

theorem witness_pitch_excludes :
    (let r := ctlRegion fun r => { r with running := true }; Holds (ctlState r .none) r fun _ r => r.running = true ∧ r.trapd = false) ∧
    let r := ctlRegion fun r => { r with running := true, st := stOf true }
    Holds { ctlState r .none with cmds := [cmd0] } r fun s r =>
      r.running = true ∧ r.trapd = true ∧ ∃ c ∈ s.cmds, c.die = r.die ∧ c.rblk = r.rblk := by
  refine ⟨⟨rfl, by decide +kernel⟩, rfl, by decide +kernel⟩

/-- Region r beside region x. -/
def beside (r x : Region) (cs : List Cmd) : State := { ctlState r .none with regions := [r, x], cmds := cs }

theorem witness_halt :
    let quiet (s : State) (r : Region) : Bool := s.reqs.all (fun q => !(q.isWrite && q.seq s == r.seq)) &&
      s.asks.all (fun a => !(a.who.die == r.die && a.who.rblk == r.rblk && a.what.isNone)) &&
      s.cmds.all fun c => !(c.die == r.die && c.rblk == r.rblk)
    let alone := ctlRegion id
    let other := { ctlRegion id with rblk := 64 }
    let inTrap := ctlRegion fun r => { r with st := stOf true }
    let P (s : State) (r : Region) (p : Prop) : Prop := Claims.at_ s r ∧ s.Alone ∧ s.task r.seq = some task0' ∧ r.running = false ∧ p
    P (beside alone other [cmd0]) alone (quiet (beside alone other [cmd0]) alone = false) ∧
    P (beside alone other []) alone (quiet (beside alone other []) alone = true ∧ alone.trapd = false ∧
      ∃ x ∈ (beside alone other []).regions, x.seq = alone.seq ∧ ¬(x.die = alone.die ∧ x.rblk = alone.rblk)) ∧
    P (ctlState alone .none) alone (quiet (ctlState alone .none) alone = true ∧ alone.trapd = false ∧
      ∀ x ∈ (ctlState alone .none).regions, x.seq = alone.seq → x.die = alone.die ∧ x.rblk = alone.rblk) ∧
    P (ctlState inTrap .none) inTrap (quiet (ctlState inTrap .none) inTrap = true ∧ inTrap.trapd = true) := by
  refine ⟨⟨rfl, alone_of rfl, rfl, rfl, ?_⟩, ⟨rfl, alone_of rfl, rfl, rfl, ?_⟩, ⟨rfl, alone_of rfl, rfl, rfl, ?_⟩, rfl, alone_of rfl, rfl,
    rfl, ?_⟩ <;> decide +kernel

/-- The done record of a task goes to bytes 64 to 95 of its DONECAP's object. -/
theorem witness_halt_records : let r := ctlRegion id
    let s := ({ ctlState r .none with dies := { Die.reset with xlates := [{ placedXlate State.reset with blk := launchBlk }] } :: [] } : State)
    (recordStep s 0 1 (capOf 64 96) 5 false 0 []).wants = [] := by
  decide +kernel

/-- The bound task, with or without a save area, beside a queued one of priority n. -/
def yieldState (save : Bool) (n : Nat) : State :=
  let r := ctlRegion id
  { ctlState r .none with tasks := [{ task0' with packet := if save then BitVec.ofNat 2048 (2 ^ 52) else 0, selPrio := 3 },
      { task0' with seq := 2, state := .queued, prio := n }] }

theorem witness_yield : let r := ctlRegion id
    let due (s : State) : Prop := ∃ x ∈ s.tasks, x.die = r.die ∧ x.state = .queued ∧ 3 ≤ min 7 (x.prio + x.rises)
    let P (s : State) (p : Task → Prop) : Prop := Claims.at_ s r ∧ (∃ t, s.task r.seq = some t ∧ t.selPrio = 3 ∧ t.pre = .no ∧ p t) ∧
      r.running = false
    (P (yieldState true 3) fun t => due (yieldState true 3) ∧ t.packet.getLsbD 52 = true) ∧
    (P (yieldState true 2) fun _ => ¬due (yieldState true 2)) ∧ P (yieldState false 7) fun t => t.packet.getLsbD 52 = false := by
  refine ⟨⟨rfl, ⟨_, rfl, rfl, rfl, ?_⟩, rfl⟩, ⟨rfl, ⟨_, rfl, rfl, rfl, ?_⟩, rfl⟩, rfl, ⟨_, rfl, rfl, rfl, ?_⟩, rfl⟩ <;> decide +kernel

/-! Witnesses: configuration commands, stores and stages. -/

/-- A region that applies a CFG. -/
def cfgRegion (f : CfgRun → CfgRun) : Region :=
  ctlRegion fun r => { r with ctl := .cfg, cfg := some (f ⟨0, 2, 0, 0, .none, [], 10, 64⟩) }

theorem witness_commands :
    let P (f : CfgRun → CfgRun) (p : CfgRun → Region → Prop) : Prop :=
      Claims.cmdAt (ctlState (cfgRegion f) .none) (cfgRegion f) (f ⟨0, 2, 0, 0, .none, [], 10, 64⟩) ∧
        p (f ⟨0, 2, 0, 0, .none, [], 10, 64⟩) (cfgRegion f)
    let most : List (BitVec 30) := [BitVec.ofNat 30 (2 ^ 25 - 1), BitVec.ofNat 30 (2 ^ 30 - 1)]
    let high : List (BitVec 30) := [BitVec.ofNat 30 (2 ^ 24 - 1), BitVec.ofNat 30 (2 ^ 30 - 1)]
    P (fun c => { c with exts := [1, 2, 3] }) (fun c _ => c.pos + 1 ≠ c.count ∧ c.exts.length = 3) ∧
    P (fun c => { c with exts := [1, 2, 3, 4] }) (fun c _ => 4 ≤ c.exts.length) ∧
    P id (fun c r => c.pos + 1 ≠ c.count ∧ c.exts = [] ∧ c.cover = .none ∧ (1 : BitVec 14) ≠ 0 ∧ 0 < r.height ∧ 0 < r.width) ∧
    P (fun c => { c with cover := .rep 1 2 }) (fun c _ => ¬(c.pos + 1 ≠ c.count ∧ c.exts = [] ∧ c.cover = .none)) ∧
    P (fun c => { c with exts := most }) (fun c r => c.pos + 1 ≠ c.count ∧ c.cover = .none ∧ c.base + 61 < r.cellCount ∧
      r.cellCount = 62 ∧ Claims.extended c 511 9 = 2 ^ 64 - 1) ∧
    P (fun c => { c with exts := high }) (fun c r => c.pos + 1 ≠ c.count ∧ fieldWidth 31 = some 64 ∧
      writeTargets r c 61 = some [61] ∧ Claims.extended c 1023 10 = 2 ^ 64 - 1 ∧ fieldOk r.cellCount 31 (2 ^ 64 - 1) = true) ∧
    P (fun c => { c with cover := .rep 3 17 }) (fun c r => c.pos + 1 ≠ c.count ∧ (writeTargets r c 0).isSome ∧
      (writeTargets r c 0).getD [] = (List.range 17).map (3 * ·)) ∧
    P id (fun _ _ => fieldWidth 14 = none ∧ fieldWidth 39 = none) ∧ P (fun c => { c with count := 1 }) (fun c _ => ¬c.pos + 1 ≠ c.count) := by
  refine ⟨⟨⟨rfl, rfl⟩, ?_⟩, ⟨⟨rfl, rfl⟩, ?_⟩, ⟨⟨rfl, rfl⟩, ?_⟩, ⟨⟨rfl, rfl⟩, ?_⟩, ⟨⟨rfl, rfl⟩, ?_⟩, ⟨⟨rfl, rfl⟩, ?_⟩, ⟨⟨rfl, rfl⟩, ?_⟩,
    ⟨⟨rfl, rfl⟩, ?_⟩, ⟨rfl, rfl⟩, ?_⟩ <;> decide +kernel

theorem witness_fields : ∀ n ∈ [1, 4, 5, 8, 16, 31, 32, 35], n ≤ 4 ∨ 5 ≤ n ∧ n ≤ 8 ∨ 16 ≤ n ∧ n ≤ 31 ∨ 32 ≤ n ∧ n ≤ 35 := by decide

/-- A read that succeeds, with its value and the state it leaves. -/
def okB {α : Type} (x : Option α × State) (p : α → State → Bool) : Bool := match x with | (some a, s) => p a s | _ => false

theorem ok_of {α : Type} {x : Option α × State} {p : α → State → Bool} (h : okB x p = true) : ∃ a s, x = (some a, s) ∧ p a s = true := by
  rcases x with ⟨_ | a, s⟩
  · simp [okB] at h
  · exact ⟨a, s, rfl, h⟩

/-- Region r is still in focus in s1. -/
def backB (s : State) (r : Region) (s1 : State) : Bool := s1.region s1.focus.die s1.focus.rblk == some r && s1.focus == s.focus

/-- Memory with words of n bytes from an address up. -/
def poke (s : State) (a n : Nat) (ws : List Nat) : State := { s with mem := memWriteN s.mem a (ws.flatMap (natLe n)) }

/-- Cell 0 with an ADD whose ports nothing feeds, written by this CFG. -/
def badCell : Cell := withCfg (cellOf (opWord 1 1 0 0 0) []) fun c => { c with wrote := [(0, 0)] }

theorem witness_end :
    let r := cfgRegion fun c => { c with count := 1 }
    let x := { r with cells := [(0, badCell)] }
    let P (r : Region) (p : Option (List (Option OMap)) → State → Bool) : Prop :=
      Claims.cmdAt (ctlState r .none) r ⟨0, 1, 0, 0, .none, [], 10, 64⟩ ∧
      okB (readTable (ctlState r .none) r 4) (fun tb s1 => backB (ctlState r .none) r s1 && p tb s1) = true
    P r (fun tb s1 => tb.isSome && let y := { r with orders := tb.getD r.orders }
      (firstFail (s1.updRegion r.die r.rblk fun r => { r with orders := tb.getD [] }) y 0).isNone) ∧
    P x (fun tb s1 => tb.isSome && (let y := { x with orders := tb.getD x.orders }
      (firstFail (s1.updRegion x.die x.rblk fun r => { r with orders := tb.getD [] }) y 0).isSome) && !(s1.die 0).faults.fqdb.getLsbD 0 &&
      decide (x.die < s1.dies.length) && decide ((s1.die x.die).faults.recs.length < Config.faultQueueSize)) ∧
    Claims.cmdAt (ctlState (cfgRegion id) .none) (cfgRegion id) ⟨0, 2, 0, 0, .none, [], 10, 64⟩ := by
  refine ⟨⟨⟨rfl, rfl⟩, ?_⟩, ⟨⟨rfl, rfl⟩, ?_⟩, rfl, rfl⟩ <;> decide +kernel

theorem witness_start_state : badCell.cfg.rinit = [] ∧ badCell.cfg.sinit = [] ∧ badCell.cfg.tinit = [] := ⟨rfl, rfl, rfl⟩

/-- Orders: four elements; at most four; a 2 by 2 tensor by rows; the same by columns. -/
def orders4 : List (Option OMap) :=
  [some order4, some rag4, some [⟨0, false, false, false, 0, 2⟩, ⟨1, false, false, false, 0, 2⟩],
    some [⟨1, false, false, false, 0, 2⟩, ⟨0, false, false, false, 0, 2⟩]]

/-- A join descriptor at byte 256 of the image: one lane, from destination 0 of cell 1 to port 0 of cell 0. -/
def joinRegion : Region := ctlRegion fun r => { r with orders := orders4 }
/-- Its state. -/
def joinState : State := poke (ctlState joinRegion .none) 256 4 [1, 2 ^ 18]
/-- JOIN of two orders. -/
def fj (p c : Nat) : FmtJ := ⟨BitVec.ofNat 8 p, BitVec.ofNat 8 c, 0, 0, 64⟩

/-- A join of the orders p and c is checked by f, which sees the descriptor. -/
def joinB (f : JoinDesc → State → Bool) : Bool :=
  okB (readDesc joinState joinRegion 64) fun d s1 => backB joinState joinRegion s1 && f d s1

theorem witness_joins :
    Claims.at_ joinState joinRegion ∧ joinRegion.running = false ∧ joinRegion.order 0 = some order4 ∧ joinRegion.order 1 = some rag4 ∧
    joinB (fun d s1 => match joinChecks d (joinRegion.order 2) (joinRegion.order 3) with
      | .ok _ _ per n => per.size == 4 && n == 2 && (storeSpace s1 joinRegion d.lanes ((n * (8 * 2 ^ 0) + 511) / 512) false).isSome
      | .bad .. => false) = true ∧
    joinB (fun d _ => match joinChecks d (joinRegion.order 0) (joinRegion.order 2) with | .bad .. => true | .ok .. => false) = true ∧
    joinB (fun d _ => !d.bad && d.bounds.isEmpty && d.lanes == [⟨1, 0, 0, 0⟩] && order4.lanes == 1 && OMap.same order4 order4) = true ∧
    OMap.same order4 rag4 = false := by
  refine ⟨rfl, rfl, rfl, rfl, ?_, ?_, ?_, ?_⟩ <;> decide +kernel

/-- The store of the join from rows to columns. -/
def joinStore (f : Store → Store) : Store :=
  let m := (orders4.getD 2 none).getD []
  let c := (orders4.getD 3 none).getD []
  let per : Period := match OMap.refine m c with | some (a, b) => ⟨(stripOuter a b).1, (stripOuter a b).2⟩ | none => ⟨[], []⟩
  f { lanes := [⟨1, 0, 0, 0⟩], pmap := m, cmap := c, pjoin := m, cjoin := c, period := per, width := 8, granules := 1, grans := [511],
      far := false, inq := [.empty], held := [], admitted := 0, issued := 0, next := 0, inRun := 0, pad := 0, owedEor := false, hdrs := [],
      home := false, eot := false, stopped := false }

theorem witness_join_completes : ∀ due ∈ [10, 11],
    let r := ctlRegion fun r => { r with ctl := .join (joinStore id) due }
    Claims.at_ (ctlState r .none) r ∧ r.die < (ctlState r .none).dies.length ∧ ((ctlState r .none).now r.die < due ↔ due = 11) := by
  intro due h
  simp only [List.mem_cons, List.not_mem_nil, or_false] at h; rcases h with rfl | rfl <;> exact ⟨rfl, by decide +kernel, by decide +kernel⟩

/-- A running region with that store, cells 1 and 0 at its ends, q in its slots. -/
def storeRegion (q : List Token) (f : Store → Store) : Region :=
  { region0 [(0, cellOf (opWord 0 1 0 0 0) []), (1, withCfg (cellOf (opWord 1 1 0 0 0) []) fun c => { c with outs := [toCell 0 0, 0, 0, 0] })] with
    stores := [f (joinStore fun st => { st with inq := [{ Port.empty with q := q }] })] }

/-- The store's turn comes. -/
def StoreTurn (r : Region) (p : Store → Prop) : Prop :=
  Claims.at_ (stateOf r 0) r ∧ ∃ st, r.stores[(stateOf r 0).focus.id]? = some st ∧ r.live = true ∧ st.stopped = false ∧ p st

theorem witness_store_admits :
    let P (q : List Token) (f : Store → Store) (p : Region → Store → Prop) : Prop := StoreTurn (storeRegion q f) (p (storeRegion q f))
    P [v 1] id (fun r st => st.eot = false ∧ st.pad = 0 ∧ st.judge r 10 = .vals ∧ st.admitted + 1 ≤ st.period.issueTime st.next st.issued) ∧
    P [mk .eor 0] (fun st => { st with inRun := 2, admitted := 2 }) (fun r st => st.eot = false ∧ st.pad = 0 ∧ st.judge r 10 = .eor) ∧
    P [mk .eot 0] id (fun r st => st.eot = false ∧ st.pad = 0 ∧ st.judge r 10 = .eot) ∧
    P [] (fun st => { st with eot := true }) (fun _ st => st.eot = true) ∧
    P [] id (fun r st => st.pad = 0 ∧ st.judge r 10 = .wait) ∧
    P [v 1] (fun st => { st with admitted := 3 }) (fun r st => st.pad = 0 ∧ st.judge r 10 = .vals ∧
      st.period.issueTime st.next st.issued < st.admitted + 1) := by
  refine ⟨⟨rfl, _, rfl, ?_⟩, ⟨rfl, _, rfl, ?_⟩, ⟨rfl, _, rfl, ?_⟩, ⟨rfl, _, rfl, ?_⟩, ⟨rfl, _, rfl, ?_⟩, rfl, _, rfl, ?_⟩ <;> decide +kernel

theorem witness_store_issues :
    let P (f : Store → Store) (p : Store → Prop) : Prop := StoreTurn (storeRegion [] f) fun st =>
      st.lanes = [⟨1, 0, 0, 0⟩] ∧ 0 < ((storeRegion [] f).cell 0).rt.ports.length ∧ 0 < (storeRegion [] f).cellCount ∧
      laneRoom (storeRegion [] f) 10 ⟨1, 0, 0, 0⟩ = true ∧ p st
    P (fun st => { st with owedEor := true }) (fun st => st.owedEor = true) ∧
    P (fun st => { st with admitted := 3, held := [⟨0, 0, 5, false, .none⟩, ⟨1, 0, 6, false, .none⟩, ⟨2, 0, 7, false, .none⟩] }) (fun st =>
      st.owedEor = false ∧ st.hdrs = [] ∧ st.period.issueTime st.next st.issued ≤ st.admitted ∧ ¬(st.eot = true ∧ st.issued = st.admitted) ∧
      (st.held.find? fun x => x.lane == (st.period.source 0 st.issued).1 && x.vec == (st.period.source 0 st.issued).2).isSome) ∧
    P (fun st => { st with eot := true, admitted := 4, issued := 4 }) (fun st =>
      st.owedEor = false ∧ st.hdrs = [] ∧ st.eot = true ∧ st.issued = st.admitted) := by
  refine ⟨⟨rfl, _, rfl, ?_⟩, ⟨rfl, _, rfl, ?_⟩, rfl, _, rfl, ?_⟩ <;> decide +kernel

/-- A queue header at byte 1,024 of the first argument's object, of four 64-byte records of order4 in I8, with head and tail, and
kind words of its first records. -/
def queueWords (head tail : Nat) (kinds : List Nat) : List Nat :=
  [head, tail, 4 + 2 ^ 32, 256 + 2 ^ 32, 1 + 2 ^ 32 * (OMap.toWord ⟨0, false, false, false, 0, 4⟩).toNat, 0, 0, 0] ++
    kinds.flatMap fun k => [k, 0, 0, 0, 0, 0, 0, 0]

/-- Region 0 of a task with stages, its w1 at the header. -/
def stageRegion (f : Region → Region) : Region := ctlRegion fun r => f (withW 0 1024 { r with orders := orders4 })

/-- Its state. -/
def stageState (r : Region) (entered : Bool) (stages : List Stage) (ws : List Nat) : State :=
  let s := ctlState r (capOf 0 4096)
  { poke s 1024 8 ws with tasks := s.tasks.map fun t => { t with entered := entered, stages := stages } }

theorem witness_declares :
    let r := stageRegion id
    let P (s : State) (r : Region) (p : Task → Prop) : Prop := Claims.at_ s r ∧ s.Alone ∧ ∃ t, s.task r.seq = some t ∧ p t
    P (stageState r false [] []) r (fun t => r.running = false ∧ r.num = 0 ∧ t.entered = false ∧ (Claims.opB r (g 255)).toNat = 255 ∧
      (Claims.opB r (g 256)).toNat = 256 ∧ (r.w.getD 1 0).toNat % 8 = 0) ∧
    P (stageState (stageRegion (withW 0 4)) false [] []) (stageRegion (withW 0 4)) (fun _ => ((stageRegion (withW 0 4)).w.getD 1 0).toNat % 8 ≠ 0) ∧
    P (stageState r true [] []) r (fun t => t.entered = true) ∧
    (∀ n ∈ [4, 1], let s := stageState r false [] (queueWords 0 0 [] |>.set 2 (n + 2 ^ 32))
      P s r (fun t => okB (ctlReads s r (s.arg r.seq 0) 1024 rRead 8) (fun ws s1 => s1.wants.isEmpty && backB s r s1 && (s1.task r.seq == some t) &&
        (s1.now r.die == s.now r.die) && !bindingClash s t 0 0 1024 true && !bindingClash s t 0 0 1024 false &&
        (queueOk r ws == (n == 4))) = true)) := by
  refine ⟨⟨rfl, alone_of rfl, _, rfl, ?_⟩, ⟨rfl, alone_of rfl, _, rfl, ?_⟩, ⟨rfl, alone_of rfl, _, rfl, ?_⟩, fun n h => ?_⟩
  any_goals decide +kernel
  simp only [List.mem_cons, List.not_mem_nil, or_false] at h
  rcases h with rfl | rfl <;> exact ⟨rfl, alone_of rfl, _, rfl, by decide +kernel⟩

/-- A stage without queues, one with both, and one whose input is empty. -/
def stage0 : Stage := ⟨0, some 64, none, none, false⟩

theorem witness_enters :
    let f (st : List Stage) (ws : List Nat) (p : State → State → List StageView → StageView → Bool) : Prop :=
      let r := stageRegion id
      let s := stageState r true st ws
      Claims.at_ s r ∧ s.Alone ∧ okB (viewStages s r st) (fun vs s1 => s1.wants.isEmpty && backB s r s1 &&
        (match chooseStage vs r.stage with | some x => p s s1 vs x | none => false)) = true
    let opens (iq oq : Option Nat) (s s1 : State) (x : StageView) : Bool :=
      okB (openQueues s1 (stageRegion id) x) fun q s2 => s2.wants.isEmpty && backB s (stageRegion id) s2 &&
        q.1.map (·.2) == iq && q.2.map (·.tail) == oq
    f [stage0] [] (fun s s1 _ x => opens none none s s1 x) ∧
    f [{ stage0 with inq := some (0, 1024) }] (queueWords 0 2 [7, 0]) (fun s s1 _ x => opens (some 1) none s s1 x) ∧
    f [{ stage0 with outq := some (0, 1024) }] (queueWords 0 2 [0, 0]) (fun s s1 _ x => opens none (some 2) s s1 x &&
      s1.wants.isEmpty && match s1.task (stageRegion id).seq with | some k => 0 < k.args.length | none => false) := by
  refine ⟨⟨rfl, alone_of rfl, ?_⟩, ⟨rfl, alone_of rfl, ?_⟩, rfl, alone_of rfl, ?_⟩ <;> decide +kernel

theorem witness_stage_waits :
    let r := stageRegion fun r => { r with ctl := .stage }
    let y := { ctlRegion id with rblk := 64, stage := some 3 }
    let s := { stageState r true [{ stage0 with exhausted := true }] [] with regions := [r, y] }
    let body (s1 : State) : Bool :=
      s1.regions.any fun x => x.seq == r.seq && x.stage.isSome && x.ctl != .stage && !(x.die == r.die && x.rblk == r.rblk)
    let P (s : State) (b : Bool) : Prop := Claims.at_ s r ∧ s.Alone ∧ okB (viewStages s r [{ stage0 with exhausted := true }]) (fun vs s1 =>
      s1.wants.isEmpty && backB s r s1 && (chooseStage vs r.stage).isNone && body s1 == b && (b || s1.regions == [r])) = true
    P s true ∧ P { s with regions := [r] } false := by
  refine ⟨⟨rfl, alone_of rfl, ?_⟩, rfl, alone_of rfl, ?_⟩ <;> decide +kernel

theorem witness_stage_turns :
    let P (r : Region) (e : Bool) (st : List Stage) (p : Task → Prop) : Prop :=
      Claims.at_ (stageState r e st []) r ∧ (stageState r e st []).Alone ∧ r.running = false ∧ ∃ t, (stageState r e st []).task r.seq = some t ∧ p t
    P (stageRegion id) false [stage0] (fun t => (∀ x ∈ t.stages, x.entry ≠ none) ∧ (stageRegion id).num = 0) ∧
    P (stageRegion fun r => { r with num := 1 }) false [stage0] (fun t => (∀ x ∈ t.stages, x.entry ≠ none) ∧
      (stageRegion fun r => { r with num := 1 }).num ≠ 0 ∧ t.entered = false) ∧
    P (stageRegion id) false [{ stage0 with entry := none }] (fun t => ¬∀ x ∈ t.stages, x.entry ≠ none) ∧
    P (stageRegion fun r => { r with ctl := .stage }) true [stage0] (fun t =>
      (stageRegion fun r => { r with ctl := .stage }).ctl = .stage ∧ t.entered = true) ∧
    P (stageRegion id) true [stage0] (fun _ => (stageRegion id).ctl ≠ .stage) := by
  refine ⟨⟨rfl, alone_of rfl, rfl, _, rfl, ?_⟩, ⟨rfl, alone_of rfl, rfl, _, rfl, ?_⟩, ⟨rfl, alone_of rfl, rfl, _, rfl, ?_⟩,
    ⟨rfl, alone_of rfl, rfl, _, rfl, ?_⟩, rfl, alone_of rfl, rfl, _, rfl, ?_⟩ <;> decide +kernel

theorem witness_choice :
    let e : StageView := ⟨stage0, true, 0, none, none⟩
    chooseStage [e] none = some e ∧ (e.eligible = true ∧ some 0 = some e.stage.num) ∧ ∀ x ∈ [{ e with eligible := false }], x.eligible = false := by
  refine ⟨?_, ?_, ?_⟩ <;> decide +kernel

/-! Witnesses: islands. -/

/-- Command words from fields: (lowest bit, value). -/
def ew (a b : List (Nat × Nat)) : EngWords :=
  let w (l : List (Nat × Nat)) : W64 := BitVec.ofNat 64 (l.foldl (fun n x => n + x.2 * 2 ^ x.1) 0)
  ⟨w a, w b⟩

/-- The module with commands of region r, the first in focus, x its matrix island 0. Translations for that island, streamer island 0 and
the ports are cached. -/
def engState (r : Region) (x : MIsland) (cs : List Cmd) : State :=
  let at_ (n : Nat) : Xlate := { placedXlate State.reset with blk := n }
  { stateOf r 0 with
    cmds := cs
    tasks := [{ task0 with args := [capOf 0 16384] }]
    focus := ⟨0, 0, 0, 0, 0, 1⟩
    dies := { Die.reset with cycle := 10, xlates := [placedXlate State.reset, at_ 640, at_ 704, at_ linkBlk], matrix := [(0, x)] } ::
      List.replicate 15 .reset }

/-- A running command with these words. -/
def eng (w : EngWords) (f : Cmd → Cmd) : Cmd := f { cmd0 with words := w }

/-- Its island port has nothing, and one cell stands in the region. -/
def engRegion : Region := region0 [(0, cellOf 0 [])]

/-- The one command is ready, and p holds. -/
def Ready (x : MIsland) (c : Cmd) (p : State → Prop) : Prop :=
  EngineReady (engState engRegion x [c]) c c.words ∧ p (engState engRegion x [c])

theorem eready {x : MIsland} {c : Cmd} {p : State → Prop} (h1 : c.id = 1) (h2 : c.stage = .running) (h3 : c.die = 0) (h4 : c.due ≤ 10)
    (h : p (engState engRegion x [c])) : Ready x c p :=
  ⟨⟨by simp [State.cmd, engState, h1], rfl, h2, by rw [h3]; exact h4, by rw [h3]; exact Nat.zero_lt_succ _, alone_of rfl⟩, h⟩

/-- Sixteen tokens fill a return port. -/
def full16 : List Token := List.replicate 16 (v 0)

theorem witness_command_order :
    let c := eng (ew [(56, 0x13)] []) fun c => { c with stage := .decoded }
    let m := eng (ew [(56, 0x10)] []) fun c => { c with stage := .decoded }
    let done := eng (ew [(56, 0x13)] [(31, 1)]) fun c => { c with stage := .complete, due := 9 }
    let held := { engRegion with held := true }
    let P (r : Region) (cs : List Cmd) (c : Cmd) (p : State → Prop) : Prop := (engState r .empty cs).cmd 1 = some c ∧ p (engState r .empty cs)
    P engRegion [c, { c with id := 0, stage := .complete, due := 9 }] c (fun s => c.stage = .decoded ∧ c.decodedAt < 10 ∧
      (∀ x ∈ s.cmds, x.samePort c = true → x.id < c.id → x.stage = .complete ∧ x.due < 10) ∧ c.isMul = false ∧
      islandFrozen s 0 2 0 0 = false ∧ s.region 0 0 = some engRegion ∧ engRegion.held = false) ∧
    P engRegion [c, { c with id := 0, stage := .complete, due := 10 }] c (fun s => ∃ x ∈ s.cmds, x.samePort c = true ∧ x.id < c.id ∧
      ¬x.due < 10 ∧ (x.touch (touchKt s x)).conflict (c.touch (touchKt s c)) = false) ∧
    P engRegion [c, { c with id := 0, stage := .draining }] c (fun s => ∃ x ∈ s.cmds, x.samePort c = true ∧ x.id < c.id ∧ x.stage = .draining) ∧
    P engRegion [m, { m with id := 2, stage := .running }] m (fun s => m.isMul = true ∧
      ∃ x ∈ s.cmds, x.sameIsland m = true ∧ x.isMul = true ∧ x.id ≠ m.id ∧ x.stage = .running) ∧
    P held [c] c (fun s => s.region 0 0 = some held ∧ held.held = true) ∧
    P engRegion [{ done with words := ew [(56, 0x13)] [] }] { done with words := ew [(56, 0x13)] [] } (fun _ => done.due < 10 ∧
      Cmd.done { done with words := ew [(56, 0x13)] [] } = false) ∧
    (∀ q ∈ [[], full16], let r := region0 [(0, cellOf 0 [q])]; P r [done] done (fun s => done.stage = .complete ∧ done.done = true ∧
      s.region 0 0 = some r ∧ done.doneport < (r.cell done.dcell).rt.ports.length ∧
      returnRoom r done.dcell done.doneport 10 = q.isEmpty)) ∧
    P engRegion [{ done with due := 10 }] { done with due := 10 } (fun _ => 10 ≤ 10) := by
  refine ⟨⟨?_, ?_⟩, ⟨?_, ?_⟩, ⟨?_, ?_⟩, ⟨?_, ?_⟩, ⟨?_, ?_⟩, ⟨?_, ?_⟩, fun q h => ?_, ?_, ?_⟩
  any_goals decide +kernel
  simp only [List.mem_cons, List.not_mem_nil, or_false] at h
  rcases h with rfl | rfl <;> exact ⟨by decide +kernel, by decide +kernel⟩

/-- An island whose slots 0 and 1 and tile 0 belong to the task. -/
def island (f : MIsland → MIsland) : MIsland :=
  f ⟨[(0, { Slot.empty with owner := 1, loaded := true, fmt := 10 }), (1, { Slot.empty with owner := 1, loaded := true, role := 1, fmt := 10 })],
    [(0, ⟨1, some 5, []⟩)], []⟩

theorem witness_claims :
    let claim := eng (ew [(56, 0x13), (0, 1), (38, 2)] []) id
    let drain (dst : Nat) (b : Bool) : Cmd := eng (ew [(56, 0x15)] [(54, dst)]) fun c => { c with begun := b }
    let tile (n : Nat) (a : Option (BitVec 16)) : MIsland := island fun x => { x with tiles := x.tiles ++ [(n, ⟨1, a, []⟩)] }
    let held (s : State) (c : Cmd) : Prop := let src := ((s.die 0).island 0).tile c.accTile
      let dst := ((s.die 0).island (c.f1 58 6)).tile (c.f1 54 4)
      src.owner = c.seq ∧ dst.owner = c.seq ∧ src.anchor ≠ none
    let dst (s : State) (c : Cmd) : Option (BitVec 16) := (((s.die 0).island (c.f1 58 6)).tile (c.f1 54 4)).anchor
    Ready .empty claim (fun s => claim.isLoad = false ∧ claim.claimSlots = [0, 1] ∧ claim.amask = [0] ∧
      ∀ n ∈ [0, 1], (((s.die 0).island 0).slot n).owner = 0) ∧
    Ready (island id) claim (fun s => (((s.die 0).island 0).slot 0).owner = claim.seq ∧ (((s.die 0).island 0).slot 1).owner = claim.seq ∧
      (((s.die 0).island 0).tile 0).owner = claim.seq) ∧
    Ready (tile 1 none) (drain 1 false) (fun s => held s (drain 1 false)) ∧
    Ready .empty (drain 1 false) (fun s => ¬held s (drain 1 false)) ∧
    Ready (tile 1 (some 6)) (drain 1 true) (fun s => held s (drain 1 true) ∧ dst s (drain 1 true) = some 6) ∧
    (∀ a ∈ [none, some 5], Ready (tile 1 a) (drain 1 true) (fun s => held s (drain 1 true) ∧ dst s (drain 1 true) = a ∧
      ¬((drain 1 true).f1 58 6 = 0 ∧ (drain 1 true).f1 54 4 = (drain 1 true).accTile))) := by
  refine ⟨eready rfl rfl rfl (by decide) ?_, eready rfl rfl rfl (by decide) ?_, eready rfl rfl rfl (by decide) ?_,
    eready rfl rfl rfl (by decide) ?_, eready rfl rfl rfl (by decide) ?_, fun a h => ?_⟩
  any_goals decide +kernel
  simp only [List.mem_cons, List.not_mem_nil, or_false] at h
  rcases h with rfl | rfl <;> exact eready rfl rfl rfl (by decide) (by decide +kernel)

/-- Data ports: cell 0 feeds port 0 of matrix island 0 in the order of a 64 by 64 tensor by rows. -/
def loadRegion : Region :=
  { region0 [(0, withCfg (cellOf (opWord 1 1 0 0 0) []) fun c => { c with outs := [BitVec.ofNat 32 (2 ^ 31 + 2 ^ 10), 0, 0, 0] })] with
    orders := [some [⟨0, false, false, false, 0, 64⟩, ⟨1, false, false, false, 0, 64⟩]] }

/-- An MLOAD at work on a port with k at its head. -/
def loadState (c : Cmd) (k : Token) : State :=
  { engState loadRegion .empty [c] with iports := [⟨0, 2, 0, 0, 0, 0, [k], 0, 0, none, false⟩] }

/-- An MLOAD of some role that has read l of its lane. -/
def mload (role : Nat) (l : LaneRd) (f : Cmd → Cmd) : Cmd :=
  eng (ew [(56, 0x12), (44, role)] []) fun c => f { c with lanes := [l] }

/-- What the statement of MLOAD asks at every token, with the order in p. -/
def Loads (c : Cmd) (k : Token) (p : OMap → Prop) : Prop :=
  let s := loadState c k
  s.cmd s.focus.id = some c ∧ c.die < s.dies.length ∧ s.region c.die c.rblk = some loadRegion ∧ c.stage = .running ∧ c.begun = true ∧
  loadRegion.held = false ∧ portServes s c = true ∧ c.isLoad = true ∧ (∃ l, c.lanes = [l] ∧ l.fin = false) ∧
  (∃ i, s.iports.find? (·.is c.die 2 c.isl c.rblk c.dport 0) = some i ∧ i.head 10 = some k) ∧
  (∀ i ∈ s.iports, ∀ j, i.is c.die 2 c.isl c.rblk c.dport j = true → j = 0) ∧ ∃ m, dataOrder loadRegion c.isl c.dport = some m ∧ p m

theorem loads_of {c : Cmd} {k : Token} {l : LaneRd} {p : OMap → Prop} (h : (((loadState c k).cmd 1 == some c) && c.die == 0 && c.rblk == 0 &&
    c.isl == 0 && c.dport == 0 && c.stage == .running && c.begun && c.isLoad && portServes (loadState c k) c && k.born == 0) = true)
    (hl : c.lanes = [l]) (hf : l.fin = false)
    (hp : ∀ m, dataOrder loadRegion 0 0 = some m → p m) : Loads c k p := by
  simp only [Bool.and_eq_true, beq_iff_eq] at h
  obtain ⟨⟨⟨⟨⟨⟨⟨⟨⟨h1, h2⟩, h3⟩, h4⟩, h5⟩, h6⟩, h7⟩, h8⟩, h9⟩, h10⟩ := h
  have hs : (loadState c k).iports = [⟨0, 2, 0, 0, 0, 0, [k], 0, 0, none, false⟩] := rfl
  refine ⟨h1, by rw [h2]; exact Nat.zero_lt_succ _, by rw [h2, h3]; rfl, h6, h7, rfl, h9, h8, ⟨l, hl, hf⟩, ?_, ?_, ?_⟩
  · refine ⟨⟨0, 2, 0, 0, 0, 0, [k], 0, 0, none, false⟩, by simp [hs, IPort.is, h2, h3, h4, h5], by simp [IPort.head, h10]⟩
  · intro i hi j hj; simp only [hs, List.mem_singleton] at hi; subst hi; simp [IPort.is] at hj; exact hj.2.symm
  · rw [h4, h5]
    cases hd : dataOrder loadRegion 0 0 with
    | none => have : (dataOrder loadRegion 0 0).isSome = true := by decide +kernel
              simp [hd] at this
    | some m => exact ⟨m, rfl, hp m hd⟩

theorem witness_loads :
    Loads (mload 0 .start id) (mk .hdr 10) (fun m => (mload 0 .start id).hdr = none ∧ loadHdrOk (mload 0 .start id).role m 10 = true) ∧
    Loads (mload 0 ⟨4095, 63, true, false⟩ fun c => { c with hdr := some 10 }) (v 5) (fun m => 63 < m.runLen ∧ 4095 < m.cycles ∧ hdrScale 10 = 0) ∧
    Loads (mload 3 ⟨0, 0, true, false⟩ fun c => { c with buf := List.replicate 1023 ⟨0, 0, 0⟩ }) (v (2 ^ 44 - 1)) (fun _ =>
      fieldNat (BitVec.ofNat 64 (2 ^ 44 - 1)) 44 20 = 0) ∧
    Loads (mload 0 ⟨64, 64, true, false⟩ id) (mk .eor 0) (fun m => 64 = m.runLen) ∧
    Loads (mload 0 ⟨4096, 0, true, false⟩ id) (mk .eot 0) (fun m => 4096 = m.cycles) ∧
    Loads (mload 3 ⟨0, 0, true, false⟩ fun c => { c with buf := [⟨0, 0, 0⟩] }) (mk .eot 0) (fun _ => True) := by
  refine ⟨loads_of (l := .start) ?_ rfl rfl ?_, loads_of (l := ⟨4095, 63, true, false⟩) ?_ rfl rfl ?_, loads_of (l := ⟨0, 0, true, false⟩) ?_ rfl rfl ?_,
    loads_of (l := ⟨64, 64, true, false⟩) ?_ rfl rfl ?_, loads_of (l := ⟨4096, 0, true, false⟩) ?_ rfl rfl ?_,
    loads_of (l := ⟨0, 0, true, false⟩) ?_ rfl rfl ?_⟩
  all_goals decide +kernel

theorem witness_load_commits :
    let c (role due : Nat) (buf : List LoadEl) : Cmd := eng (ew [(56, 0x12), (44, role)] []) fun c =>
      { c with stage := .commit, due := due, buf := buf, hdr := some 12 }
    let P (c : Cmd) (p : State → Prop) : Prop := (loadState c (v 0)).cmd 1 = some c ∧ p (loadState c (v 0))
    P (c 0 11 []) (fun _ => (10 : Nat) < (c 0 11 []).due) ∧ P (c 0 10 []) (fun _ => (c 0 10 []).role ≠ 3) ∧
    P (c 0 10 [⟨1, 2, 7⟩]) (fun _ => (c 0 10 [⟨1, 2, 7⟩]).role ≠ 3 ∧ tyWidth (hdrFmt 12) = 8) ∧
    (let d := c 3 10 [⟨1, 0, 7⟩]; (engState loadRegion (island id) [d]).cmd 1 = some d ∧ d.role = 3 ∧
      (((engState loadRegion (island id) [d]).die 0).island 0 |>.tile (d.f0 40 4)) = ⟨1, some 5, []⟩) := by
  refine ⟨⟨?_, ?_⟩, ⟨?_, ?_⟩, ⟨?_, ?_⟩, ?_, ?_⟩ <;> decide +kernel

theorem witness_multiplications :
    let c (eop item : Nat) (begun : Bool) : Cmd :=
      eng (ew [(56, eop), (16, 2), (40, 1)] []) fun c => { c with begun := begun, item := item }
    let one (begun : Bool) : Cmd := eng (ew [(56, 0x10), (16, 1), (40, 1)] []) fun c => { c with begun := begun }
    let kt (s : State) (c : Cmd) : Nat := classKt (((s.die 0).island 0).slot (c.aSlot c.item)).fmt
    (∀ e ∈ [0x10, 0x11], Ready (island id) (c e 0 true) (fun s => (c e 0 true).isMul = true ∧ s.region 0 0 = some engRegion ∧ kt s (c e 0 true) ≠ 0 ∧
      (c e 0 true).item + 1 < (c e 0 true).steps ∧ engRegion.held = false)) ∧
    Ready (island id) (one true) (fun s => kt s (one true) ≠ 0 ∧ (one true).steps ≤ (one true).item + 1) ∧
    (∀ e ∈ [0x10, 0x11], Ready .empty (c e 0 false) (fun s => mulOk (c e 0 false) ((s.die 0).island 0) = false)) ∧
    Ready (island id) (one false) (fun s => mulOk (one false) ((s.die 0).island 0) = true ∧ (one false).eop = 0x10) := by
  refine ⟨fun e h => ?_, eready rfl rfl rfl (by decide) (by decide +kernel), fun e h => ?_, eready rfl rfl rfl (by decide) (by decide +kernel)⟩ <;>
    (simp only [List.mem_cons, List.not_mem_nil, or_false] at h; rcases h with rfl | rfl) <;>
    exact eready rfl rfl rfl (by decide) (by decide +kernel)

theorem witness_norm :
    let c (b : Bool) : Cmd := eng (ew [(56, 0x16)] []) fun c => { c with begun := b, reading := if b then some ⟨1, some 5, []⟩ else none }
    let tile (s : State) (c : Cmd) : Tile := ((s.die 0).island 0).tile c.accTile
    let room (s : State) (c : Cmd) : Prop := ∀ r, s.region 0 0 = some r → r.held = false ∧
      ∀ j < 2 ^ c.f0 31 3, returnRoom r (c.f0 17 14 + j) (c.f0 15 2) 10 = true
    (∀ b ∈ [true, false], Ready (island id) (c b) (fun s => (c b).isLoad = false ∧ s.region 0 0 = some engRegion ∧ room s (c b) ∧
      (b = true → (c b).reading = some (tile s (c b))) ∧ (tile s (c b)).owner = (c b).seq ∧ (tile s (c b)).anchor ≠ none)) ∧
    Ready .empty (c false) (fun s => (tile s (c false)).owner ≠ (c false).seq) ∧
    (let r := region0 [(0, cellOf 0 [full16])]; EngineReady (engState r (island id) [c true]) (c true) (c true).words ∧
      returnRoom r ((c true).f0 17 14) ((c true).f0 15 2) 10 = false) := by
  refine ⟨fun b h => ?_, eready rfl rfl rfl (by decide) (by decide +kernel), ⟨?_, rfl, rfl, by decide +kernel, by decide +kernel, alone_of rfl⟩, by decide +kernel⟩
  · have hr (c : Cmd) (x : MIsland) : ∀ r, (engState engRegion x [c]).region 0 0 = some r → r = engRegion := by
      intro r h; exact (Option.some.inj (h : some engRegion = some r)).symm
    simp only [List.mem_cons, List.not_mem_nil, or_false] at h
    rcases h with rfl | rfl <;> refine eready rfl rfl rfl (by decide) ⟨by decide +kernel, rfl, fun r h => ?_, by decide +kernel⟩ <;>
      (rw [hr _ _ r h]; decide +kernel)
  · decide +kernel

/-! Witnesses: streamer commands. -/

/-- What an engine access that goes on leaves. -/
def okE {α : Type} (x : ERes α) (p : α → State → Bool) : Bool := match x with | .ok a s => p a s | .stop _ => false

theorem okE_of {α : Type} {x : ERes α} {p : α → State → Bool} (h : okE x p = true) : ∃ a s, x = .ok a s ∧ p a s = true := by
  cases x with
  | ok a s => exact ⟨a, s, rfl, h⟩
  | stop s => simp [okE] at h

/-- A streamer command with these parameters, its source at byte 0 and its destination at byte 2,048 of slot 0. -/
def str (eop : Nat) (ps : List Nat) (f : Cmd → Cmd) : Cmd :=
  eng (ew [(56, eop)] [(32, 2048), (0, 2)]) fun c => f { c with target := 3, params := ps.map (BitVec.ofNat 64) }

/-- Its state, with words of n bytes in memory. -/
def strState (c : Cmd) (a n : Nat) (ws : List Nat) : State := poke (engState engRegion .empty [c]) a n ws

theorem strReady {c : Cmd} {a n : Nat} {ws : List Nat} (h1 : c.id = 1) (h2 : c.stage = .running) (h3 : c.die = 0) (h4 : c.due ≤ 10) :
    EngineReady (strState c a n ws) c c.words :=
  ⟨by simp [State.cmd, strState, poke, engState, h1], rfl, h2, by rw [h3]; exact h4, by rw [h3]; exact Nat.zero_lt_succ _, alone_of rfl⟩

theorem witness_streamer_phases :
    let P (c : Cmd) (ws : List Nat) (p : State → Bool) : Prop := EngineReady (strState c 128 8 ws) c c.words ∧ c.isLoad = false ∧
      (Instr.copy c.words, copyOp) ∈ streamerOps c.words ∧ (strState c 128 8 ws).region 0 0 = some engRegion ∧ p (strState c 128 8 ws) = true
    let opened (s : State) (c : Cmd) : Bool := !islandFrozen s c.die c.target c.isl c.rblk
    let fresh := str 0x20 [] fun c => { c with begun := false }
    let checked := str 0x20 [64, 0, 0, 0, 0, 0, 0, 0] fun c => { c with begun := false }
    (∀ n ∈ [0, 64], P fresh [n] (fun s => opened s fresh && !fresh.begun && okE (readParams s fresh) fun ps u =>
      copyOp.ok u engRegion { fresh with params := ps } == (n == 64))) ∧
    P checked [] (fun s => opened s checked && okE (checkRanges s checked (copyOp.ranges s checked)) fun _ u =>
      okE (copyOp.check u checked) fun c' _ => c'.id == checked.id && c'.die == checked.die) ∧
    (∀ n ∈ [64, 128], let c := str 0x20 [n, 0, 0, 0, 0, 0, 0, 0] id
      P c [] (fun s => opened s c && c.begun && okE (copyOp.step s c) fun x _ => x.1 == (n == 64) && x.2.2.id == c.id && x.2.2.die == c.die)) ∧
    (let c := str 0x20 [] id
     islandFrozen { strState c 0 8 [] with iports := [⟨0, 3, 0, 0, 0, 0, [], 0, 0, none, true⟩] } 0 3 0 0 = true) := by
  refine ⟨fun n h => ?_, ⟨strReady rfl rfl rfl (by decide), rfl, by simp [streamerOps], rfl, by decide +kernel⟩, fun n h => ?_, by decide +kernel⟩ <;>
    (simp only [List.mem_cons, List.not_mem_nil, or_false] at h; rcases h with rfl | rfl) <;>
    exact ⟨strReady rfl rfl rfl (by decide), rfl, by simp [streamerOps], rfl, by decide +kernel⟩

/-- The command reads n bytes at lo of its source, then writes what f makes of them at lo' of its destination. -/
def moves (s : State) (c : Cmd) (lo n step lo' : Nat) (f : List Byte → List Byte) : Bool :=
  okE (engineRead c (c.mode false false) (c.src s).oid (c.srcAt s + lo) n rRead step s) fun bs s1 =>
    okE (engineWrite c (c.mode false false) (c.dst s1).oid (c.dstAt s1 + lo') (f bs) rWrite c.item s1) fun _ _ => true

theorem witness_streamer_steps :
    let s (c : Cmd) (ws : List Nat) : State := strState c 0 4 ws
    (let c : Cmd := { str 0x20 [65] fun c => { c with item := 1 } with words := ew [(56, 0x20), (0, 1)] [(32, 2048)] }
     copyTags (s c []) c = false ∧ c.resf = false ∧ 64 * c.item < (c.par 0).toNat ∧ moves (s c []) c 64 1 1 64 id = true) ∧
    (let c := str 0x21 [1, 9 + 9 * 2 ^ 8, 2 ^ 12] id
     c.item < c.pf 0 0 32 ∧ moves (s c [5]) c 0 4 0 0 (fun bs => natLe 4 (chainElem c (leNat bs)).bits) = true) ∧
    (let c := str 0x24 [4] fun c => { c with item := 1, book := List.replicate 16 0 }
     2 * c.item + 1 < c.rows ∧ moves (s c []) c 4 4 1 1 (fun bs => bs.take 1) = true ∧ (c4Code c.book (decodeF 11 0)).1.isSome = true) ∧
    (let c := str 0x22 [1 + 2 * 2 ^ 32, 1 + 2 ^ 32 * 4] fun c => { c with item := 1, acc := [0, 0] }
     c.item < c.rows * c.cols ∧ elemZero c.etype 0 = true ∧ elemZero c.etype 7 = false ∧ c.acc.headD 0 ≠ c.nzmax ∧
     (∀ ws ∈ [[0, 0, 0, 0], [7, 7, 7, 7]], okE (engineRead c (c.mode false false) (c.src (s c ws)).oid (c.srcAt (s c ws) + c.item * c.elSize) c.elSize rRead 0
       (s c ws)) (fun bs s1 => elemZero c.etype (leNat bs) == (ws == [0, 0, 0, 0]) && okE (csrWrite c 0 c.elSize 7 0 s1) fun _ s2 =>
         okE (csrWrite c c.csrV 4 1 0 s2) fun _ _ => true) = true)) ∧
    (let c := str 0x22 [1 + 2 * 2 ^ 32, 1 + 2 ^ 32 * 4] fun c => { c with item := 4, acc := [0, 0] }
     c.rows * c.cols + c.rows < c.item ∧ okE (csrWrite c c.csrS 8 0 1 (s c [])) (fun _ _ => true) = true) ∧
    (let c := str 0x23 [1 + 2 * 2 ^ 32, 1 + 2 ^ 32 * 4] fun c => { c with acc := [0, 1, 1] }
     okE (rowValues c (c.acc.getD 0 0) (s c [7]) (c.acc.getD 1 0 - c.acc.getD 0 0) (List.replicate c.cols 0)) (fun row s1 =>
       okE (engineWrite c (c.mode false false) (c.dst s1).oid (c.dstAt s1) (row.flatMap (natLe c.elSize)) rWrite 0 s1) fun _ _ => true) = true) ∧
    (let c := { str 0x24 [0] id with words := ew [(56, 0x24), (32, 8)] [(32, 2048)] }
     c.item < stashBlocks (c.stOrder (s c [])) ∧ okE (readElems c (s c []) (c.src (s c [])) (c.srcAt (s c [])) (tyBytes c.stTy)
         ((blockElems (c.stOrder (s c [])) 0).map (denseIndex (c.stOrder (s c []))))) (fun vs s1 =>
       okE (engineWrite c (c.mode true false) (c.dst s1).oid (c.dst s1).cursor (stashEncode c.stW c.stTy (vs.map (decodeF c.stTy))).1
         (rStash ||| rWrite) 0 s1) fun _ _ => true) = true ∧
      okE (engineRead c (c.mode true false) (c.src (s c [])).oid (c.src (s c [])).cursor c.blockBytes (rStash ||| rRead) 0 (s c [])) (fun bs s1 =>
       okE (writeElems c s1 (c.dst s1) (c.dstAt s1) (tyBytes c.stTy) ((blockElems (c.stOrder (s c [])) 0).map fun i =>
         (denseIndex (c.stOrder (s c [])) i, stashDecode (leNat bs) c.stW (i % 32) c.stTy))) fun _ _ => true) = true) := by
  refine ⟨?_, ?_, ?_, ?_, ?_, ?_, ?_⟩ <;> decide +kernel

set_option maxRecDepth 20000 in
theorem witness_fprint : let c := str 0x26 [1] id
    moves (strState c 0 4 []) c 0 4096 0 0 (fun bs => (List.replicate 16 0).take bs.length) = true := by decide +kernel

theorem witness_streamer_ends :
    let s (c : Cmd) : State := strState c 0 4 []
    (∀ n ∈ [0, 1], let c := str 0x27 [n] id
      ((c.par 0).toNat ≤ c.item ↔ n = 0) ∧ okE (findTwin c c.item (s c) (List.range c.item) 0) (fun x s1 => x.1 == c.item &&
        okE (engineWrite c (c.mode false false) (c.src s1).oid (c.srcAt s1 + 32 * n) (natLe 4 0) rWrite 0 s1) fun _ _ => true) = true) ∧
    (∀ i ∈ [1, 2], let c := str 0x25 [128] fun c => { c with item := i, acc := [1, 0, 1, 2048, 0, 0] }
      (c.xlen ≤ 64 * c.item ↔ i = 2) ∧ beatHeld (s c) c = false) ∧
    (let c := str 0x25 [129] fun c => { c with item := 1, acc := [1, 0, 1, 2048, 0, 0] }
     64 * c.item + 64 < c.xlen ∧ c.buf = [] ∧ c.xDstView = false ∧ okE (putRead c (s c) 64 64) (fun bs _ => decide (bs.length < 256)) = true) ∧
    (let c := str 0x25 [64] fun c => { c with acc := [1, 0, 1, 2048, 0, 0], buf := List.replicate 64 ⟨7, 0, 0⟩ }
     64 * c.item < c.xlen ∧ beatHeld (s c) c = false ∧ okE (getRead c (s c) 0 (min 64 (c.xlen - 0))) (fun b s1 =>
       match storeAt s1 (c.mode false false) c.xDstOid c.xDstOfs b.1 false with | .ok _ u => u.wants.isEmpty | _ => false) = true) := by
  refine ⟨fun n h => ?_, fun i h => ?_, ?_, ?_⟩
  any_goals decide +kernel
  all_goals simp only [List.mem_cons, List.not_mem_nil, or_false] at h; rcases h with rfl | rfl <;> decide +kernel

/-- Port 0 of die 0 holds a beat for an object whose page is present, or absent, to be tried again in cycle n. -/
def holdState (oid n : Nat) : State :=
  let s := engState engRegion .empty []
  { s with
    focus := .none
    module := { s.module with otlen := 3 }
    dies := s.dies.set 0 { s.die 0 with
      links := [{ LinkPort.reset 0 with hold := [⟨0, 0, 0, oid, 0, [1], false⟩], holdAt := n }]
      xlates := (s.die 0).xlates ++ [{ placedXlate State.reset with blk := linkBlk, oid := 2, pdesc := 0 }] } }

theorem witness_held_beats :
    (holdState 1 11).now 0 < ((holdState 1 11).port 0).holdAt ∧ ((holdState 1 11).port 1).hold = [] ∧
    ∀ o ∈ [1, 2], let s := holdState o 10; s.focus.port = 0 ∧ (s.port 0).hold = [⟨0, 0, 0, o, 0, [1], false⟩] ∧ (s.port 0).holdAt ≤ s.now 0 ∧
      0 < Config.narebPorts ∧
      (match landBeat s 0 ⟨0, 0, 0, o, 0, [1], false⟩ with
        | .written u => o == 1 && u.module.nrid == 0 && decide (0 < u.dies.length)
        | .held x u => o == 2 && x == 0 && decide (0 < u.dies.length)) = true := by
  refine ⟨by decide +kernel, by decide +kernel, fun o h => ?_⟩
  simp only [List.mem_cons, List.not_mem_nil, or_false] at h; rcases h with rfl | rfl <;> decide +kernel

/-! Witnesses: launch. -/

/-- The bits of a capability for object 1. -/
def routeBits : Nat := placedRoute.bits.toNat

/-- A packet whose ROUTE is the placed image, and its capabilities' tags. -/
def goodPacket : BitVec 2048 := BitVec.ofNat 2048 (routeBits * 2 ^ 512)

/-- A packet held with its own tags. -/
def heldOf (p : BitVec 2048) (tags : List Bool) (seq : Option Nat) : Held := ⟨p, tags, false, 0, seq, none, 0, 0⟩

/-- Die 0 with launch unit l, in cycle 10, with an image header at byte 0 of object 1 whose entry and trap vector are 64. -/
def launchState (l : Launch) (f : State → State) : State :=
  f { poke State.reset 0 4 [64, 64] with
    module := { Module.reset with phase := .running, otlen := 2 }
    dies := { Die.reset with
      cycle := 10
      launch := l
      xlates := [{ placedXlate State.reset with blk := launchBlk }, placedXlate State.reset] } :: List.replicate 15 .reset }

theorem witness_kicks :
    let l (reads lqn : Nat) : Launch := { Launch.reset with kicks := [0], reads := reads, lqn := BitVec.ofNat 16 lqn, nextRead := 10 }
    let stamp (s : State) : Nat := fieldNat (headPacket s (s.die 0).launch) 0 16
    let P (l : Launch) (p : State → Prop) : Prop := let s := launchState l id; s.focus.die < s.dies.length ∧ (s.die 0).launch.held = none ∧
      s.asking s.focus = false ∧ s.wants = [] ∧ needPhys s (headAt (s.die 0).launch) 256 = s ∧ p s
    P (l 0 0) (fun s => (s.die 0).launch.reads = 0 ∧ (s.die 0).launch.lqn = 0) ∧
    P { l 0 1 with kicks := [64] } (fun s => (s.die 0).launch.lqn ≠ 0 ∧ stamp s = 64 ∧ s.failing (headAt (s.die 0).launch) 256 = false) ∧
    P (l 62 1) (fun s => stamp s ≠ 0 ∧ (s.die 0).launch.reads + 1 < 64 ∧ (s.die 0).launch.reads ≠ 0 ∧ (s.die 0).launch.nextRead ≤ s.now 0) ∧
    P (l 1 1) (fun s => s.failing (headAt (s.die 0).launch) 256 = false) ∧
    (let s := launchState (l 1 1) fun s => { s with bad := [0] }
     s.failing (headAt (s.die 0).launch) 256 = true ∧ needPhys s (headAt (s.die 0).launch) 256 = s) ∧
    P (l 63 1) (fun s => stamp s ≠ 0 ∧ 64 ≤ (s.die 0).launch.reads + 1 ∧ (s.die 0).faults.recs.length < Config.faultQueueSize) ∧
    P { l 1 1 with nextRead := 11 } (fun s => s.now 0 < (s.die 0).launch.nextRead) := by
  refine ⟨?_, ?_, ?_, ?_, ?_, ?_, ?_⟩ <;> decide +kernel

/-- What the checks of a packet find. -/
def found (c : Checked) : Nat := match c with | .need .. => 0 | .bad .. => 1 | .share _ => 2 | .good .. => 3

/-- Tags of a packet that has a ROUTE alone. -/
def routeTag : List Bool := [false, false, false, false, true]

theorem witness_packets :
    let P (l : Launch) (f : State → State) (p : State → Prop) : Prop := let s := launchState l f; s.focus.die < s.dies.length ∧ s.wants = [] ∧
      needPhys s (fieldNat (s.die 0).launch.lqbase 8 48 * 256) 256 = s ∧ p s
    let h (n : Option Nat) : Held := heldOf goodPacket routeTag n
    let bad : Held := heldOf goodPacket [] (some 1)
    let far (n : Nat) (s : State) : State := { s with module := { s.module with nextSeq := n }, tasks := [task0] }
    P { Launch.reset with held := some (h none) } (far (2 ^ 22)) (fun s => (s.die 0).launch.held = some (h none) ∧ seqFree s = true) ∧
    P { Launch.reset with held := some (h none) } (far (2 ^ 22 + 1)) (fun s => seqFree s = false) ∧
    P { Launch.reset with held := some (h (some 1)) } id (fun s => found (checkPacket s 0 (h (some 1))) = 3 ∧ queueRoom s 0 (h (some 1)).queue = true) ∧
    P { Launch.reset with held := some bad } id (fun s => found (checkPacket s 0 bad) = 1) ∧
    P { Launch.reset with conts := [h none] } id (fun s => (s.die 0).launch.conts = [h none] ∧ seqFree s = true) ∧
    P { Launch.reset with conts := [h (some 1)] } id (fun s => (s.die 0).launch.conts = [h (some 1)] ∧
      found (checkPacket s 0 (h (some 1))) = 3 ∧ queueRoom s 0 (h (some 1)).queue = true) := by
  refine ⟨?_, ?_, ?_, ?_, ?_, ?_⟩ <;> decide +kernel

/-- A full task queue 0. -/
def fullQueue (s : State) : State := { s with tasks := List.replicate 4096 task0 }

theorem full_queue (s : State) : queueRoom (fullQueue s) 0 0 = false := by
  have h : (fullQueue s).tasks = List.replicate 4096 task0 := rfl
  have hp : (task0.die == 0 && task0.queue == 0) = true := by decide
  unfold queueRoom State.queueCount
  rw [h, List.filter_replicate, if_pos hp, List.length_replicate]
  decide

theorem alone_launch (l : Launch) : (launchState l id).Alone := alone_of rfl

theorem witness_full_queue :
    queueRoom (launchState .reset fullQueue) 0 0 = false ∧ queueRoom (fullQueue (ctlState (ctlRegion id) .none)) 0 0 = false :=
  ⟨full_queue _, full_queue _⟩

theorem witness_full_queue_packet :
    found (checkPacket (launchState .reset fullQueue) 0 (heldOf goodPacket routeTag (some 1))) = 3 := by decide +kernel

theorem witness_launch_registers :
    let s := stateOf (region0 []) 0
    s.focus.die < s.dies.length ∧ (fieldNat (BitVec.ofNat 64 (2 ^ 56 - 256)) 56 8 = 0 ∧ fieldNat (BitVec.ofNat 64 (2 ^ 56 - 256)) 0 8 = 0) ∧
    fieldNat (BitVec.ofNat 64 (2 ^ 40 - 1)) 40 24 = 0 ∧ fieldNat (1 : W64) 0 8 ≠ 0 ∧ fieldNat (BitVec.ofNat 64 (2 ^ 40)) 40 24 ≠ 0 ∧
    (fieldNat (BitVec.ofNat 64 (1 + 7 * 2 ^ 24)) 27 37 = 0 ∧ s.task (fieldNat (BitVec.ofNat 64 (1 + 7 * 2 ^ 24)) 0 24) = some task0) ∧
    fieldNat (BitVec.ofNat 64 (2 ^ 27)) 27 37 ≠ 0 := by decide +kernel

/-- A task in a state, alone, with die 0 in cycle n and only block 254 usable, or none. -/
def waitState (t : Task) (n bad : Nat) : State :=
  { State.reset with
    tasks := [t]
    focus := ⟨0, 0, 0, 0, 0, 1⟩
    dies := { Die.reset with cycle := BitVec.ofNat 64 n, badBlocks := List.range bad } :: List.replicate 15 .reset }

theorem witness_tasks :
    let q (n : Nat) : Task := { task0 with state := .queued, rises := n }
    let sel : Task := { task0 with state := .selected }
    (∀ n ∈ [0, 1], (waitState (q n) (2 ^ 20) 0).task 1 = some (q n) ∧ (q n).state = .queued ∧
      ((q n).rises < ((waitState (q n) (2 ^ 20) 0).now 0 - (q n).queuedAt) / 2 ^ 20 ↔ n = 0)) ∧
    ((∀ t ∈ (waitState (q 0) 0 0).tasks, ¬(t.die = 0 ∧ t.state = .selected)) ∧
      pickTask (heads (waitState (q 0) 0 0) 0) ((waitState (q 0) 0 0).die 0).launch.served = some (q 0)) ∧
    (selectedTask (waitState sel 0 254) 0 = some sel ∧ chooseRects (waitState sel 0 254) sel = some [[254]] ∧ sel.snap = none) ∧
    (selectedTask (waitState sel 0 255) 0 = some sel ∧ chooseRects (waitState sel 0 255) sel = none) ∧
    ∀ n ∈ [254, 255], (waitState sel 0 n).task 1 = some sel ∧ (waitState sel 0 n).regionsOf 1 = [] ∧
      unbindable (waitState sel 0 n) sel = (n == 255) := by
  refine ⟨?_, ?_, ?_, ?_, ?_⟩ <;> decide +kernel

/-- A controller whose first argument's object holds a packet at byte 1,024, with the tag of one of its capabilities set, and the rows of a
grouped launch at byte 2,048. -/
def spawnState (tag : Nat) (rows : List Nat) : State :=
  let s := ctlState (ctlRegion (withW 0 1024)) (capOf 0 4096)
  let s := poke (poke (poke (poke s 0 4 [64, 64]) 1088 16 [routeBits]) 2048 4 rows) 64 1 [0]
  { s with
    capTags := [tag]
    dies := s.dies.set 0 { s.die 0 with xlates := (s.die 0).xlates ++ [{ placedXlate State.reset with blk := launchBlk }] } }

/-- What SPAWN reads, with a view of the state after it. -/
def spawnB (tag : Nat) (rows : List Nat) (p : List W64 → State → Bool) : Bool :=
  let s := spawnState tag rows
  let r := ctlRegion (withW 0 1024)
  capCheck (slotOf s r (g 0)) rRead 1024 256 == none && okB (ctlReads s r (slotOf s r (g 0)) 1024 rRead 32) fun vs s1 => s1.wants.isEmpty && backB s r s1 && p vs s1

/-- The packet that was read. -/
def packetOf (vs : List W64) : BitVec 2048 := BitVec.ofNat 2048 (vs.foldr (fun v n => v.toNat + n * 2 ^ 64) 0)

theorem witness_spawn :
    let r := ctlRegion (withW 0 1024)
    let h (vs : List W64) (s1 : State) : Held := spawnHeld s1 r (packetOf vs) (spawnRun s1 r (g 0) 0 [packetOf vs]).tags 0
    Claims.at_ (spawnState 68 []) r ∧ (spawnState 68 []).Alone ∧ r.ctl = .ready 10 ∧ (Claims.opB r (g 256)).toNat = 256 ∧ (Claims.opB r (g 255)).toNat = 255 ∧
    spawnB 68 [] (fun vs s1 => seqFree s1 && queueRoom s1 0 0 && found (checkPacket s1 0 (h vs s1)) == 3) = true ∧
    spawnB 71 [] (fun vs s1 => seqFree s1 && queueRoom s1 0 0 && found (checkPacket s1 0 (h vs s1)) == 2) = true ∧
    seqFree { spawnState 68 [] with module := { Module.reset with nextSeq := 2 ^ 22 + 1 } } = false := by
  refine ⟨rfl, alone_of rfl, rfl, ?_⟩; decide +kernel

/-- A SPAWN or GRPL that waits with one packet left. -/
def waitingRun : SpawnRun := ⟨3, [goodPacket], routeTag, 0, 0, 1, 1024⟩

theorem witness_resumed_spawn :
    let r := { ctlRegion (withW 0 1024) with ctl := .spawn waitingRun }
    let s := { spawnState 68 [] with regions := [r] }
    Claims.at_ s r ∧ s.Alone ∧ seqFree s = true ∧ queueRoom s r.die waitingRun.queue = true ∧
      found (checkPacket s r.die (spawnHeld s r goodPacket waitingRun.tags waitingRun.queue)) = 3 ∧
      seqFree { s with module := { Module.reset with nextSeq := 2 ^ 22 + 1 } } = false := by
  refine ⟨rfl, alone_of rfl, ?_⟩; decide +kernel

theorem witness_grouped :
    let r := ctlRegion (withW 0 1024)
    let k (s : State) : Cap := slotOf s r (g 2048)
    let P (tag : Nat) (rows : List Nat) (p : State → BitVec 2048 → List Nat → Bool) : Prop := spawnB tag rows (fun vs s1 =>
      okB (readN32 s1 r (k s1) 2048 1) fun n s2 => n.length == 1 && decide (n.getD 0 0 ≤ 65536) &&
        okB (readN32 s2 r (k s2) 2052 (n.getD 0 0)) fun rows s3 => s3.wants.isEmpty && backB (spawnState tag rows) r s3 && p s3 (packetOf vs) rows) = true
    (Claims.opB r (g 2048)).toNat = 2048 ∧ P 68 [0] (fun _ _ rows => rows == []) ∧ ∀ x ∈ [(0, 1), (68, 3)], P x.1 [1, 64] (fun s3 p rows => rows == [64] && seqFree s3 &&
      queueRoom s3 0 (fieldNat p 24 8) && found (checkPacket s3 0 (spawnHeld s3 r (pkWithIter p 0 0 64 0) (spawnRun s3 r (g 2048) (fieldNat p 24 8) []).tags
        (fieldNat p 24 8))) == x.2) := by
  refine ⟨?_, ?_, ?_⟩ <;> decide +kernel

/-! Witnesses: the module. -/

/-- A running module with a frozen region, and f done to it. -/
def modState (f : State → State) : State := f (stateOf { region0 [] with frozen := .violation } 0)

/-- A change to die 0. -/
def onDie0 (g : Die → Die) (s : State) : State := { s with dies := s.dies.set 0 (g (s.die 0)) }

/-- A change to the module. -/
def onMod (g : Module → Module) (s : State) : State := { s with module := g s.module }

/-- A word of the bits from lo up to hi. -/
def ones (lo hi : Nat) : W64 := BitVec.ofNat 64 (2 ^ hi - 2 ^ lo)

theorem witness_registers :
    (0 < (modState id).dies.length) ∧ (fieldNat (ones 5 56) 0 5 = 0 ∧ fieldNat (ones 5 56) 56 8 = 0) ∧ fieldNat (ones 0 32) 32 32 = 0 ∧
    fieldNat (ones 0 16) 16 48 = 0 ∧ fieldNat (ones 32 64) 10 22 = 0 ∧ (fieldNat (ones 3 56) 1 2 = 0 ∧ fieldNat (ones 3 56) 56 8 = 0) ∧
    (fieldNat (ones 0 12) 12 52 = 0 ∧ (modState id).module.nridLocked = false) ∧
    (modState (onMod fun m => { m with nridLocked := true })).module.nridLocked = true ∧
    (fieldNat (6 : W64) 0 1 = 0 ∧ fieldNat (6 : W64) 3 61 = 0) ∧ ((modState id).die 0).poolUsed = 0 ∧
    0 < ((modState (onDie0 fun x => { x with poolUsed := 1 })).die 0).poolUsed ∧
    (∀ v ∈ [1000, 15000], 1000 ≤ (BitVec.ofNat 64 v).toNat ∧ (BitVec.ofNat 64 v).toNat ≤ 15000) ∧
    (∀ v ∈ [999, 15001], (BitVec.ofNat 64 v).toNat < 1000 ∨ 15000 < (BitVec.ofNat 64 v).toNat) ∧
    (fieldNat (ones 3 25) 0 3 = 0 ∧ fieldNat (ones 3 25) 25 39 = 0) ∧ (fieldNat (ones 6 56) 0 6 = 0 ∧ fieldNat (ones 6 56) 56 8 = 0) ∧
    (fieldNat (3 : W64) 2 6 = 0 ∧ fieldNat (3 : W64) 16 48 = 0) ∧ (reservedBits 0x100 = some 0xFF0000000000001F ∧ (1 : W64) &&& 0xFF0000000000001F ≠ 0) ∧
    reservedBits 0x102 = none := by
  refine ⟨?_, ?_, ?_, ?_, ?_, ?_, ?_, ?_, ?_, ?_, ?_, ?_, ?_, ?_, ?_, ?_, ?_, ?_⟩ <;> decide +kernel

theorem witness_fault_queue :
    let s := modState (onDie0 fun x => { x with faults := { x.faults with recs := [5] } })
    let last : W64 := BitVec.ofNat 64 (0x6000000000 - 64)
    ((s.die 0).faults.recs = [5] ∧ s.memOk ∧ last.toNat % 64 = 0 ∧ s.isBacked last.toNat = true ∧ s.isLocal last.toNat = true) ∧
    ((modState id).die 0).faults.recs = [] ∧ (32 : W64).toNat % 64 ≠ 0 ∧ 2 ^ 56 ≤ (ones 56 57).toNat ∧
    s.isBacked (BitVec.ofNat 64 0x6000000000).toNat = false ∧ fieldNat (ones 0 33) 33 31 = 0 ∧ fieldNat (ones 33 34) 33 31 ≠ 0 ∧
    (∀ k < 4, (5 : W64) * 64 * 2 ^ 10 &&& aperReserved k = 0 ∨ (1 : W64) &&& aperReserved k = 0) ∧ aperXfOk 5 = true ∧ aperXfOk 6 = false ∧
    (5 : W64) &&& aperReserved 3 = 0 ∧ (6 : W64) &&& aperReserved 3 = 0 ∧ ∀ k < 4, ones 0 64 &&& aperReserved k ≠ 0 := by
  refine ⟨⟨?_, ?_, ?_⟩, ?_⟩ <;> first | decide +kernel | rfl

/-- MCTL or PRE names block 0 and task 1. -/
def task1 : W64 := BitVec.ofNat 64 (2 ^ 16)

theorem witness_masters :
    let s := modState id
    let wait := modState fun s => { s with tasks := [{ task0 with state := .waiting }] }
    let port (n : Nat) (s : State) : State := { s with iports := [⟨0, n + 2, 5, 0, 0, 0, [], 0, 0, none, true⟩] }
    let named (n : Nat) : W64 := BitVec.ofNat 64 (2 ^ 16 + (n + 1) * 2 ^ 14 + 5)
    (∀ n ∈ [0, 1], fieldNat (named n) 14 2 = n + 1 ∧ (port n s).iports.any (mctlPorts (port n s) 0 (named n)) = true ∧
      s.iports.all (fun i => !mctlPorts s 0 (named n) i) = true) ∧
    (fieldNat (BitVec.ofNat 64 (3 * 2 ^ 14)) 14 2 = 3 ∧ (modState (onMod fun m => { m with hostFrozen := true })).module.hostFrozen = true ∧
      s.module.hostFrozen = false) ∧
    (fieldNat task1 48 14 = 0 ∧ fieldNat task1 14 2 = 0 ∧ fieldNat task1 16 24 = 1 ∧ fieldNat (ones 48 49) 48 14 ≠ 0) ∧
    (∃ r, s.region 0 (fieldNat task1 0 14) = some r ∧ r.seq = fieldNat task1 16 24 ∧ r.frozen ≠ .no ∧ faultWaits s r = false) ∧
    (fieldNat (2 * task1) 14 2 = 0 ∧ ∀ r, s.region 0 (fieldNat (2 * task1) 0 14) = some r → r.seq ≠ fieldNat (2 * task1) 16 24 ∨ r.frozen = .no) ∧
    (∃ x, wait.task (fieldNat task1 16 24) = some x ∧ x.die = 0 ∧ x.state = .waiting) ∧
    ∀ x, s.task (fieldNat task1 16 24) = some x → x.die ≠ 0 ∨ x.state ≠ .waiting := by
  refine ⟨by decide +kernel, by decide +kernel, by decide +kernel, ⟨{ region0 [] with frozen := .violation }, rfl, rfl, by decide, by decide +kernel⟩, ?_, ⟨{ task0 with state := .waiting }, rfl, rfl, rfl⟩, ?_⟩ <;>
    decide +kernel

/-- The bound task, its region stopped or not, its task with a pre-emption or a state. -/
def preTaskState (held : Bool) (f : Task → Task) : State :=
  { stateOf { region0 [] with held := held } 0 with tasks := [f task0], focus := ⟨0, 0, 0, 0, 0, 1⟩ }

theorem witness_windows :
    let w (n : Nat) : Task → Task := fun t => { t with state := .window n }
    let late (n : Nat) : State := onDie0 (fun x => { x with cycle := BitVec.ofNat 64 n }) (preTaskState false (w 10))
    let drain (n : Nat) : Task → Task := fun t => { t with pre := .drain (some n) }
    ((late 4106).task 1 = some (w 10 task0) ∧ 10 + 4096 ≤ (late 4106).now 0 ∧
      ((late 4106).tasks.filter fun t => t.die == 0 && t.state == .waiting).length < 256) ∧
    ((10 : Nat) < (late 11).now 0 ∧ ∀ r ∈ (late 11).regions, r.seq = 1 → ∀ c ∈ r.cells, c.2.rt.fired ≠ 12) ∧
    ((late 10).now 0 < 10 + 4096 ∧ (late 10).now 0 ≤ 10) ∧
    (let s := preTaskState false id
     fieldNat (1 : W64) 26 6 = 0 ∧ (s.die 0).faults.preState ≠ 1 ∧ s.task (fieldNat (1 : W64) 0 24) = some task0 ∧ task0.die = 0 ∧ task0.state = .bound ∧
      frozenMaster s 1 = false ∧ fieldNat (1 : W64) 32 30 = 0 ∧ preTask s 0 2 = none) ∧
    fieldNat (ones 26 27) 26 6 ≠ 0 ∧
    ((preTaskState false (drain 10)).task 1 = some (drain 10 task0) ∧ 10 ≤ (preTaskState false (drain 10)).now 0 ∧
      ∃ r ∈ (preTaskState false (drain 10)).regions, r.seq = 1 ∧ r.held = false) ∧
    (preTaskState false (drain 11)).now 0 < 11 ∧ ∀ r ∈ (preTaskState true (drain 10)).regions, r.seq = 1 → r.held = true := by
  refine ⟨?_, ?_, ?_, ?_, ?_, ?_, ?_, ?_⟩ <;> decide +kernel

theorem witness_host :
    let s := modState id
    let start := modState (onMod fun m => { m with phase := .starting })
    s.module.hostFrozen = false ∧ s.memOk ∧ s.module.phase = .running ∧ start.module.phase ≠ .running ∧
    (0x1FFFFF8 % 8 = 0 ∧ 0x1FFFFF8 < 0x2000000) ∧ ¬(0x1FFFFF8 % 0x200000 / 8 = 0x203) ∧ ¬16 ≤ (s.die 0).launch.kicks.length ∧
    0x6000000000 - 1 + [1].length ≤ 0x6000000000 ∧ localBacked s.module (0x6000000000 - 1) = true ∧
    (∀ g ∈ granules (0x6000000000 - 1) 1, g ∉ s.bad) ∧ (∃ g ∈ granules (0x6000000000 - 1) 1, g ∈ [(0x6000000000 - 1) / 64]) ∧
    0x6000000000 < 0x6000000000 + 1 ∧ (s.die 0).faults.recs.length < Config.faultQueueSize ∧ 0 < s.dies.length ∧
    (modState (onMod fun m => { m with hostFrozen := true })).module.hostFrozen = true := by
  refine ⟨rfl, rfl, ?_⟩; decide +kernel

/-- A flit of some kind for n bytes at the last n bytes of bonded memory of this module. -/
def flit0 (kind n : Nat) (body : List Byte) : Flit :=
  ⟨0, 1, BitVec.ofNat 4 kind, 7, 0, 0, 0, natLe 7 (0x6000000000 - n) ++ natLe 1 n ++ body⟩

theorem witness_flits :
    let s (up retry : Bool) : State := modState (onDie0 fun x => { x with links := [{ LinkPort.reset 0 with up := up, retry := retry }] })
    ((s false false).port 0).up = false ∧ (s true true).focus.port = 0 ∧ 0 < Config.narebPorts ∧
    (∀ b ∈ [true, false], ((s true b).port 0).up = true ∧ ((s true b).port 0).hold = [] ∧ ((s true b).port 0).retry = b) ∧
    (let held := modState (onDie0 fun x => { x with links := [{ LinkPort.reset 0 with hold := [⟨0, 0, 0, 1, 0, [1], false⟩] }] })
     (held.port 0).up = true ∧ (held.port 0).hold ≠ []) ∧
    (s true false).memOk ∧ (s true false).portsUp ≠ [] ∧ (s true false).puts = [] ∧ (s true false).failing (0x6000000000 - 64) 64 = false ∧
    ({ s true false with bad := [(0x6000000000 - 64) / 64] } : State).failing (0x6000000000 - 64) 64 = true ∧
    Claims.silent (s true false) (homeDie (paLocal (0x6000000000 - 64))) ∧ (∀ m ∈ (s true false).monitors, m.peer = none) ∧
    ((s true true).die 0).faults.recs.length < Config.faultQueueSize ∧
    (∀ n ∈ [1, 64], let f := flit0 0 n []; leNat (f.payload.take 7) = 0x6000000000 - n ∧ (f.payload.getD 7 0).toNat = n ∧
      physBacked (s true false) (0x6000000000 - n) n = true) ∧
    (flit0 2 8 (List.replicate 8 1)).kind = 2 ∧ ((flit0 2 8 (List.replicate 8 1)).payload.drop 8).length = 8 ∧
    (flit0 4 8 [7]).kind = 4 ∧ ((flit0 4 8 [7]).payload.getD 8 0).toNat < 8 := by
  refine ⟨?_, ?_, ?_, ?_, ?_, rfl, ?_, ?_, ?_, ?_, rfl, ?_, ?_⟩ <;> decide +kernel

theorem witness_starts :
    let s (k a : Nat) (w c off : Bool) : State :=
      { State.reset with module := { Module.reset with step := k, attempts := a, warm := w, clr := c, off := off } }
    let parts (f : Parts → Parts) (k : Nat) : State :=
      { State.reset with module := { Module.reset with step := k, parts := f Module.reset.parts } }
    let none : List (Nat × Nat) := (List.range 256).map fun b => (0, b)
    let usable (s : State) : Bool := s.dies.all fun x => !x.usable.isEmpty
    (modState id).module.phase ≠ .starting ∧ ((s 1 0 false false false).module.phase = .starting ∧ (s 1 0 false false false).module.off = false) ∧
    (∀ k ∈ [1, 2, 3, 4, 5, 6, 7], k ∈ (parts (fun p => { p with faults := [k] }) k).module.parts.faults ∧
      (s k 0 false false false).module.parts.faults = []) ∧
    (usable (readFuses (s 1 0 false false false)) = true ∧ usable (readFuses (parts (fun p => { p with fusedBlocks := none }) 1)) = false) ∧
    (usable (selfTest (s 3 0 false false false)) = true ∧ usable (selfTest (parts (fun p => { p with testBlocks := none }) 3)) = false) ∧
    (s 5 0 false false false).module.cold = true ∧
    (∀ k ∈ [2, 3, 4, 5, 6], (s k 0 false false false).module.step = k) ∧
    ((s 5 0 false false false).module.warm = false ∧ (s 5 1 true false false).module.attempts ≠ 0 ∧ (s 5 0 true true false).module.clr = true) ∧
    ((s 5 0 true false false).module.warm = true ∧ (s 5 0 true false false).module.attempts = 0 ∧ (s 5 0 true false false).module.clr = false) ∧
    (∀ x ∈ (s 7 0 false false false).dies, x.usable ≠ []) ∧ (s 1 0 false false true).module.off = true := by
  refine ⟨by decide, ⟨rfl, rfl⟩, by decide +kernel, by decide +kernel, by decide +kernel, rfl, by decide +kernel, ⟨rfl, by decide, rfl⟩, ⟨rfl, rfl, rfl⟩, fun x h => ?_, rfl⟩
  have h : x ∈ List.replicate 16 Die.reset := h
  rw [List.eq_of_mem_replicate h]
  decide +kernel

theorem witness_firmware :
    let s (f : Module → Module) : State := modState (onMod f)
    ((s id).module.phase ≠ .starting ∧ (s id).module.fwBusy = 0 ∧ (s fun m => { m with fwOfs := 2 ^ 22 - 1 }).module.fwOfs < 2 ^ 22) ∧
    (∀ n ∈ [1, 2], (s fun m => { m with fwBusy := BitVec.ofNat 2 n }).module.fwBusy = BitVec.ofNat 2 n) ∧
    (∀ b ∈ [true, false], (s fun m => { m with fwVok := b }).module.fwVok = b ∧ (s fun m => { m with fwVok := b }).module.fwBusy = 0) ∧
    State.reset.module.phase = .starting ∧ ((s id).module.attState ≠ 1 ∧ (s id).module.digest = none) ∧
    (let t := s fun m => { m with digest := some 5, attDst := BitVec.ofNat 64 (0x6000000000 - 7568) }
     t.module.digest = some 5 ∧ t.module.phase = .running ∧ t.module.attn.length = 4 ∧ t.memOk ∧ t.isLocal t.module.attDst.toNat = true ∧
       paLocal t.module.attDst.toNat + 7568 ≤ 0x6000000000) := by
  refine ⟨by decide +kernel, by decide +kernel, by decide +kernel, rfl, by decide +kernel, rfl, rfl, rfl, rfl, ?_⟩; decide +kernel

theorem witness_clock :
    let s (f : Die → Die) : State := modState (onDie0 f)
    ((s fun x => { x with stopped := true }).die 0).stopped = true ∧
    (let t := { s (fun x => { x with bookDue := [((0, 1, 2), 7)] }) with
        regions := [{ region0 [] with brkDue := some 3 }, { region0 [] with rblk := 64 }] }
     (t.die 0).stopped = false ∧ (t.die 0).bookDue = [((0, 1, 2), 7)] ∧ ∃ r y, t.regions[0]? = some r ∧ r.die = 0 ∧ r.brkDue = some 3 ∧ r.frozen = .no ∧
       t.regions[1]? = some y ∧ y.brkDue = none) ∧
    (∀ n ∈ [0, 1, 2, 3], (((s fun x => { x with cstep := BitVec.ofNat 3 n, hot := 3300000 }).die 0).cstep).toNat < 4) ∧
    ((s id).die 0).hot < 3300000 ∧ 4 ≤ ((s fun x => { x with cstep := 4 }).die 0).cstep.toNat ∧
    (10 * 2800000 ≤ ((s fun x => { x with cstep := 1, cool := 28000000 }).die 0).cool ∧
      0 < ((s fun x => { x with cstep := 1, cool := 28000000 }).die 0).cstep.toNat) ∧
    ((s id).die 0).cstep.toNat = 0 ∧ (∃ y ∈ (s fun x => { x with temp := 1840 }).dies, 115 * 16 ≤ y.temp.toNat) ∧
    ∀ y ∈ (s fun x => { x with temp := 1839 }).dies, y.temp.toNat < 115 * 16 := by
  refine ⟨?_, ⟨rfl, rfl, _, _, rfl, rfl, rfl, rfl, rfl, rfl⟩, ?_, ?_, ?_, ?_, ?_, ?_, ?_⟩ <;> decide +kernel

/-! Witnesses: the machine as a whole. -/

/-- A word placed for the first step after reset, and the words it stands for. -/
def placed (nbits w : Nat) : State := State.reset.withFetchWord nbits w

theorem witness_steps :
    (let s := placed 64 0x2132080000000005
     let r := placedRegion 64 0x2132080000000005 0
     s.agenda = [.ctl r.focus] ∧ s.region 0 0 = some r ∧ r.ctl = .ready 0 ∧ r.frozen = .no ∧ r.held = false ∧ trapDue r = none ∧
      (match fetchCtl { s with agenda := [] } r with | .ok w u => u.wants.isEmpty && !u.asking u.focus && decode64 w == some (.addw ⟨3, 2, 0, 1, 0, 5⟩) | .stop _ => false) = true) ∧
    (let s := placed 40 0x00A0000000
     let r := placedRegion 40 0x00A0000000 0
     s.agenda = [.cell r.focus] ∧ s.region 0 0 = some r ∧ r.focus.cell < r.cellCount ∧
      decode40 (r.cell r.focus.cell).cfg.op = some (.add ⟨0x08, 0, 0, 0⟩)) ∧
    (let s := placed 32 0x48699580
     let r := placedRegion 32 0x48699580 0
     let c := placedCfg 0x48699580 0
     s.agenda = [.cfg r.focus] ∧ s.region 0 0 = some r ∧ r.cfg = some c ∧ r.ctl = .cfg ∧ c.at_ = 0 ∧
      (match fetchCfg { s with agenda := [] } r c with | .ok w u => u.wants.isEmpty && !u.asking u.focus && decode32 (w.setWidth 32) == some (.extend 0x08699580) | .stop _ => false) = true) ∧
    (let s := placed 128 0x1302004000000001
     ∃ c, s.cmd 1 = some c ∧ s.agenda = [.cmd (cmdFocus 1)] ∧ decode128 c.words.w0 c.words.w1 = some (.mclaim ⟨0x1302004000000001, 0⟩)) ∧
    (let s := { State.reset with agenda := [.run .none .powerOn] }; s.agenda = [.run .none .powerOn] ∧ actorThere s .none .powerOn = true) ∧
    ({ State.reset with agenda := [] } : State).agenda = [] := by
  refine ⟨?_, ?_, ?_, ⟨placedCmd (placed 128 0x1302004000000001) (placedRegion 128 0x1302004000000001 0) 0x1302004000000001 |> fun c =>
    { c with id := 1 }, ?_⟩, ?_, ?_⟩ <;> decide +kernel

theorem reset_inv : State.reset.Inv := ⟨rfl, by
  intro x hx
  have h : x ∈ List.replicate 16 Die.reset := hx
  rw [List.eq_of_mem_replicate h]; exact Nat.zero_le _⟩

theorem witness_invariant : State.reset.Inv ∧ ∃ t, step State.reset = .next t := ⟨reset_inv, _, rfl⟩

theorem witness_encoding : (Instr.fma ⟨0x09, 0x25, 3, 0⟩).wf = true ∧ ∃ e, encode (.fma ⟨0x09, 0x25, 3, 0⟩) = some e := by
  refine ⟨by decide +kernel, _, rfl⟩

/-! Witnesses: where instructions and steps complete. -/

/-- A state in which a step has neither wanted nor sent anything of other modules, region r still in focus. -/
def thereB (s : State) (r : Region) (s1 : State) : Bool := s1.wants.isEmpty && s1.puts.isEmpty && backB s r s1

theorem witness_controller_completions :
    (let r := stageRegion id; let s := stateOf r 0; let q := stageState r false [] (queueWords 0 0 [])
     Claims.at_ s r ∧ s.Alone ∧ r.running = false ∧ okB (ctlReads q r (q.arg r.seq 0) 1024 rRead 8) (fun _ s1 => thereB q r s1) = true) ∧
    (let r := stageRegion id; let s := stageState r true [stage0] []
     okB (viewStages s r [stage0]) (fun vs s1 => thereB s r s1 && match chooseStage vs r.stage with
       | some v => okB (openQueues s1 r v) fun _ s2 => thereB s r s2
       | none => false) = true) ∧
    (let r := ctlRegion (withW 0 64); let s := ctlState r (capOf 0 4096); let k := capOf 0 4096
     okB (ctlWrites s r k 64 rWrite r.w) (fun _ => thereB s r) = true ∧
     okB (ctlWrites s r k 64 rWrite (r.i.map (·.setWidth 64) ++ [r.st])) (fun _ => thereB s r) = true ∧
     okB (ctlReads s r k 64 rRead 16) (fun _ => thereB s r) = true ∧ okB (ctlReads s r k 64 rRead 5) (fun _ => thereB s r) = true) ∧
    (sysState [] .no).region 0 2 = none ∧
    (let r := ctlRegion (withW 0 1024); let s := spawnState 68 [0]
     (∀ x, r.ctl ≠ .spawn x) ∧ spawnB 68 [0] (fun _ s1 => thereB s r s1 && okB (readN32 s1 r (slotOf s1 r (g 2048)) 2048 1) fun n s3 =>
       n == [0] && thereB s r s3) = true) := by
  refine ⟨⟨rfl, alone_of rfl, rfl, ?_⟩, ?_, ?_, ?_, fun _ => by rintro ⟨⟩, ?_⟩ <;> decide +kernel

theorem witness_module_completions :
    let l : Launch := { Launch.reset with kicks := [64], reads := 1, lqn := 1, nextRead := 10 }
    let s := launchState l id
    s.focus.die < s.dies.length ∧ (launchState l id).Alone ∧ l.lqn ≠ 0 ∧ l.held = none ∧ l.reads ≠ 0 ∧ l.nextRead ≤ s.now 0 ∧
      needPhys s (headAt l) 256 = s ∧ s.failing (headAt l) 256 = false ∧ fieldNat (headPacket s l) 0 16 = 64 := by
  refine ⟨by decide, alone_of rfl, ?_⟩; decide +kernel

theorem witness_start_completions : ∀ k ∈ [1, 2, 3, 4, 5], let s := { State.reset with module := { Module.reset with step := k } }
    s.module.phase = .starting ∧ s.module.off = false ∧ s.module.parts.faults = [] ∧ 1 ≤ s.module.step ∧ s.module.step ≤ 6 ∧ s.module.step ≠ 6 := by
  decide +kernel

/-- The last step of a streamer command: it completes, and the command stays in the list. -/
def lastB (e : Streamed) (c : Cmd) (ws : List Nat) : Bool :=
  let s := strState c 0 4 ws
  !islandFrozen s c.die c.target c.isl c.rblk && c.begun &&
    okE (e.step s c) fun x u => x.1 && x.2.2.id == c.id && u.wants.isEmpty && u.cmd s.focus.id == some c

theorem witness_island_completions :
    (normItem ⟨1, some 5, []⟩ false 1 4161).2.2 = true ∧
    lastB copyOp (str 0x20 [64] id) [] = true ∧ lastB chainSteps (str 0x21 [1, 9 + 9 * 2 ^ 8, 2 ^ 12] id) [5] = true ∧
    lastB stashSteps (str 0x24 [0] fun c => { c with item := 1024 }) [] = true ∧
    lastB toCsrSteps (str 0x22 [1 + 2 * 2 ^ 32, 1 + 2 ^ 32 * 4] fun c => { c with item := 4, acc := [0, 0] }) [] = true ∧
    lastB fromCsrSteps (str 0x23 [1 + 2 * 2 ^ 32, 1 + 2 ^ 32 * 4] fun c => { c with acc := [0, 1, 1] }) [7] = true ∧
    lastB toC4Steps (str 0x24 [4] fun c => { c with item := 1, book := List.replicate 16 0 }) [] = true ∧
    lastB dedupSteps (str 0x27 [0] id) [] = true ∧
    lastB (xferOp putStep) (str 0x25 [128] fun c => { c with item := 2, acc := [1, 0, 1, 2048, 0, 0] }) [] = true ∧
    lastB (xferOp getStep) (str 0x25 [128] fun c => { c with item := 2, acc := [1, 0, 1, 2048, 0, 0] }) [] = true ∧
    lastB restoreSteps { str 0x24 [0] (fun c => { c with item := stashBlocks (c.stOrder (strState c 0 4 [])) - 1 }) with
      words := ew [(56, 0x24), (32, 8)] [(32, 2048)] } [] = true := by
  refine ⟨?_, ?_, ?_, ?_, ?_, ?_, ?_, ?_, ?_, ?_, ?_⟩ <;> decide +kernel

set_option maxRecDepth 20000 in
theorem witness_fprint_completes : lastB fprintSteps (str 0x26 [1] id) [] = true := by decide +kernel

/-! Words written out from the encoding tables. -/

/-- Tables 1.1 and 8.1: WRITE kind 00, cell 7, field 0, value; EXTEND kind 01; the three SELECTs; TOKEN, START and END. -/
theorem test_decode_commands :
    decode32 0b00_00000000000111_000000_0000000101#32 = some (.write 7 0 5) ∧
    decode32 0b01_000000000000001111111000000000#32 = some (.extend 0xFE00) ∧
    decode32 0b10_00_00000000000000_00000000111110#32 = some (.selectBase 62) ∧
    decode32 0b10_01_00000000000010_00000000000011#32 = some (.selectRepeat 2 3) ∧
    decode32 0b10_10_0000_0001_0000_0001_000000000000#32 = some (.selectBmask 0 1 0 1) ∧
    decode32 0b11_00_011_00000000000101_10_000001001#32 = some (.token 3 5 2 9) ∧
    decode32 0b11_01_000_00000000000101_01_000000000#32 = some (.start 5 1) ∧
    decode32 0b11_10_0000000000000000000000000000#32 = some .cfgEnd := by decide

/-- The stream of "A broadcast worked out" (chapter 8). -/
theorem test_decode_broadcast_example :
    [0xA0101000#32, 0x00054001#32, 0x90008003#32, 0x4000FE00#32, 0x000A4400#32, 0x8000003E#32, 0x00034007#32].map decode32 =
    [some (.selectBmask 0 1 0 1), some (.write 5 16 1), some (.selectRepeat 2 3), some (.extend 0xFE00), some (.write 10 17 0),
      some (.selectBase 62), some (.write 3 16 7)] := by decide

/-- Code 3 of SELECT and CONTROL, a stride of 0, rows that cross, token kind 7 and nonzero reserved bits (R8, R91). -/
theorem test_decode_commands_refused :
    [0xB0000000#32, 0xF0000000#32, 0x90000003#32, 0xA1001000#32, 0xCE000000#32, 0xE0000001#32, 0xD0000001#32, 0x80004000#32,
      0xA0101001#32].map decode32 = List.replicate 9 none := by decide

/-- Table 8.12, opcode [63:56], with the formats of Table 8.11. -/
theorem test_decode_controller_configuration :
    decode64 0b00000001_00000000_0000000000000000000000000101_00000000000000000111#64 = some (.cfg ⟨5, 7⟩) ∧
    decode64 0b00000011_00000000_0000000000000000000000000101_00000000000000000111#64 = some (.pcfg ⟨5, 7⟩) ∧
    decode64 0x020000000000000F#64 = some (.run ⟨15⟩) ∧ decode64 0x0400000000000000#64 = some .belay ∧
    decode64 0b00000101_0011_0000_0000_1_000_00000000_00000000000000000000000001100100#64 = some (.waitc ⟨3, 0, 0, 1, 0, 100⟩) ∧
    decode64 0b00000110_00000001_00000010_10_1_0_0000_0000_0000000000000000000000010000#64 = some (.joinReorder ⟨1, 2, 2, 0, 16⟩) ∧
    decode64 0b00000110_00000001_00000010_10_0_0_0000_0000_0000000000000000000000010000#64 = some (.joinCheck ⟨1, 2, 2, 0, 16⟩) ∧
    decode64 0x0700000000000010#64 = some (.unjoin ⟨0, 0, 0, 0, 16⟩) := by decide

theorem test_decode_controller_tasks :
    decode64 0b00001000_0001_0010_0011_0_000_00000100_00000000000000000000000000000000#64 = some (.spawn ⟨1, 2, 3, 0, 4, 0⟩) ∧
    decode64 0x0912300400000000#64 = some (.grpl ⟨1, 2, 3, 0, 4, 0⟩) ∧
    decode64 0x0A02300000000000#64 = some (.setstageDecl ⟨0, 2, 3, 0, 0, 0⟩) ∧
    decode64 0x0A00010000000000#64 = some (.setstageEnter ⟨0, 0, 0, 0, 0, 0⟩) ∧
    decode64 0x0B02300400000000#64 = some (.setqIn ⟨0, 2, 3, 0, 4, 0⟩) ∧
    decode64 0x0B02310400000000#64 = some (.setqOut ⟨0, 2, 3, 0, 4, 0⟩) ∧
    decode64 0x1800000000000000#64 = some .yieldOp ∧ decode64 0x1902300400000000#64 = some (.saveW ⟨0, 2, 3, 0, 4, 0⟩) ∧
    decode64 0x1902310400000000#64 = some (.saveIs ⟨0, 2, 3, 0, 4, 0⟩) ∧ decode64 0x1A02300400000000#64 = some (.rstrW ⟨0, 2, 3, 0, 4, 0⟩) ∧
    decode64 0x1A02310400000000#64 = some (.rstrIs ⟨0, 2, 3, 0, 4, 0⟩) := by decide

/-- The BRC of R101's example: CC = 2 and OFS = -3. -/
theorem test_decode_controller_flow :
    decode64 0x11200000FFFFFFFD#64 = some (.brc ⟨2, BitVec.ofInt 32 (-3)⟩) ∧ decode64 0x1000000000000002#64 = some (.br ⟨0, 2⟩) ∧
    decode64 0x12F0000000000002#64 = some (.loop ⟨15, 2⟩) ∧ decode64 0x1300000000000002#64 = some (.call ⟨0, 2⟩) ∧
    decode64 0x1400000000000000#64 = some .ret ∧ decode64 0x3000000000007FFF#64 = some (.trapCode 0x7FFF) ∧
    decode64 0x3000000000008000#64 = some (.trapService 0x8000) ∧ decode64 0x3100000000000000#64 = some .eret ∧
    decode64 0x3F00000000000000#64 = some .halt := by decide

theorem test_decode_controller_registers :
    decode64 0b00100000_0001_0000_0011_0_000_00000000_00000000000000000000000000000000#64 = some (.movw ⟨1, 0, 3, 0, 0, 0⟩) ∧
    decode64 0x2010080012345678#64 = some (.movw ⟨1, 0, 0, 1, 0, 0x12345678⟩) ∧ decode64 0x2010310000000000#64 = some (.movwI ⟨1, 0, 3, 0, 0, 0⟩) ∧
    decode64 0x2012020000000000#64 = some (.movwR ⟨1, 2, 0, 0, 0, 0⟩) ∧ decode64 0x2112300000000000#64 = some (.addw ⟨1, 2, 3, 0, 0, 0⟩) ∧
    decode64 0x2202300000000000#64 = some (.cmpw ⟨0, 2, 3, 0, 0, 0⟩) ∧ decode64 0x2312300400000000#64 = some (.ldw ⟨1, 2, 3, 0, 4, 0⟩) ∧
    decode64 0x2412300400000000#64 = some (.stw ⟨1, 2, 3, 0, 4, 0⟩) ∧ decode64 0x2510000000000000#64 = some (.rdst ⟨1, 0, 0, 0, 0, 0⟩) ∧
    decode64 0x2600300000000000#64 = some (.wrst ⟨0, 0, 3, 0, 0, 0⟩) ∧ decode64 0x2710000000000000#64 = some (.rdcyc ⟨1, 0, 0, 0, 0, 0⟩) ∧
    decode64 0x3812000400000000#64 = some (.setks ⟨1, 2, 0, 0, 4, 0⟩) ∧ decode64 0x3912300400000000#64 = some (.rdfq ⟨1, 2, 3, 0, 4, 0⟩) := by
  decide

/-- The words R101 refuses: a reserved condition code, a reserved bit, the all-zero word, an unassigned opcode, a COUNT of 0. -/
theorem test_decode_controller_refused :
    [0x11900000FFFFFFFD#64, 0x11200001FFFFFFFD#64, 0#64, 0x4000000000000000#64, 0x0100000000500000#64, 0x0200000000000010#64,
      0x0400000000000001#64, 0x2010030000000000#64, 0x0720000000000010#64, 0x0700002000000010#64].map decode64 =
    List.replicate 10 none := by decide

/-- Table 8.10, rows 0x00 to 0x02: ADD.I8 with SAT, DIV.N16, CMP.I32 with condition 5, CAPOFS into k1 and CAPTAG of k2. -/
theorem test_decode_integer_and_capability :
    decode40 0b000000001_00001_000000_000_00000000000000001#40 = some (.add ⟨1, 0, 0, 1⟩) ∧
    decode40 0b000000101_00110_100000_000_00000000000000000#40 = some (.div ⟨6, 0x20, 0, 0⟩) ∧
    decode40 0b000010001_00011_000001_000_00000000000000101#40 = some (.cmp ⟨3, 1, 0, 5⟩) ∧
    decode40 0b000010110_01000_000000_000_00000000000000000#40 = some (.subb ⟨8, 0, 0, 0⟩) ∧
    decode40 0b000100000_00100_010001_000_00000000000000001#40 = some (.capofs ⟨4, 0x11, 0, 1⟩) ∧
    decode40 0b000100100_01000_000000_000_00000000000000010#40 = some (.captag ⟨8, 0, 0, 2⟩) ∧
    decode40 0b000100110_00011_000000_000_00000000000000000#40 = some (.ctr ⟨3, 0, 0, 0⟩) := by decide

/-- Rows 0x04 and 0x06: FMA.F32 writing g5 and rounding by RUP (R97's example), LOG2A, CVT of I32 to F32, HDRSET. -/
theorem test_decode_float :
    decode40 0x21A6560000#40 = some (.fma ⟨9, 0x25, 3, 0⟩) ∧ decode40 0b001001100_01001_000000_000_00000000000000000#40 = some (.log2a ⟨9, 0, 0, 0⟩) ∧
    decode40 0b001100000_01001_000000_001_00000000000000011#40 = some (.cvt ⟨9, 0, 1, 3⟩) ∧
    decode40 0b001100100_00000_000000_000_00000000000001011#40 = some (.hdrset ⟨0, 0, 0, 11⟩) := by decide

/-- Rows 0x10, 0x12 and 0x14. -/
theorem test_decode_stream :
    decode40 0b100000000_00000_000000_000_00000000000000000#40 = some (.steer ⟨0, 0, 0, 0⟩) ∧
    decode40 0b100000011_00000_000000_000_00000000000000011#40 = some (.gate ⟨0, 0, 0, 3⟩) ∧
    decode40 0b100001100_00011_000000_000_00000000000000000#40 = some (.red ⟨3, 0, 0, 0⟩) ∧
    decode40 0b100001110_00000_000000_000_00000000000000000#40 = some (.voidOp ⟨0, 0, 0, 0⟩) ∧
    decode40 0b100100000_00011_000000_000_00000000000100000#40 = some (.tld ⟨3, 0, 0, 32⟩) ∧
    decode40 0b101000000_00111_000000_000_00000000001000000#40 = some (.rnd ⟨7, 0, 0, 64⟩) ∧
    decode40 0b101001000_01000_010000_000_00000000000000001#40 = some (.alloc ⟨8, 0x10, 0, 1⟩) := by decide

/-- Rows 0x18 and 0x1A; ATOM selects its form in MOD[3:0] (R98). -/
theorem test_decode_memory :
    decode40 0b110000000_01000_000000_000_00000000000000000#40 = some (.lds ⟨8, 0, 0, 0⟩) ∧
    decode40 0b110000010_01000_010011_000_00000000000000001#40 = some (.ldg ⟨8, 0x13, 0, 1⟩) ∧
    [0, 1, 2, 3, 4, 5, 6, 7, 8].map (fun f => decode40 (opWord 0x189 3 0 0 f)) = [some (.atomAdd ⟨3, 0, 0, 0⟩), some (.atomMin ⟨3, 0, 0, 1⟩),
      some (.atomMax ⟨3, 0, 0, 2⟩), some (.atomAnd ⟨3, 0, 0, 3⟩), some (.atomOr ⟨3, 0, 0, 4⟩), some (.atomXor ⟨3, 0, 0, 5⟩),
      some (.atomXchg ⟨3, 0, 0, 6⟩), some (.atomCas ⟨3, 0, 0, 7⟩), none] ∧
    decode40 0b110001110_00000_000000_000_00000000000000000#40 = some (.waitw ⟨0, 0, 0, 0⟩) ∧
    decode40 0b110100001_01000_000000_000_00000000000000100#40 = some (.futres ⟨8, 0, 0, 4⟩) := by decide

/-- Rows 0x1D to 0x1F: XFER gives bits [39:31] of 0xF380000000. -/
theorem test_decode_emitters :
    decode40 0xF380000000#40 = some (.xferEmit ⟨0, 0, 0, 0⟩) ∧ decode40 0b111010000_00000_000000_000_00000000000000000#40 = some (.mmaEmit ⟨0, 0, 0, 0⟩) ∧
    decode40 0b111110000_00000_000000_000_00000000000000101#40 = some (.cellTrap ⟨0, 0, 0, 5⟩) ∧
    decode40 0b111110010_01000_000000_000_00000000000001111#40 = some (.ctlw ⟨8, 0, 0, 15⟩) ∧
    decode40 0b111110101_01000_000000_000_00000000000000111#40 = some (.perf ⟨8, 0, 0, 7⟩) := by decide

/-- The idle word, unassigned opcodes (rows 0x03 and 0x1C, and dots of rows 0x01 and 0x1F), RM = 6 and RDST = 0x0E in the example
word, an integer FMA. -/
theorem test_decode_operation_refused :
    [0#40, opWord 0x030 3 0 0 0, opWord 0x1C0 0 0 0 0, opWord 0x017 3 0 0 0, opWord 0x1F6 8 0 0 0, opWord 0x043 9 0x25 6 0,
      opWord 0x043 9 0x0E 3 0, opWord 0x043 3 0x25 0 0].map decode40 = List.replicate 8 none := by decide

/-- Tables 8.13, 1.6, 15.3 and 16.2: an MCLAIM of 8 slots from slot 2, an MMA of K = 4, a COPY and both CONV directions. -/
theorem test_decode_engines :
    decode128 (0b00010011_00000010_0000001000_0000000000000000000000_0000000000000001#64) 0 =
      some (.mclaim ⟨0x1302020000000001#64, 0#64⟩) ∧
    (decode128 0x1000000000040000#64 0 = some (.mma ⟨0x1000000000040000#64, 0⟩)) ∧
    decode128 0x2000000000000000#64 1 = some (.copy ⟨0x2000000000000000#64, 1⟩) ∧
    decode128 0x2400000000000000#64 1 = some (.convToCsr ⟨0x2400000000000000#64, 1⟩) ∧
    decode128 0x2400000100000000#64 1 = some (.convFromCsr ⟨0x2400000100000000#64, 1⟩) ∧
    decode128 0x2700000100000000#64 1 = some (.xferGet ⟨0x2700000100000000#64, 1⟩) ∧
    [0x0000000000000000#64, 0x1700000000000000#64, 0x2800000000000000#64, 0x3000000000000000#64, 0x2400000300000000#64].map
      (decode128 · 1) = List.replicate 5 none := by decide

/-! An ill-formed term for each check of WellFormed. -/

theorem test_wf_commands : ∀ i ∈ [Instr.selectRepeat 0 3, .selectBmask 1 0 0 0, .selectBmask 0 0 1 0, .token 7 0 0 0], i.wf = false := by
  decide

/-- Format G with the register 3, nothing else. -/
def gw (wd wa wb imm slot im : Nat) : FmtG :=
  ⟨BitVec.ofNat 4 wd, BitVec.ofNat 4 wa, BitVec.ofNat 4 wb, BitVec.ofNat 1 imm, BitVec.ofNat 8 slot, BitVec.ofNat 32 im⟩

/-- Operand b that is neither a register nor an immediate alone. -/
def badB : List FmtG := [gw 0 0 1 1 0 0, gw 0 0 0 0 0 1]

theorem test_wf_operand_b : ∀ g ∈ badB, ∀ f ∈ [Instr.waitc, .spawn, .grpl, .setstageDecl, .setqIn, .setqOut, .saveW, .saveIs, .rstrW,
    .rstrIs, .movw, .movwI, .addw, .cmpw, .ldw, .stw, .wrst, .rdfq], (f g).wf = false := by decide

theorem test_wf_controller : ∀ i ∈ [Instr.cfg ⟨5, 0⟩, .pcfg ⟨5, 0⟩, .joinCheck ⟨0, 0, 0, 1, 0⟩, .unjoin ⟨1, 0, 0, 0, 0⟩, .unjoin ⟨0, 1, 0, 0, 0⟩,
    .unjoin ⟨0, 0, 1, 0, 0⟩, .unjoin ⟨0, 0, 0, 1, 0⟩, .br ⟨1, 0⟩, .brc ⟨6, 0⟩, .call ⟨1, 0⟩, .trapCode 0x8000, .trapService 0x7FFF], i.wf = false := by
  decide

/-- A destination that is not used. -/
theorem test_wf_no_wd : ∀ f ∈ [Instr.setstageDecl, .setstageEnter, .setqIn, .setqOut, .saveW, .saveIs, .rstrW, .rstrIs, .cmpw, .wrst],
    (f (gw 1 0 0 0 0 0)).wf = false := by decide
/-- An operand a that is not used. -/
theorem test_wf_no_wa : ∀ f ∈ [Instr.waitc, .setstageEnter, .movw, .movwI, .rdst, .wrst, .rdcyc], (f (gw 0 1 0 0 0 0)).wf = false := by decide
/-- A slot that is not used. -/
theorem test_wf_no_slot : ∀ f ∈ [Instr.waitc, .setstageDecl, .setstageEnter, .movw, .movwI, .movwR, .addw, .cmpw, .rdst, .wrst, .rdcyc],
    (f (gw 0 0 0 0 1 0)).wf = false := by decide
/-- An operand b that is not used, as a register and as an immediate. -/
theorem test_wf_no_wb : ∀ f ∈ [Instr.setstageEnter, .movwR, .rdst, .rdcyc, .setks], ∀ g ∈ [gw 0 0 1 0 0 0, gw 0 0 0 1 0 0, gw 0 0 0 0 0 1],
    (f g).wf = false := by decide
theorem test_wf_count_registers : (Instr.movwI (gw 4 0 0 0 0 0)).wf = false ∧ (Instr.movwR (gw 0 4 0 0 0 0)).wf = false := by decide

/-- TYPE, RDST, RM and MOD. -/
def md (ty rdst rm mod : Nat) : Mods := ⟨BitVec.ofNat 5 ty, BitVec.ofNat 6 rdst, BitVec.ofNat 3 rm, BitVec.ofNat 17 mod⟩

/-- An integer form of a float type, with a rounding mode, with a k register and with a MOD above 5. -/
theorem test_wf_integer : ∀ f ∈ [Instr.add, .sub, .mul, .mulh, .div, .rem, .and, .or, .xor, .not, .shl, .shr, .sar, .rot, .min, .max, .cmp, .sel,
    .clz, .popc, .addc, .subb], ∀ m ∈ [md 9 0 0 0, md 3 0 1 0, md 3 0x10 0 0, md 3 0 0 6], (f m).wf = false := by decide

/-- A capability form of the other type, into a g register, with a MOD outside the form; CAPTAG with SEL 6. -/
theorem test_wf_capability : ∀ i ∈ [Instr.capofs (md 8 0 0 0), .capofs (md 4 0x20 0 0), .capofs (md 4 0 0 32), .capset (md 8 0 0 0), .capset (md 4 0 0 4),
    .capnar (md 4 0 0 0), .capnar (md 8 0 0 8), .caprgt (md 4 0 0 0), .caprgt (md 8 0 0 1024), .captag (md 8 0 0 24), .captag (md 8 0x10 0 0),
    .captag (md 4 0 0 0), .affine (md 1 0 0 0), .affine (md 3 0 0 1), .ctr (md 8 0 0 0), .ctr (md 3 1 0 0)], i.wf = false := by decide

/-- A float form of an integer type, with rounding mode 4, into a k register, with a MOD. -/
theorem test_wf_float : ∀ f ∈ [Instr.fadd, .fsub, .fmul, .fma, .fmin, .fmax, .fcmp, .fabs, .fneg, .rcpa, .rsqa, .exp2a, .log2a, .fclass, .dqnt],
    ∀ m ∈ [md 3 0 0 0, md 9 0 4 0, md 9 0x10 0 0, md 9 0 0 7], (f m).wf = false := by decide

/-- CVT of an unassigned TYPE, with RM 4 to F32, with a rounding mode between integers, SAT from a float, AXIS without NSH; QNT of F32, from E4M3, into a
register; CBLOAD, HDRSET, GATE, DROP and TAKE out of range. -/
theorem test_wf_conversions : ∀ i ∈ [Instr.cvt (md 14 0 0 3), .cvt (md 9 0 4 3), .cvt (md 3 0 1 1), .cvt (md 3 0 0 41), .cvt (md 10 0 0 73), .cvt (md 10 0 6 9),
    .cvt (md 10 0 0 65545), .qnt (md 9 0 0 9), .qnt (md 10 0 0 12), .qnt (md 10 1 0 9), .qnt (md 10 0 0 41), .cbload (md 9 0 0 0), .cbload (md 11 0 0 16),
    .hdrset (md 0 0 0 4096), .gate (md 0 0 0 2), .gate (md 0 0 0 4), .drop (md 0 0 0 65536), .take (md 0 0 0 65536)], i.wf = false := by decide

/-- A bare form with a TYPE, an RDST, an RM or the MOD's top bit. -/
theorem test_wf_bare : ∀ f ∈ [Instr.steer, .merge, .amerge, .gate, .repeatOp, .drop, .take, .zip, .split, .mark, .strip, .voidOp, .dup, .hdrset, .tswap,
    .rndkey, .add128, .fence, .waitw, .cellTrap, .brk, .mmaEmit, .mmasEmit, .mloadEmit, .mclaimEmit, .mreleaseEmit, .mdrainEmit, .normEmit,
    .copyEmit, .chainEmit, .stashEmit, .restoreEmit, .convEmit, .fprintEmit, .dedupEmit, .xferEmit],
    ∀ m ∈ [md 1 0 0 0, md 0 1 0 0, md 0 0 1 0, md 0 0 0 65536], (f m).wf = false := by decide

/-- RED and SCAN whose OP and TYPE disagree; tile forms of W 0 or out of range; RND with pairs that overlap; RNDKEY, ADD128, ALLOC and FREE
with excluded fields. -/
theorem test_wf_stream : ∀ i ∈ [Instr.red (md 3 0 0 8), .red (md 9 0 0 0), .red (md 3 0 0 32), .scan (md 3 0 0 8), .scan (md 3 1 0 0), .scan (md 3 0 0 16),
    .tld (md 3 0 0 0), .tld (md 0 0 0 4), .tld (md 3 0 0 2048), .tswap (md 0 0 0 2), .tdot (md 1 0 0 0), .tdot (md 3 0 0 1), .tbcast (md 3 0 0 16),
    .tsto (md 3 0 0 0), .tsto (md 3 0 0 1024), .rnd (md 7 0 0 32), .rnd (md 3 0 0 64), .rnd (md 7 0 0 4096), .rndkey (md 0 0 0 12), .rndkey (md 0 0 0 32),
    .add128 (md 0 0 0 1), .add128 (md 0 0 0 9), .add128 (md 0 0 0 18), .alloc (md 4 0 0 0), .alloc (md 8 1 0 0), .alloc (md 8 0 0 8), .free (md 8 0 0 0),
    .free (md 8 0 0 16)], i.wf = false := by decide

theorem test_wf_memory : ∀ i ∈ [Instr.lds (md 0 0 0 0), .lds (md 3 0 0 16), .sts (md 3 0 0 4), .ldg (md 3 0x10 0 0), .ldg (md 8 0 0 4), .stg (md 3 0 0 4),
    .stg (md 8 0 0 32), .ldl (md 3 0 0 2), .stl (md 3 1 0 0), .ldfe (md 3 0 0 0), .ldfe (md 4 0 0 2), .stfe (md 3 0 0 0), .stfe (md 4 1 0 0), .pref (md 3 0 0 8),
    .ldacq (md 9 0 0 0), .ldacq (md 3 0 0 28), .strel (md 3 0 0 28), .strel (md 3 0 0 8192), .fence (md 0 0 0 1), .fence (md 0 0 0 28), .monw (md 3 0 0 28),
    .waitw (md 0 0 0 1), .futnew (md 4 0 0 0), .futnew (md 8 0 0 4), .futres (md 8 0 0 28), .futres (md 8 0 0 64), .futreg (md 8 0 0 4), .futget (md 8 0 0 28),
    .cellTrap (md 0 0 0 32768), .brk (md 0 0 0 256), .ctlw (md 8 0 0 16), .ctlw (md 4 0 0 0), .sysrd (md 8 0 0 4), .syswr (md 8 0 0 4), .perf (md 8 0 0 8)],
    i.wf = false := by decide

/-- ATOM of a narrow type, with scope 7, and with another form's code. -/
theorem test_wf_atomics : ∀ f ∈ [Instr.atomAdd, .atomMin, .atomMax, .atomAnd, .atomOr, .atomXor, .atomXchg, .atomCas],
    ∀ m ∈ [md 1 0 0 0, md 3 0 0 1792, md 3 0 0 2048, md 3 0 0 8], (f m).wf = false := by decide

/-- Matrix commands with a reserved bit, an excluded value and a wrong opcode. -/
theorem test_wf_matrix : ∀ i ∈ [Instr.mclaim ⟨0x1302020000010001#64, 0⟩, .mclaim ⟨0x13FF020000000001#64, 0⟩, .mclaim ⟨0x1302020000000001#64, 1⟩,
    .mrelease ⟨0x1402020000010001#64, 0⟩, .mload ⟨0x1200000000000000#64, 0⟩, .mload ⟨0x1200B00000000000#64, 0⟩, .mload ⟨0x1200810000000000#64, 0⟩,
    .mloadAccumulate ⟨0x1200800000000000#64, 0⟩, .mloadAccumulate ⟨0x1200B00000000001#64, 0⟩, .mma ⟨0x1000000000000000#64, 0⟩,
    .mma ⟨0x1000000C00040000#64, 0⟩, .mma ⟨0x1000000000040000#64, 1⟩, .mma ⟨0x1000000100040000#64, 0⟩, .mmas ⟨0x1100000000000000#64, 0⟩,
    .mmas ⟨0x1100000000040000#64, 1⟩, .mdrain ⟨0x1500000000000001#64, 0⟩, .mdrain ⟨0x1500000000000000#64, 0xC000000000000000#64⟩,
    .norm ⟨0x1600000000000001#64, 0⟩, .norm ⟨0x1600000380000000#64, 0⟩, .mma ⟨0x1100000000040000#64, 0⟩], i.wf = false := by decide

/-- Streamer commands with PARM 0, an excluded MODE and a reserved bit of word 1. -/
theorem test_wf_streamer : ∀ i ∈ [Instr.copy ⟨0x2000000000000000#64, 0⟩, .copy ⟨0x2000000200000000#64, 1⟩, .copy ⟨0x2000000000000000#64, 0x40000001#64⟩,
    .chain ⟨0x2100000400000000#64, 1⟩, .stash ⟨0x2200000000000000#64, 1⟩, .stash ⟨0x2200002300000000#64, 1⟩, .restore ⟨0x2300000400000000#64, 1⟩,
    .convToCsr ⟨0x2400000100000000#64, 1⟩, .convFromCsr ⟨0x2400000000000000#64, 1⟩, .convToC4 ⟨0x2400004200000000#64, 1⟩, .fprint ⟨0x2500000100000000#64, 1⟩,
    .dedup ⟨0x2600000100000000#64, 1⟩, .xferPut ⟨0x2700000100000000#64, 1⟩, .xferGet ⟨0x2700000000000000#64, 1⟩], i.wf = false := by decide

/-! Single steps, with results from the manual's rules, tables and examples. -/

/-- The region after a step. -/
def after (o : Option Out) : Option Region :=
  match o with
  | some (.next t) => t.region 0 0
  | _ => none

/-- The step in cell 0's operation word, from a state with that one cell. -/
def fire (x : Cell) : Option Out := (decode40 x.cfg.op).map (exec · (one x))

/-- The payloads that stand at port 0 of cell 1. -/
def sent (o : Option Out) : Option (List Nat) := (after o).map fun r => ((r.cell 1).rt.port 0).q.map (·.pay.toNat)

/-- The kinds that stand there, and whether void. -/
def sentKinds (o : Option Out) : Option (List (Kind × Bool)) := (after o).map fun r => ((r.cell 1).rt.port 0).q.map fun k => (k.kind, k.void)

/-- The result of an operation word on operands. -/
def valOf (op : BitVec 40) (as : List Nat) : Option (List Nat) := sent (fire (cellOf op (as.map fun a => [v a])))

/-- The result, and the sticky flags of st. -/
def valFlags (op : BitVec 40) (as : List Nat) : Option (List Nat × Nat) :=
  (valOf op as).bind fun x => (after (fire (cellOf op (as.map fun a => [v a])))).map fun r => (x, (r.st.extractLsb' 0 5).toNat)

/-- The edges of chapter 9: ADD.I8 with and without SAT, DIV and REM of -128 by -1, DIV.N16 by 0, SHL by 33 and SAR of 0x80. -/
theorem test_integer_edges :
    valOf (opWord 0x001 1 0 0 1) [100, 100] = some [127] ∧ valOf (opWord 0x001 1 0 0 0) [100, 100] = some [2 ^ 64 - 56] ∧
    valOf (opWord 0x005 1 0 0 0) [2 ^ 64 - 128, 2 ^ 64 - 1] = some [2 ^ 64 - 128] ∧ valOf (opWord 0x006 1 0 0 0) [2 ^ 64 - 128, 2 ^ 64 - 1] = some [0] ∧
    valOf (opWord 0x005 6 0 0 0) [5, 0] = some [0xFFFF] ∧ valOf (opWord 0x00B 3 0 0 0) [1, 33] = some [2] ∧
    valOf (opWord 0x00D 1 0 0 0) [0x80, 3] = some [0xFFFFFFFFFFFFFFF0] := by decide +kernel

/-- SUB wraps, MUL clamps, MULH of 2^31 by 2 is 1 unsigned, DIV and REM of -7 by 2 truncate toward zero (R109). -/
theorem test_integer_arithmetic :
    valOf (opWord 0x002 5 0 0 0) [1, 2] = some [255] ∧ valOf (opWord 0x003 1 0 0 1) [100, 2 ^ 64 - 2] = some [2 ^ 64 - 128] ∧
    valOf (opWord 0x004 7 0 0 0) [2 ^ 31, 2] = some [1] ∧ valOf (opWord 0x004 3 0 0 0) [2 ^ 64 - 1, 1] = some [2 ^ 64 - 1] ∧
    valOf (opWord 0x005 3 0 0 0) [2 ^ 64 - 7, 2] = some [2 ^ 64 - 3] ∧ valOf (opWord 0x006 3 0 0 0) [2 ^ 64 - 7, 2] = some [2 ^ 64 - 1] := by
  decide +kernel

/-- The bitwise and shifting forms at width 8. -/
theorem test_integer_bits :
    valOf (opWord 0x007 5 0 0 0) [0xF0, 0x3C] = some [0x30] ∧ valOf (opWord 0x008 5 0 0 0) [0xF0, 0x3C] = some [0xFC] ∧
    valOf (opWord 0x009 5 0 0 0) [0xF0, 0x3C] = some [0xCC] ∧ valOf (opWord 0x00A 5 0 0 0) [0xF0] = some [0x0F] ∧
    valOf (opWord 0x00C 1 0 0 0) [0x80, 3] = some [0x10] ∧ valOf (opWord 0x00E 5 0 0 0) [0x81, 1] = some [0x03] ∧
    valOf (opWord 0x013 7 0 0 0) [1] = some [31] ∧ valOf (opWord 0x013 7 0 0 0) [0] = some [32] ∧
    valOf (opWord 0x014 8 0 0 0) [0xFF] = some [8] := by decide +kernel

/-- Signed and unsigned order, the conditions, and SEL. -/
theorem test_integer_choice :
    valOf (opWord 0x00F 1 0 0 0) [0x80, 1] = some [2 ^ 64 - 128] ∧ valOf (opWord 0x00F 5 0 0 0) [0x80, 1] = some [1] ∧
    valOf (opWord 0x010 1 0 0 0) [0x80, 1] = some [1] ∧ (List.range 6).map (fun c => valOf (opWord 0x011 1 0 0 c) [0xFF, 1]) =
      [some [0], some [1], some [1], some [1], some [0], some [0]] ∧
    valOf (opWord 0x012 3 0 0 0) [0, 5, 6] = some [6] ∧ valOf (opWord 0x012 3 0 0 0) [7, 5, 6] = some [5] := by decide +kernel

/-- R110: ADDC carries out of all ones; SUBB borrows; v on out0. -/
theorem test_carry :
    valOf (opWord 0x015 8 0 0 0) [2 ^ 64 - 1, 0, 1] = some [0] ∧ valOf (opWord 0x016 8 0 0 0) [0, 0, 1] = some [2 ^ 64 - 1] ∧
    sent (fire (withCfg (cellOf (opWord 0x015 8 0 0 0) [[v (2 ^ 64 - 1)], [v 0], [v 1]]) fun c => { c with outs := [0, 0, toCell 1 0, 0] })) = some [1] ∧
    sent (fire (withCfg (cellOf (opWord 0x016 8 0 0 0) [[v 0], [v 0], [v 0]]) fun c => { c with outs := [0, 0, toCell 1 0, 0] })) = some [0] := by
  decide +kernel

/-- R111: K's cursor 64 moved by 2 times 8, set to base + 8; R113: rights, base, top and object ID. -/
theorem test_capability :
    (let at_ (op ty mod a : Nat) := sent (fire (withRt (cellOf (opWord op ty 0 0 mod) [[v a]]) fun y => { y with k := [cap64 0x23, .none, .none, .none] }))
     at_ 0x020 4 12 2 = some [80] ∧ at_ 0x021 4 0 8 = some [72] ∧ [0, 1, 2, 3, 4, 5].map (fun f => at_ 0x024 8 (4 * f) 0) =
       [some [1], some [0x23], some [64], some [64], some [128], some [1]]) := by decide +kernel

/-- R115: 10 + 2 x 3 + 4 x 5. -/
theorem test_affine : sent (fire (withCfg (cellOf (opWord 0x025 8 0 0 0) [[v 2], [v 4]]) fun c =>
    { c with consts := [10, 3, 5] ++ List.replicate 13 0 })) = some [36] := by decide +kernel

/-- F32: 1 + 2, 3 - 3 under RNE and RDN (R68), 0 x infinity (R69), 1/3 of H16 (the case of R120). -/
theorem test_float_arithmetic :
    valFlags (opWord 0x040 9 0 0 0) [0x3F800000, 0x40000000] = some ([0x40400000], 0) ∧
    valFlags (opWord 0x041 9 0 0 0) [0x40400000, 0x40400000] = some ([0], 0) ∧
    valFlags (opWord 0x041 9 0 2 0) [0x40400000, 0x40400000] = some ([0x80000000], 0) ∧
    valFlags (opWord 0x042 9 0 0 0) [0, 0x7F800000] = some ([0x7FC00000], 16) ∧
    valFlags (opWord 0x049 10 0 0 0) [0x4200] = some ([0x3555], 1) := by decide +kernel

/-- FMA negates its product, and rounds once: (1 + 2^-12)^2 - 1 - 2^-11 is 2^-24; R87 to R90 at powers of two. -/
theorem test_float_forms :
    valFlags (opWord 0x043 9 0 0 1) [0x40000000, 0x40400000, 0x3F800000] = some ([0xC0A00000], 0) ∧
    valFlags (opWord 0x043 9 0 0 2) [0x3F800800, 0x3F800800, 0x3F801000] = some ([0x33800000], 0) ∧
    valOf (opWord 0x04A 9 0 0 0) [0x40800000] = some [0x3F000000] ∧ valOf (opWord 0x04B 9 0 0 0) [0x40400000] = some [0x41000000] ∧
    valOf (opWord 0x04C 9 0 0 0) [0x41000000] = some [0x40400000] := by decide +kernel

/-- Signed zeros and NaNs (R117 to R119). -/
theorem test_float_signs :
    valOf (opWord 0x044 9 0 0 0) [0, 0x80000000] = some [0x80000000] ∧ valOf (opWord 0x045 9 0 0 0) [0x80000000, 0] = some [0] ∧
    valFlags (opWord 0x046 9 0 0 2) [0x7FC00000, 0] = some ([0], 16) ∧ valFlags (opWord 0x046 9 0 0 0) [0x80000000, 0] = some ([1], 0) ∧
    valFlags (opWord 0x047 9 0 0 0) [0xFF800001] = some ([0x7F800001], 0) ∧ valOf (opWord 0x048 9 0 0 0) [0x3F800000] = some [0xBF800000] ∧
    [0xFF800000, 0xBF800000, 0x80000001, 0x80000000, 0, 1, 0x3F800000, 0x7F800000, 0x7F800001, 0x7FC00000].map
      (fun a => valOf (opWord 0x04D 9 0 0 0) [a]) = (List.range 10).map fun b => some [2 ^ b] := by decide +kernel

/-- R121 and R74: 2.5 to I32 under RNE and RUP, NaN to 0, 3 x 10^9 to the maximum, 300 clamped to I8, 2^24 + 1 to F32; R73: 1.0625 to E4M3 ties to even. -/
theorem test_conversion :
    valFlags (opWord 0x060 3 0 0 9) [0x40200000] = some ([2], 1) ∧ valFlags (opWord 0x060 3 0 3 9) [0x40200000] = some ([3], 1) ∧
    valFlags (opWord 0x060 3 0 0 9) [0x7FC00000] = some ([0], 16) ∧ valFlags (opWord 0x060 3 0 0 9) [0x4F32D05E] = some ([0x7FFFFFFF], 16) ∧
    valFlags (opWord 0x060 1 0 0 35) [300] = some ([127], 0) ∧ valFlags (opWord 0x060 1 0 0 3) [300] = some ([44], 0) ∧
    valFlags (opWord 0x060 9 0 0 3) [16777217] = some ([0x4B800000], 1) ∧ valFlags (opWord 0x061 12 0 0 9) [0x3F880000] = some ([0x38], 1) := by
  decide +kernel

/-- DQNT under an HDR of E4M3 decodes 0x38 to 1.0; under a header with a scale of 128 it decodes to 2 (R65, R66, R127). -/
theorem test_dequantise :
    (let at_ (h a : Nat) := sent (fire (withRt (cellOf (opWord 0x062 9 0 0 0) [[]]) fun y =>
       { y with ports := y.ports.set 0 { Port.empty with q := [v a], hdr := some (BitVec.ofNat 64 h) } }))
     at_ 12 0x38 = some [0x3F800000] ∧ at_ 44 0x8038 = some [0x40000000]) := by decide +kernel

/-- R107: markers of one kind pass, EOR and CTL with their payloads; a void operand makes a void result. -/
theorem test_markers :
    sentKinds (fire (cellOf (opWord 0x001 3 0 0 0) [[mk .eor 0], [mk .eor 0]])) = some [(.eor, false)] ∧
    sent (fire (cellOf (opWord 0x001 3 0 0 0) [[mk .ctl 5], [mk .ctl 6]])) = some [5] ∧
    sent (fire (cellOf (opWord 0x001 3 0 0 0) [[mk .hdr 3], [mk .hdr 3]])) = some [3] ∧
    sentKinds (fire (cellOf (opWord 0x001 3 0 0 0) [[{ v 1 with void := true }], [v 2]])) = some [(.val, true)] := by decide +kernel

/-- R134: STEER sends to the destination selected; GATE with FILTER drops on a clear bit, and sends a void VAL with VOIDFILL. -/
theorem test_steer_and_gate :
    sent (fire (cellOf (opWord 0x100 0 0 0 0) [[v 9], [mk .ctl 0]])) = some [9] ∧
    sentKinds (fire (cellOf (opWord 0x103 0 0 0 1) [[v 9], [mk .ctl 0]])) = some [] ∧
    sentKinds (fire (cellOf (opWord 0x103 0 0 0 3) [[v 9], [mk .ctl 0]])) = some [(.val, true)] ∧
    sent (fire (cellOf (opWord 0x103 0 0 0 1) [[v 9], [mk .ctl 1]])) = some [9] := by decide +kernel

/-- The region after a controller instruction word at pc 64, from a region with no pitch. -/
def ctlStep (w : W64) (f : Region → Region) : Option Region :=
  after ((decode64 w).map (exec · (ctlState (ctlRegion f) (capOf 0 4096))))

/-- w0 to w3 after it. -/
def ws (w : W64) (f : Region → Region) : Option (List Int) := (ctlStep w f).map fun r => (r.w.take 4).map (·.toInt)

/-- R216's example MOVW w1, #2; MOVW of a negative immediate; ADDW wraps; MOVW.I and MOVW.R. -/
theorem test_words :
    ws 0x2010080000000002 id = some [0, 2, 0, 0] ∧ ws 0x20200800FFFFFFFF id = some [0, 0, -1, 0] ∧
    ws 0x2121080000000003 (withW 0 (2 ^ 64 - 5)) = some [0, -5, -2, 0] ∧
    (ctlStep 0x2020090000000007 id).map (fun r => r.i) = some [0, 0, 7, 0] ∧
    ws 0x2032020000000000 (fun r => { r with i := [0, 0, 5, 0] }) = some [0, 0, 0, 5] := by decide +kernel

/-- CMPW of -1 and 1: LT, not LTU, not EQ (Table 13.2 bits 7 to 5); BRC.LT and BRC.LTU from there; BR ahead by 2 words. -/
theorem test_branches :
    (ctlStep 0x2201080000000001 (withW 0 (2 ^ 64 - 1))).map (fun r => (r.st.toNat, r.pc)) = some (0x40, 72) ∧
    (ctlStep 0x11200000FFFFFFFD fun r => { r with st := 0x40 }).map (fun r => r.pc) = some 40 ∧
    (ctlStep 0x11400000FFFFFFFD fun r => { r with st := 0x40 }).map (fun r => r.pc) = some 72 ∧
    (ctlStep 0x1000000000000002 id).map (fun r => r.pc) = some 80 := by decide +kernel

/-- LOOP decrements and branches while nonzero; CALL pushes pc + 8; RET pops (R214, R215). -/
theorem test_loop_call :
    (ctlStep 0x12000000FFFFFFFF (withW 2 0)).map (fun r => (r.pc, r.w.getD 0 0)) = some (56, 1) ∧
    (ctlStep 0x12000000FFFFFFFF (withW 1 0)).map (fun r => (r.pc, r.w.getD 0 0)) = some (72, 0) ∧
    (ctlStep 0x1300000000000004 id).map (fun r => (r.pc, r.depth, r.frames)) = some (96, 1, [72]) ∧
    (ctlStep 0x1400000000000000 fun r => { r with depth := 1, frames := [200] }).map (fun r => (r.pc, r.depth)) = some (200, 0) := by decide +kernel

/-- TRAP 7 saves the next instruction, sets TCODE and TRAPD; ERET returns there (R219 to R221). -/
theorem test_trap_and_return :
    (ctlStep 0x3000000000000007 id).map (fun r => r.st.toNat) = some (9 * 2 ^ 36 + 2 ^ 35 + 7 * 2 ^ 16) ∧
    (ctlStep 0x3100000000000000 fun r => { r with st := BitVec.ofNat 64 (9 * 2 ^ 36 + 2 ^ 35) }).map (fun r => (r.pc, r.st.toNat)) =
      some (72, 9 * 2 ^ 36) := by decide +kernel

/-- RDST, and WRST of all ones, which writes only bits 7 to 0 (R200); RDCYC reads the die's counter, 10. -/
theorem test_status :
    ws 0x2510000000000000 (fun r => { r with st := 0x41 }) = some [0, 0x41, 0, 0] ∧
    (ctlStep 0x26000800FFFFFFFF id).map (fun r => r.st.toNat) = some 0xFF ∧ ws 0x2720000000000000 id = some [0, 0, 10, 0] := by decide +kernel

/-- LDW of offset 64 reads the byte 0x2A there; STW keeps the registers (R216). -/
theorem test_load_word : ws 0x2310080000000040 id = some [0, 0x2A, 0, 0] ∧ ws 0x2410080000000040 (withW 1 7) = some [1, 7, 0, 0] := by
  decide +kernel

/-! Witnesses: sound memory, keys, held heads, far writes, and stores of several lanes. -/

theorem witness_sound_memory : (∀ r a, (ctlState r a).memOk) ∧
    ∀ q tag, ∀ m ∈ [[], [((64 : Nat), (0x2A : Byte))], [(71, 0x40)], [(64, 0x60), (71, 0x40)], [(71, 0x80)]], (tileState q tag m).memOk := by
  refine ⟨fun _ _ => rfl, fun q tag m h => ?_⟩
  simp only [List.mem_cons, List.not_mem_nil, or_false] at h
  rcases h with rfl | rfl | rfl | rfl | rfl <;> rfl

/-- A list head that CURSOR names inside the capability, and one outside it. -/
theorem witness_registered_futures : ∀ b ∈ [true, false],
    Performs (futReq .futreg 64 8) (mkTag tagSync 0) (if b then [(64, 0x60), (71, 0x40)] else [(71, 0x40)]) true (fun s =>
      let w := leNat (memReadN s.mem 64 8)
      futState w == 1 && futOffsetOk (futReq .futreg 64 8).cap (futCursor w) == b && (futReq .futreg 64 8).data.toNat % 16 == 0) := by
  intro b h; cases b <;> exact performs (by decide +kernel)

/-- An access that goes through, with its bytes and the state it leaves. -/
def okMem (x : Acc) (p : List Byte → State → Bool) : Bool := match x with | .ok a s => p a s | .bad .. => false

theorem witness_keys :
    (∀ f ∈ [1, 2], Performs (req0 .keyRead fun q => { q with form := f, size := 16 }) (mkTag tagSync 0) [(64, 0x2A)] true (fun s =>
      let q := req0 .keyRead fun q => { q with form := f, size := 16 }
      okMem (loadAt s (q.mode s) q.cap.oid q.ofs 16 false) fun bs s1 => leNat bs == 0x2A && s1.wants.isEmpty && s1.puts.isEmpty)) ∧
    Performs (req0 .keyRead fun q => { q with form := 1, size := 16 }) (mkTag tagSync 0) [] true (fun s =>
      let q := req0 .keyRead fun q => { q with form := 1, size := 16 }
      okMem (loadAt s (q.mode s) q.cap.oid q.ofs 16 false) fun bs s1 => leNat bs == 0 && s1.wants.isEmpty && s1.puts.isEmpty &&
        okMem (storeAt s1 (q.mode s) q.cap.oid q.ofs (natLe 16 5) false) fun _ s2 => s2.wants.isEmpty && s2.puts.isEmpty) ∧
    ∀ n ∈ [1, 2], Stands (withRt (cellOf (opWord 0x141 0 0 0 (4 * n + 16)) [[mk .ctl 0]]) fun y => { y with k := [capOf 0 4096, .none, .none, .none] })
      fun cx => cx.head 0 == some (mk .ctl 0) && !refusesCtl cx 0 && cx.x.rt.results == [] && cx.m.modF 2 2 == n && cx.m.modF 4 1 == 1 &&
        !cx.kPending 0 && tileRoom cx 1 && letsB (cx.kreg 0 [0]) 3 (((cx.kreg 0 [0]).cursor : Int) + 16 * (keyCount cx : Int)) 16 1 := by
  simp only [List.forall_mem_cons, List.not_mem_nil, false_imp_iff, implies_true, and_true]
  refine ⟨⟨?_, ?_⟩, ?_, ?_, ?_⟩
  iterate 3 exact performs (by decide +kernel)
  all_goals exact stands (by decide +kernel)

theorem witness_one_lane_reduction : Stands (cellOf (opWord 0x110 8 0 0 16) [[v 1]]) fun cx =>
    cx.m.modF 4 1 == 1 && !cx.bound 1 && offersB cx 0 (v 1) markKinds (hdrRed cx.m) := stands (by decide +kernel)

theorem witness_handed_emitter : Stands (cellOf (opWord 0x1D0 0 0 0 0) [[mk .hdr 0x1F], [mk .ctl 2]]) fun cx =>
    match cx.head 0 with | some k => k.kind == .hdr && k.pay == handHdr | none => false := stands (by decide +kernel)

/-- A cell that owes a token and has fired stands all the same, and a head that its form does not accept is turned away. -/
theorem witness_owing_rejection : let x := withRt (cellOf (opWord 0x001 1 0 0 0) [[mk .rsd 0], []]) fun y => { y with owed := [(1, v 1)], fired := 11 }
    CellStands (one x) (cx1 x) ∧ (cx1 x).wrongKind = some 0 :=
  ⟨⟨rfl, at_one _ _ rfl rfl, rfl, by decide +kernel, by decide +kernel, rfl, rfl, sendResult_unready (by decide +kernel), rfl, rfl⟩, by decide +kernel⟩

/-- A cell with a SYSWR of n, with these requests in the list. -/
def syswrState (n : Nat) (qs : List Req) : State × Region :=
  let x := withRt (cellOf (opWord 0x1F4 8 0 0 0) [[v n], [v 0]]) fun y => { y with k := [capOf 0 64, .none, .none, .none] }
  ({ one x with reqs := qs }, region0 [(0, x)])

theorem witness_system_writes : ∀ n ∈ [0x301, 0x302, 0x400], ∀ qs ∈ [[], [req0 .load id]],
    let u := syswrState n qs
    CellReady u.1 (ctx u.1 u.2) ∧ (let cx := ctx u.1 u.2
      offersB cx 1 (v 0) markKinds (hdrOnly 8) && (u.1.reqs.any fun q => q.die == cx.r.die && q.rblk == cx.r.rblk && q.cell == cx.c) == !qs.isEmpty &&
      !writeHeld u.1 0 n && tileRoom cx 1 && (cx.kreg 0 [0, 1]).tag && (cx.kreg 0 [0, 1]).rights &&& rSystem != 0) = true := by
  simp only [List.forall_mem_cons, List.not_mem_nil, false_imp_iff, implies_true, and_true]
  refine ⟨⟨⟨?_, ?_⟩, ?_, ?_⟩, ⟨⟨?_, ?_⟩, ?_, ?_⟩, ⟨?_, ?_⟩, ?_, ?_⟩ <;>
    first | exact ready_of (at_one _ 0 rfl rfl) (by decide +kernel) | decide +kernel

theorem witness_far_writes :
    (modState id).writesOut = false ∧ (modState fun s => { s with asks := [⟨0, s.focus, none⟩] }).writesOut = true ∧
    (∀ b ∈ [true, false],
      let s := modState fun s => { s with regions := s.regions.map fun r => { r with stores := [joinStore fun st => { st with far := b }] } }
      (s.regions.any fun r => r.die == 0 && r.stores.any (·.far)) = b) ∧
    (0x400 ≤ 0x402 ∧ 0x402 < 0x440) := by refine ⟨?_, ?_, ?_, ?_⟩ <;> decide +kernel

/-- A beat of an XFER get at port 0, the one in service, whose hold has these beats; its destination page is present in object 1 and
absent in object 2. -/
def getState (oid : Nat) (hold : List Beat) : Cmd × State :=
  let c := str 0x25 [64] fun c => { c with acc := [1, 0, oid, 2048, 0, 0], buf := List.replicate 64 ⟨7, 0, 0⟩ }
  let s := strState c 0 4 []
  let links := { LinkPort.reset 0 with hold := hold } :: (List.range 35).map fun n => { LinkPort.reset (n + 1) with up := false }
  (c, { s with
    module := { s.module with otlen := 3 }
    dies := s.dies.map fun x => { x with
      links := links, xlates := x.xlates ++ [{ placedXlate State.reset with blk := 704, oid := 2, pdesc := 0 }] } })

theorem one_port {s : State} (h : s.portsUp = [0]) (d a : Nat) : s.portFor d a = 0 := by
  simp [State.portFor, h, Nat.mod_one]

/-- What the command asks of its beat, at port 0. -/
def getB (oid : Nat) (hold : List Beat) : Bool :=
  let c := (getState oid hold).1
  let s := (getState oid hold).2
  64 * c.item < c.xlen && !beatHeld s c && okE (getRead c s 0 64) (fun b s1 =>
    s1.portsUp == [0] && (s1.port 0).hold == hold && (s1.port 0).holdRoom 64 &&
    match storeAt s1 (c.mode false false) c.xDstOid c.xDstOfs b.1 false with
    | .ok _ u => oid == 1 && u.wants.isEmpty
    | .bad code _ _ _ => oid == 2 && pageCode code)

theorem witness_get_beats : getB 1 [] = true ∧ getB 2 [] = true ∧ getB 1 [⟨0, 0, 0, 2, 0, [1], true⟩] = true := by
  refine ⟨?_, ?_, ?_⟩ <;> decide +kernel

/-- A running region with a store of two lanes, from cells 2 and 3 to cells 0 and 1. -/
def wideRegion (f : Store → Store) : Region :=
  { region0 [(0, cellOf (opWord 0 1 0 0 0) []), (1, cellOf (opWord 0 1 0 0 0) []),
      (2, withCfg (cellOf (opWord 1 1 0 0 0) []) fun c => { c with outs := [toCell 0 0, 0, 0, 0] }),
      (3, withCfg (cellOf (opWord 1 1 0 0 0) []) fun c => { c with outs := [toCell 1 0, 0, 0, 0] })] with
    stores := [f (joinStore fun st => { st with lanes := [⟨2, 0, 0, 0⟩, ⟨3, 0, 1, 0⟩], inq := [.empty, .empty] })] }

theorem witness_wide_issue :
    let P (f : Store → Store) (p : Store → Prop) : Prop := StoreTurn (wideRegion f) fun st =>
      (st.lanes.map fun l => (l.ccell, l.cin)).Nodup ∧ (∀ l ∈ st.lanes, l.cin < ((wideRegion f).cell l.ccell).rt.ports.length ∧
        l.ccell < (wideRegion f).cellCount ∧ laneRoom (wideRegion f) 10 l = true ∧ ((wideRegion f).cell l.ccell).rt.lost = false) ∧ p st
    P (fun st => { st with owedEor := true }) (fun st => st.owedEor = true) ∧
    P (fun st => { st with hdrs := [(0, [1, 2])] }) (fun st => st.owedEor = false ∧ st.hdrs = [(st.issued, [1, 2])]) ∧
    P (fun st => { st with admitted := 3, held := [⟨0, 0, 5, false, .none⟩, ⟨1, 0, 6, false, .none⟩, ⟨2, 0, 7, false, .none⟩,
        ⟨0, 1, 5, false, .none⟩, ⟨1, 1, 6, false, .none⟩, ⟨2, 1, 7, false, .none⟩] }) (fun st =>
      st.owedEor = false ∧ st.hdrs = [] ∧ st.period.issueTime st.next st.issued ≤ st.admitted ∧ ¬(st.eot = true ∧ st.issued = st.admitted) ∧
      ∀ j ∈ [0, 1], (st.held.find? fun x => x.lane == (st.period.source j st.issued).1 && x.vec == (st.period.source j st.issued).2).isSome) := by
  refine ⟨⟨rfl, _, rfl, ?_⟩, ⟨rfl, _, rfl, ?_⟩, rfl, _, rfl, ?_⟩ <;> decide +kernel

/-- The count of values that do not fit: at NZMAX a further value, and the status word behind it. -/
theorem witness_csr_overflow : let c := str 0x22 [1 + 2 * 2 ^ 32, 1 + 2 ^ 32 * 4] fun c => { c with item := 1, acc := [c.nzmax, 0] }
    c.item < c.rows * c.cols ∧ c.acc.headD 0 = c.nzmax ∧ okE (engineRead c (c.mode false false) (c.src (strState c 0 4 [7, 7, 7, 7])).oid
      (c.srcAt (strState c 0 4 [7, 7, 7, 7]) + c.item * c.elSize) c.elSize rRead c.nzmax (strState c 0 4 [7, 7, 7, 7])) (fun bs _ => !elemZero c.etype (leNat bs)) = true := by
  decide +kernel

end Sys2Proof.Tests
end

section
/-! SUPPORT. Memory forms on ready operands: the turn they take, the request they put out, and the checks of R158 that keep it in. -/

namespace Sys2Proof.Machine

/-! The shared turn of the element-wise memory forms. -/

/-- A tensor under way, or one that follows nothing, does not wait at in3 (R179). -/
theorem MemReady.withAfter_eq {cx : Cx} {ps : List Nat} {os : List Operand} (h : MemReady cx ps os) (k : Turn) :
    withAfter cx k = k := by
  rcases h.begun with hb | hb <;> simp [withAfter, hb]

/-- The link heads of ready ports are non-void VALs, at least one. -/
theorem MemReady.heads_eq {cx : Cx} {ps : List Nat} {os : List Operand} (h : MemReady cx ps os) :
    ∃ k ks, cx.heads (ps.filter cx.isLink) = some (k :: ks) ∧ ∀ j ∈ k :: ks, j.kind = .val ∧ j.void = false := by
  have hv : ∀ p ∈ ps.filter cx.isLink, ∃ k, cx.head p = some k ∧ k.kind = .val ∧ k.void = false := by
    intro p hp
    obtain ⟨hmem, hlink⟩ := List.mem_filter.1 hp
    exact h.values p hmem hlink
  obtain ⟨ks, hks, hlen, hall⟩ := mapM_head hv
  cases ks with
  | nil => exact absurd (List.length_eq_zero_iff.1 hlen.symm) h.linked
  | cons k ks => exact ⟨k, ks, hks, hall⟩

/-- No ready link refuses its VAL, whatever headers the form accepts there. -/
theorem MemReady.find_refuses_eq_none {cx : Cx} {ps : List Nat} {os : List Operand} (h : MemReady cx ps os)
    (hdrOk : Nat → W64 → Bool) : (ps.filter cx.isLink).find? (fun p => cx.refuses p markKinds (hdrOk p)) = none := by
  rw [List.find?_eq_none]
  intro p hp
  obtain ⟨hmem, hlink⟩ := List.mem_filter.1 hp
  obtain ⟨k, hk, hkind, _⟩ := h.values p hmem hlink
  rw [Cx.refuses_val hk hkind (hdrOk p) fun _ => true, h.taken p hmem hlink]
  simp

/-- With its operands ready, an element-wise memory form does with them what f says (R180). -/
theorem memTurn_ready {cx : Cx} {ps : List Nat} {os : List Operand} (h : MemReady cx ps os) (results : Bool)
    (f : List Operand → Turn) : memTurn cx ps results f = f os := by
  obtain ⟨k, ks, hks, hall⟩ := h.heads_eq
  have hbound : ps.all cx.bound = true := List.all_eq_true.2 h.bound
  have hval : k.kind = .val := (hall k List.mem_cons_self).1
  have hsame : ((ps.filter cx.isLink).zip (k :: ks)).find? (fun pk => pk.2.kind != Kind.val) = none := by
    rw [List.find?_eq_none]
    intro pk hpk
    simp [(hall pk.2 (List.of_mem_zip hpk).2).1]
  have hvoid : (k :: ks).any (·.void) = false := by
    rw [List.any_eq_false]
    intro j hj
    simp [(hall j hj).2]
  unfold memTurn
  simp only [h.find_refuses_eq_none, hbound, h.operands, hks, hval, hsame, hvoid, Bool.not_true, Bool.false_eq_true, if_false,
    beq_self_eq_true, if_true]

/-! The turn of a request form. -/

/-- Alignment that a form demands of the byte of its element: plain stores none, the others their own size (R180). -/
def RequestForm.align (e : RequestForm) (m : Mods) : Nat := if e.kind = .store then 1 else e.size m

/-- The k register of a form, after the hidden parts of the heads it takes. -/
abbrev RequestForm.cap (e : RequestForm) (cx : Cx) : Cap := cx.kreg (e.ks cx.m) (e.ports.filter cx.isLink)

/-- The byte that a form's index operand names. -/
def RequestForm.byte (e : RequestForm) (cx : Cx) (os : List Operand) : Int :=
  Claims.byteAt (e.cap cx) (opPay os 0) (e.size cx.m)

/-- The turn of a form on ready operands: it issues its one request. -/
def RequestForm.turn (e : RequestForm) (cx : Cx) (os : List Operand) : Turn :=
  issueAt cx (e.ports.filter cx.isLink) e.kind e.acc (e.ks cx.m) e.need (e.byte cx os) (e.size cx.m) (e.align cx.m)
    (opPay os 0).toNat e.answers (e.fill cx.m os)

/-- A synchronising form issues its request. -/
theorem syncForm_ready {s : State} {cx : Cx} {ps : List Nat} {os : List Operand} (hr : CellReady s cx) (hm : MemReady cx ps os)
    (kind : ReqKind) (acc ks need : Nat) (results : Bool) (f : List Operand → Req → Req) :
    syncForm s cx.m ps kind acc ks need results f = .next (applyTurn cx
      (issueAt cx (ps.filter cx.isLink) kind acc ks need
        (Claims.byteAt (cx.kreg ks (ps.filter cx.isLink)) (opPay os 0) cx.z) cx.z cx.z (opPay os 0).toNat results (f os))) := by
  rw [syncForm, cellTurn_ready hr, memTurn_ready hm, hm.withAfter_eq]
  rfl

/-- An ATOM issues its request: its FORM is the one its operation word holds (R189). -/
theorem atomForm_ready {s : State} {cx : Cx} {os : List Operand} (op : Mods → Instr) (form : Nat) (hr : CellReady s cx)
    (hm : MemReady cx (Claims.atom op form).ports os) (hf : (Claims.atom op form).fits cx.m) :
    atomForm s cx.m (Claims.atom op form).ports = .next (applyTurn cx ((Claims.atom op form).turn cx os)) := by
  rw [atomForm, syncForm_ready hr hm]
  obtain rfl : cx.m.modF 0 4 = form := hf
  rfl

/-- A future form issues its request, if the offset of the registration it names is sound (R196). -/
theorem futForm_ready {s : State} {cx : Cx} {ps : List Nat} {os : List Operand} (hr : CellReady s cx) (hm : MemReady cx ps os)
    (kind : ReqKind) (f : List Operand → Req → Req)
    (ho : 1 < ps.length → futOffsetOk (cx.kreg (cx.m.modF 0 2) (ps.filter cx.isLink)) (opPay os 1).toNat = true) :
    futForm s cx.m ps kind f = .next (applyTurn cx
      (issueAt cx (ps.filter cx.isLink) kind 3 (cx.m.modF 0 2) rFuture
        (Claims.byteAt (cx.kreg (cx.m.modF 0 2) (ps.filter cx.isLink)) (opPay os 0) 8) 8 8 (opPay os 0).toNat true (f os))) := by
  rw [futForm, cellTurn_ready hr, memTurn_ready hm]
  by_cases hp : 1 < ps.length
  · simp only [Cx.links, ho hp, Bool.not_true, Bool.and_false, Bool.false_eq_true, if_false]
    rfl
  · simp only [hp, decide_false, Bool.false_and, Bool.false_eq_true, if_false]
    rfl

/-- STG of values issues its store (R185). -/
theorem execStg_ready {s : State} {cx : Cx} {os : List Operand} (hr : CellReady s cx) (hm : MemReady cx [0, 1] os)
    (hf : cx.m.modF 2 1 = 0) :
    execStg cx.m s = .next (applyTurn cx
      (issueAt cx ([0, 1].filter cx.isLink) .store 1 (cx.m.modF 0 2) rWrite
        (Claims.byteAt (cx.kreg (cx.m.modF 0 2) ([0, 1].filter cx.isLink)) (opPay os 0) cx.z) cx.z 1 (opPay os 0).toNat false
        fun q => { q with data := opPay os 1 })) := by
  rw [execStg, cellTurn_ready hr]
  simp only [hf, Nat.reduceBEq, Bool.false_eq_true, if_false]
  rw [memTurn_ready hm, hm.withAfter_eq]
  rfl

/-- Every request form, on ready operands, issues its one request. -/
theorem exec_requestForm {e : RequestForm} (he : e ∈ requestForms) {s : State} {cx : Cx} {os : List Operand}
    (hr : CellReady s cx) (hm : MemReady cx e.ports os) (hf : e.fits cx.m)
    (ho : e.kind = .futreg ∨ e.kind = .futres → futOffsetOk (e.cap cx) (opPay os 1).toNat = true) :
    exec (e.op cx.m) s = .next (applyTurn cx (e.turn cx os)) := by
  simp only [requestForms, List.mem_cons, List.not_mem_nil, or_false] at he
  rcases he with rfl | rfl | rfl | rfl | rfl | rfl | rfl | rfl | rfl | rfl | rfl | rfl | rfl | rfl | rfl | rfl
  · exact atomForm_ready .atomAdd 0 hr hm hf
  · exact atomForm_ready .atomMin 1 hr hm hf
  · exact atomForm_ready .atomMax 2 hr hm hf
  · exact atomForm_ready .atomAnd 3 hr hm hf
  · exact atomForm_ready .atomOr 4 hr hm hf
  · exact atomForm_ready .atomXor 5 hr hm hf
  · exact atomForm_ready .atomXchg 6 hr hm hf
  · exact atomForm_ready .atomCas 7 hr hm hf
  · exact syncForm_ready hr hm .ldacq 3 _ rRead true _
  · exact syncForm_ready hr hm .strel 3 _ rWrite false _
  · exact syncForm_ready hr hm .monw 3 _ rRead true _
  · exact execStg_ready hr hm hf
  · exact futForm_ready hr hm .futnew _ fun h => absurd h (by decide)
  · exact futForm_ready hr hm .futreg _ fun _ => ho (.inl rfl)
  · exact futForm_ready hr hm .futres _ fun _ => ho (.inr rfl)
  · exact futForm_ready hr hm .futget _ fun h => absurd h (by decide)

/-! The checks of R158, in order. -/

/-- A capability that lets the request passes every check. -/
theorem capCheckAt_lets {k : Cap} {need : Nat} {b : Int} {z align : Nat} (h : k.lets need b z align) :
    capCheckAt k need b z align = none := by
  obtain ⟨htag, hrights, hlow, hhigh, haligned⟩ := h
  simp [capCheckAt, capCheck, htag, hrights, haligned, not_lt.2 hlow, not_lt.2 hhigh]

/-- The tag comes first. -/
theorem capCheckAt_untagged {k : Cap} (h : k.tag = false) (need : Nat) (b : Int) (z align : Nat) :
    capCheckAt k need b z align = some fcTag := by
  simp [capCheckAt, capCheck, h, fcTag]

/-- The rights come second. -/
theorem capCheckAt_rights {k : Cap} {need : Nat} (ht : k.tag = true) (h : k.rights &&& need ≠ need) (b : Int) (z align : Nat) :
    capCheckAt k need b z align = some fcRights := by
  simp [capCheckAt, capCheck, ht, h, fcRights]

/-- The bounds come third. -/
theorem capCheckAt_bounds {k : Cap} {need : Nat} {b : Int} {z : Nat} (ht : k.tag = true) (hr : k.rights &&& need = need)
    (h : b < k.base ∨ (k.top : Int) < b + z) (align : Nat) : capCheckAt k need b z align = some fcBounds := by
  simp [capCheckAt, capCheck, ht, hr, h, fcBounds]

/-- A request of which no byte, or its first, is at fault names its first byte. -/
theorem faultOfs_first {k : Cap} {code : Nat} {b : Int} (z : Nat) (h : code ≠ fcBounds ∨ b < k.base) :
    faultOfs k code b z = (b % (2 ^ 44 : Nat)).toNat := by
  rcases h with h | h
  · simp [faultOfs, show code ≠ 1 from h]
  · simp [faultOfs, not_le.2 h]

/-- A request that runs over the top names the top. -/
theorem faultOfs_top {k : Cap} {b : Int} {z : Nat} (hb : (k.base : Int) ≤ b) (ht : b < k.top) (h : (k.top : Int) < b + z) :
    faultOfs k fcBounds b z = ((k.top : Int) % (2 ^ 44 : Nat)).toNat := by
  simp [faultOfs, fcBounds, hb, ht, h]

/-- A capability's failed check freezes the region with its record (R158). -/
theorem cellFault_capability {code : Nat} (h : code ∈ [fcTag, fcRights, fcBounds]) (s : State) (r : Region) (c : Nat) (a : Access) :
    cellFault s r c code a = freeze s r code srcCell a.words := by
  simp only [List.mem_cons, List.not_mem_nil, or_false] at h
  rcases h with rfl | rfl | rfl <;> rfl

/-! A request that may issue, and one that may not. -/

/-- The issue of a request that nothing holds back and that passes its checks. -/
theorem issueAt_passes {cx : Cx} {takes : List Nat} {ks need size align : Nat} {b : Int} {results : Bool}
    (hh : (cx.kPending ks || !tileRoom cx 1 || (results && cx.m.rdstNat != 0 && cx.pendingReg cx.m.rdstNat)) = false)
    (hc : capCheckAt (cx.kreg ks takes) need b size align = none) (kind : ReqKind) (acc base : Nat) (f : Req → Req) :
    issueAt cx takes kind acc ks need b size align base results f = .act
      { takes := takes
        upd := fun y =>
          let y := if results then y.addResult (cx.awaits (.plain .val 0)) else y
          let rd := if results then cx.m.rdstNat else 0
          { y with runPos := y.runPos + 1, pending := if rd == 0 then y.pending else y.pending ++ [rd] }
        after := fun s => issueReq s (f { cx.request kind (cx.kreg ks takes) b.toNat size
          { cx.access 0 acc (cx.x.cfg.inIdx 0) (cx.kreg ks takes) b need base with pos := cx.x.rt.runPos } with
          rdst := if results then cx.m.rdstNat else 0 }) } := by
  rw [issueAt, if_neg (by rw [hh]; exact Bool.false_ne_true)]
  dsimp only
  rw [hc]

/-- A request that nothing holds back and that fails a check. -/
theorem issueAt_refused {cx : Cx} {takes : List Nat} {ks need size align : Nat} {b : Int} {results : Bool} {code : Nat}
    (hh : (cx.kPending ks || !tileRoom cx 1 || (results && cx.m.rdstNat != 0 && cx.pendingReg cx.m.rdstNat)) = false)
    (hc : capCheckAt (cx.kreg ks takes) need b size align = some code) (kind : ReqKind) (acc base : Nat) (f : Req → Req) :
    issueAt cx takes kind acc ks need b size align base results f = checkFails cx takes results code
      { cx.access 0 acc (cx.x.cfg.inIdx 0) (cx.kreg ks takes) b need base with
        pos := cx.x.rt.runPos, ofs := faultOfs (cx.kreg ks takes) code b size } := by
  rw [issueAt, if_neg (by rw [hh]; exact Bool.false_ne_true)]
  dsimp only
  rw [hc]

section
variable {e : RequestForm} {cx : Cx} {os : List Operand} (hk : cx.kPending (e.ks cx.m) = false)
  (hd : e.answers = true → cx.rdstFree) (ht : tileRoom cx 1 = true)
include hk hd ht

/-- Nothing holds the request back: its k register and the register it names are not pending, and its memory tile takes one more. -/
theorem RequestForm.not_held :
    (cx.kPending (e.ks cx.m) || !tileRoom cx 1 || (e.answers && cx.m.rdstNat != 0 && cx.pendingReg cx.m.rdstNat)) = false := by
  cases ha : e.answers with
  | false => simp [hk, ht]
  | true => rcases hd ha with h | h <;> simp [hk, ht, h]

/-- A request that passes its checks is put out, and the place of its result is kept. -/
theorem RequestForm.applyTurn_lets (h : (e.cap cx).lets e.need (e.byte cx os) (e.size cx.m) (e.align cx.m)) :
    let rd := if e.answers then cx.m.rdstNat else 0
    let a : Access := { cx.access 0 e.acc (cx.x.cfg.inIdx 0) (e.cap cx) (e.byte cx os) e.need (opPay os 0).toNat with
      pos := cx.x.rt.runPos }
    applyTurn cx (e.turn cx os) = commit cx
      { takes := e.ports.filter cx.isLink
        upd := fun y => { y with
          results := if e.answers then y.results ++ [cx.awaits (.plain .val 0)] else y.results
          runPos := y.runPos + 1, pending := if rd = 0 then y.pending else y.pending ++ [rd] }
        after := fun s => issueReq s
          (e.fill cx.m os { cx.request e.kind (e.cap cx) (e.byte cx os).toNat (e.size cx.m) a with rdst := rd }) } := by
  have hc := capCheckAt_lets h
  rw [RequestForm.turn, issueAt_passes (RequestForm.not_held hk hd ht) hc]
  simp only [applyTurn, beq_iff_eq]
  cases e.answers <;> rfl

/-- A request that fails a check of its capability does not issue: a scout delivers a void VAL where it answers, any other cell
freezes its region (R35, R158). -/
theorem RequestForm.applyTurn_fails {code : Nat} {o : Int}
    (hc : capCheckAt (e.cap cx) e.need (e.byte cx os) (e.size cx.m) (e.align cx.m) = some code)
    (hcode : code ∈ [fcTag, fcRights, fcBounds])
    (ho : faultOfs (e.cap cx) code (e.byte cx os) (e.size cx.m) = (o % (2 ^ 44 : Nat)).toNat) :
    (cx.x.cfg.scout = false → applyTurn cx (e.turn cx os) = freeze cx.s cx.r code srcCell
      ({ cx.access 0 e.acc (cx.x.cfg.inIdx 0) (e.cap cx) (e.byte cx os) e.need (opPay os 0).toNat with
         pos := cx.x.rt.runPos, ofs := (o % (2 ^ 44 : Nat)).toNat } : Access).words) ∧
    (cx.x.cfg.scout = true → applyTurn cx (e.turn cx os) = commit cx
      { takes := e.ports.filter cx.isLink
        upd := fun y => { y with
          results := if e.answers then y.results ++ [cx.ready .voidVal cx.t] else y.results, runPos := y.runPos + 1 } }) := by
  rw [RequestForm.turn, issueAt_refused (RequestForm.not_held hk hd ht) hc, ho]
  constructor <;> intro hs <;> simp only [checkFails, hs, Bool.false_eq_true, if_false, if_true, applyTurn]
  · exact cellFault_capability hcode _ _ _ _
  · cases e.answers <;> rfl

end

/-- Each request form issues one request for its element. -/
theorem memoryFormsIssueOneRequestPerElement : Claims.MemoryFormsIssueOneRequestPerElement := by
  intro e he s cx os hr hm hf m takes z k b hk hd ht hl ho rd a
  rw [exec_requestForm he hr hm hf ho]
  exact congrArg _ (RequestForm.applyTurn_lets hk hd ht hl)

/-- Each request form fails the checks of R158 in their order. -/
theorem memoryFormsAreCheckedInOrder : Claims.MemoryFormsAreCheckedInOrder := by
  intro e he s cx os hr hm hf hreg hres m takes z k b hk hd ht fails
  have hexec : exec (e.op m) s = .next (applyTurn cx (e.turn cx os)) :=
    exec_requestForm he hr hm hf fun h => (h.elim hreg hres).elim
  have fails_of {code : Nat} {o : Int} (hc : capCheckAt k e.need b z (e.align m) = some code)
      (hcode : code ∈ [fcTag, fcRights, fcBounds]) (ho : faultOfs k code b z = (o % (2 ^ 44 : Nat)).toNat) : fails code o := by
    obtain ⟨hother, hscout⟩ := RequestForm.applyTurn_fails hk hd ht hc hcode ho
    rw [hr.state] at hother
    exact ⟨fun hs => hexec.trans (congrArg _ (hother hs)), fun hs => hexec.trans (congrArg _ (hscout hs))⟩
  refine ⟨fun htag => ?_, fun htag hrights => ?_, fun htag hrights hlow => ?_, fun htag hrights hlow hin hover => ?_⟩
  · exact fails_of (capCheckAt_untagged htag ..) (by simp) (faultOfs_first _ (.inl (by decide)))
  · exact fails_of (capCheckAt_rights htag hrights ..) (by simp) (faultOfs_first _ (.inl (by decide)))
  · exact fails_of (capCheckAt_bounds htag hrights (.inl hlow) _) (by simp) (faultOfs_first _ (.inr hlow))
  · exact fails_of (capCheckAt_bounds htag hrights (.inr hover) _) (by simp) (faultOfs_top hlow hin hover)

/-- Settles O11: on ready operands each request form comes down to `issueAt`, whose capability check either passes, and the request
is put out, or names the first check of R158 that fails. -/
theorem memoryFormsCheckAndIssue : Obligations.MemoryFormsCheckAndIssue :=
  ⟨memoryFormsIssueOneRequestPerElement, memoryFormsAreCheckedInOrder⟩

end Sys2Proof.Machine
end

section
/-! SUPPORT. The fabric cycle, the clock steps and the thermal shutdown: what each changes in its die and leaves alone. -/

namespace Sys2Proof.Machine

/-! Entries of codebooks. -/

theorem lookD_put_same {κ α : Type} [BEq κ] [LawfulBEq κ] (l : List (κ × α)) (k : κ) (v d : α) : lookD (put l k v) k d = v := by
  induction l with
  | nil => simp [put, lookD, look]
  | cons x l ih =>
    by_cases hx : x.1 = k
    · simp [put, lookD, look, hx]
    · simpa [put, lookD, look, hx] using ih

theorem lookD_del_same {κ α : Type} [BEq κ] [LawfulBEq κ] (l : List (κ × α)) (k : κ) (d : α) : lookD (del l k) k d = d := by
  have hnone : (del l k).find? (·.1 == k) = none := by
    rw [List.find?_eq_none]
    intro x hx
    simpa [del] using (List.mem_filter.1 hx).2
  simp [lookD, look, hnone]

/-- The one codebook write that is due is seen (R128). -/
theorem Die.lookD_applyBooks {x : Die} {k : Nat × Nat × Nat} {e : BitVec 16} (h : x.bookDue = [(k, e)]) :
    lookD x.applyBooks.books k 0 = e := by
  simp only [Die.applyBooks, h, List.foldl_cons, List.foldl_nil]
  split
  · next he => rw [lookD_del_same, he]
  · exact lookD_put_same _ _ _ _

/-! Updates of one die. -/

/-- The die updated. -/
theorem State.die_updDie_same {s : State} {d : Nat} (h : d < s.dies.length) (f : Die → Die) :
    (s.updDie d f).die d = f (s.die d) := by
  rw [State.die_updDie s d d f h, if_pos rfl]

/-- Everything that a clock, power or cycle event of die d leaves alone. -/
def SameButDie (d : Nat) (s t : State) : Prop :=
  t.mem = s.mem ∧ t.tasks = s.tasks ∧ t.reqs = s.reqs ∧ ∀ e, e ≠ d → t.die e = s.die e

theorem State.sameButDie_updDie (s : State) (d : Nat) (f : Die → Die) : SameButDie d s (s.updDie d f) :=
  ⟨rfl, rfl, rfl, fun e he => State.die_updDie_other s d e f he⟩

/-! The fabric cycle (R4). -/

/-- A stopped clock starts again, and nothing else changes (R331). -/
theorem execFabricCycle_stopped {s : State} (h : (s.die s.focus.die).stopped = true) :
    execFabricCycle s = .next (s.updDie s.focus.die fun x => { x with stopped := false }) := by
  simp [execFabricCycle, h]

/-- A die whose clock runs, in a cycle: the counter, codebook writes, and how long it has had a reason to change its step; hard says
that it draws more than its share of the power. -/
def Die.tick (hard : Bool) (x : Die) : Die :=
  { x.applyBooks with cycle := x.cycle + 1, hot := if hard then x.hot + 1 else if overHeat x then x.hot else 0,
                      cool := if hard || overHeat x then 0 else x.cool + 1 }

/-- A region in a cycle of die d. -/
def Region.tick (d : Nat) (r : Region) : Region := if r.die == d then r.boundary else r

/-- The state after a cycle of the running clock of the die in focus. -/
def State.tick (s : State) : State :=
  { s.updDie s.focus.die (Die.tick (overPower s (s.die s.focus.die))) with regions := s.regions.map (Region.tick s.focus.die) }

/-- A running clock advances its die and its regions. -/
theorem execFabricCycle_running {s : State} (h : (s.die s.focus.die).stopped = false) : execFabricCycle s = .next s.tick := by
  rw [execFabricCycle, if_neg (by rw [h]; exact Bool.false_ne_true)]
  rfl

/-- A region of another die has no cycle. -/
theorem Region.tick_other {d : Nat} {r : Region} (h : r.die ≠ d) : r.tick d = r := by simp [Region.tick, h]

/-- A region of the die meets its boundary. -/
theorem Region.tick_here {d : Nat} {r : Region} (h : r.die = d) : r.tick d = r.boundary := by simp [Region.tick, h]

/-- No cycle moves the program, the counters, the status or the cells of a region. -/
theorem Region.tick_keeps (d : Nat) (r : Region) :
    (r.tick d).pc = r.pc ∧ (r.tick d).i = r.i ∧ (r.tick d).st = r.st ∧ (r.tick d).cells = r.cells := by
  unfold Region.tick
  split <;> exact ⟨rfl, rfl, rfl, rfl⟩

/-- A breakpoint that is due stops a region that nothing else has frozen (R225). -/
theorem Region.boundary_frozen_brk {r : Region} {c : Nat} (hb : r.brkDue = some c) (hf : r.frozen = .no) :
    r.boundary.frozen = .brk c := by
  simp [Region.boundary, hb, hf]

/-- With none due a region is as frozen as before. -/
theorem Region.boundary_frozen_none {r : Region} (hb : r.brkDue = none) : r.boundary.frozen = r.frozen := by
  simp [Region.boundary, hb]

/-- What a cycle of a running clock does to its die. -/
theorem State.tick_die {s : State} (hd : s.focus.die < s.dies.length) :
    let x := s.die s.focus.die
    let y := s.tick.die s.focus.die
    y.cycle = x.cycle + 1 ∧ y.bookDue = [] ∧ y.launch = x.launch ∧ y.faults = x.faults ∧ y.matrix = x.matrix ∧
      ∀ k e, x.bookDue = [(k, e)] → lookD y.books k 0 = e := by
  intro x y
  have hy : y = x.tick (overPower s x) := State.die_updDie_same hd _
  rw [hy]
  exact ⟨rfl, rfl, rfl, rfl, rfl, fun k e hbook => Die.lookD_applyBooks hbook⟩

/-- What it does to a region of its die. -/
theorem Region.tick_boundary {d : Nat} {r : Region} (h : r.die = d) :
    (r.tick d).ctlw = [] ∧ (r.tick d).w = r.ctlw.foldl (fun w e => w.set e.1 e.2) r.w ∧
      (∀ c, r.brkDue = some c → r.frozen = .no → (r.tick d).frozen = .brk c) ∧
      (r.brkDue = none → (r.tick d).frozen = r.frozen) := by
  rw [Region.tick_here h]
  exact ⟨rfl, rfl, fun c => Region.boundary_frozen_brk, Region.boundary_frozen_none⟩

/-! Clock steps (R331). -/

/-- One step down. -/
theorem Die.setStep_succ (x : Die) :
    x.setStep (x.cstep.toNat + 1) = { x with cstep := x.cstep + 1, stopped := true, hot := 0, cool := 0 } := by
  have hstep : BitVec.ofNat 3 (x.cstep.toNat + 1) = x.cstep + 1 := by simp [BitVec.ofNat_add]
  rw [Die.setStep, hstep]

/-- One step up. -/
theorem Die.setStep_pred {x : Die} (h : 0 < x.cstep.toNat) :
    x.setStep (x.cstep.toNat - 1) = { x with cstep := x.cstep - 1, stopped := true, hot := 0, cool := 0 } := by
  have hstep : BitVec.ofNat 3 (x.cstep.toNat - 1) = x.cstep - 1 := by bv_omega
  rw [Die.setStep, hstep]

/-- A die steps down after a millisecond with a reason to, as far as step 4. -/
theorem stepsDown_iff {x : Die} : stepsDown x = true ↔ cyclesPerMs x.cstep ≤ x.hot ∧ x.cstep.toNat < 4 := by
  simp [stepsDown]

/-- A die steps up after 10 ms without a reason to step down, as far as step 0. -/
theorem stepsUp_iff {x : Die} : stepsUp x = true ↔ 10 * cyclesPerMs x.cstep ≤ x.cool ∧ 0 < x.cstep.toNat := by
  simp [stepsUp]

/-- An event that updates the die in focus changes no other. -/
theorem State.updDie_focus_only {s : State} (hd : s.focus.die < s.dies.length) {f : Die → Die} {y : Die}
    (h : f (s.die s.focus.die) = y) : ∃ t, (Host.Outcome.next (s.updDie s.focus.die f) : Out) = .next t ∧
      SameButDie s.focus.die s t ∧ t.die s.focus.die = y :=
  ⟨_, rfl, State.sameButDie_updDie s _ f, (State.die_updDie_same hd f).trans h⟩

/-! Thermal shutdown (R331). -/

/-- At 115 degrees the module is reset and off. -/
theorem execThermalShutdown_hot {s : State} (h : ∃ y ∈ s.dies, 115 * 16 ≤ y.temp.toNat) :
    execThermalShutdown s = .next ((resetModule s).updMod fun m => { m with off := true }) := by
  have hhot : tooHot s = true := by simpa [tooHot] using h
  rw [execThermalShutdown, if_pos hhot]

/-- Below it nothing happens. -/
theorem execThermalShutdown_cool {s : State} (h : ∀ y ∈ s.dies, y.temp.toNat < 115 * 16) : execThermalShutdown s = .next s := by
  have hcool : ¬ tooHot s = true := by simpa [tooHot] using h
  rw [execThermalShutdown, if_neg hcool]

/-- Settles O51: each event updates its die alone, and a cycle of a running clock takes the regions of that die over their boundary. -/
theorem cyclesClockAndPower : Obligations.CyclesClockAndPower := by
  intro s d x other hd
  refine ⟨fun hstop => ?_, fun hrun => ?_, ⟨fun hhot hstep => ?_, fun hno => ?_, fun hcool hstep => ?_, fun hno => ?_⟩,
    fun hhot => ?_, execThermalShutdown_cool⟩
  · exact ⟨_, execFabricCycle_stopped hstop, State.sameButDie_updDie s d _, State.die_updDie_same hd _, rfl⟩
  · obtain ⟨hcycle, hdue, hlaunch, hfaults, hmatrix, hbooks⟩ := State.tick_die hd
    refine ⟨s.tick, execFabricCycle_running hrun, State.sameButDie_updDie s d _, hcycle, hdue, hlaunch, hfaults, hmatrix, hbooks,
      List.length_map _, fun i r hr => ?_⟩
    obtain ⟨hpc, hi, hst, hcells⟩ := Region.tick_keeps d r
    have hget : s.tick.regions[i]? = some (r.tick d) := by simp [State.tick, hr, d]
    exact ⟨r.tick d, hget, Region.tick_other, hpc, hi, hst, hcells, Region.tick_boundary⟩
  · exact State.updDie_focus_only hd ((if_pos (stepsDown_iff.2 ⟨hhot, hstep⟩)).trans (Die.setStep_succ x))
  · refine State.updDie_focus_only hd (if_neg fun h => ?_)
    obtain ⟨hlong, hstep⟩ := stepsDown_iff.1 h
    exact hno.elim (not_lt.2 hlong) (not_le.2 hstep)
  · exact State.updDie_focus_only hd ((if_pos (stepsUp_iff.2 ⟨hcool, hstep⟩)).trans (Die.setStep_pred hstep))
  · refine State.updDie_focus_only hd (if_neg fun h => ?_)
    obtain ⟨hlong, hstep⟩ := stepsUp_iff.1 h
    exact hno.elim (not_lt.2 hlong) (Nat.ne_of_gt hstep)
  · exact ⟨_, execThermalShutdown_hot hhot, rfl, rfl, rfl, rfl, rfl⟩

end Sys2Proof.Machine
end

section
/-! SUPPORT. Reductions: the turn of RED and SCAN on each kind of token at in0, and that of RED in LANE mode. -/

namespace Sys2Proof.Machine

/-- A register that is free does not hold a firing back. -/
theorem Cx.rdstFree.not_pending {cx : Cx} (h : cx.rdstFree) : (cx.m.rdstNat != 0 && cx.pendingReg cx.m.rdstNat) = false := by
  rcases h with h | h <;> simp [h]

/-! The turn on markers (R14, R142, R143). -/

/-- What a sent result leaves of the run that it closes. -/
theorem closed_eq_countResult (cx : Cx) (y : CellRt) :
    Claims.closed cx y = { (countResult cx y).1 with begun := false, runPos := 0 } := by
  unfold Claims.closed countResult
  split <;> rfl

/-- A result that fills the run of the result order closes it. -/
theorem countResult_closes (cx : Cx) (y : CellRt) :
    (countResult cx y).2 = decide ((redOrder cx).runLen ≤ y.outCnt + 1) := by
  unfold countResult
  split <;> simp [*]

/-- The value over every run so far, as SCAN holds it ahead of a run. -/
abbrev scanValue (cx : Cx) : W64 := if cx.x.rt.phase = 1 then cx.x.rt.acc2 else redIdentity (cx.m.modF 0 4) cx.m.tyNat

section
variable {cx : Cx} {k : Token} (hk : cx.offers 0 k markKinds (hdrRed cx.m)) (hfree : cx.rdstFree)
include hk hfree

/-- An element is folded into the running value. -/
theorem reduceTurn_val (hv : k.kind = .val) (hn : k.void = false) (scan : Bool) :
    reduceTurn cx scan = .act
      { takes := [0], flags := (redStep cx (runValue cx) ⟨k.pay, 0, true⟩).2
        upd := fun y => { y with
          acc := (redStep cx (runValue cx) ⟨k.pay, 0, true⟩).1, begun := true, runPos := y.runPos + 1 } } := by
  obtain ⟨hhead, hrefuses⟩ := hk
  simp [reduceTurn, hhead, hrefuses, hfree.not_pending, hv, hn]

/-- A void element counts in its run and changes nothing else. -/
theorem reduceTurn_void (hv : k.kind = .val) (hn : k.void = true) (scan : Bool) :
    reduceTurn cx scan = .act { takes := [0], upd := fun y => { y with runPos := y.runPos + 1 } } := by
  obtain ⟨hhead, hrefuses⟩ := hk
  simp [reduceTurn, hhead, hrefuses, hfree.not_pending, hv, hn]

/-- RED at the end of a run sends what it holds. -/
theorem reduceTurn_eor_red (hv : k.kind = .eor) :
    reduceTurn cx false = .act
      { takes := [0], sends := cx.toAll (.plain .val (runValue cx)), val := some (runValue cx), rdst := cx.m.rdstNat
        rdstVal := runValue cx, upd := Claims.closed cx } := by
  obtain ⟨hhead, hrefuses⟩ := hk
  simp only [reduceTurn, hhead, hrefuses, hfree.not_pending, hv, Bool.false_eq_true, if_false, closeRun, funext (closed_eq_countResult cx)]

/-- SCAN at the end of a run sends the value over every run so far, and starts anew where it fills the result order's run. -/
theorem reduceTurn_eor_scan (hv : k.kind = .eor) :
    let v := redStep cx (scanValue cx) ⟨runValue cx, 0, false⟩
    reduceTurn cx true = .act
      { takes := [0], sends := cx.toAll (.plain .val v.1), val := some v.1, rdst := cx.m.rdstNat, rdstVal := v.1, flags := v.2
        upd := fun y => { Claims.closed cx y with
          acc2 := v.1, phase := if (redOrder cx).runLen ≤ y.outCnt + 1 then 0 else 1 } } := by
  obtain ⟨hhead, hrefuses⟩ := hk
  simp only [reduceTurn, hhead, hrefuses, hfree.not_pending, hv, Bool.false_eq_true, if_false, if_true, closeRun,
    closed_eq_countResult, countResult_closes, beq_iff_eq, decide_eq_true_eq]

/-- An EOT between runs goes on, and the result order starts anew. -/
theorem reduceTurn_eot (hv : k.kind = .eot) (hp : cx.x.rt.runPos = 0) (scan : Bool) :
    reduceTurn cx scan = .act
      { takes := [0], sends := cx.toAll (.plain .eot 0), upd := fun y => { y with outCnt := 0, phase := 0 } } := by
  obtain ⟨hhead, hrefuses⟩ := hk
  simp [reduceTurn, hhead, hrefuses, hfree.not_pending, hv, hp]

/-! The turn in LANE mode (R142, R143). -/

/-- With in1 unbound the value at in0 goes on as it is. -/
theorem laneTurn_unbound (hb : cx.bound 1 = false) (hv : k.kind = .val) (hn : k.void = false) :
    laneTurn cx = .act
      { takes := [0], sends := cx.toAll k, val := some k.pay, rdst := cx.m.rdstNat, rdstVal := k.pay } := by
  obtain ⟨hhead, hrefuses⟩ := hk
  simp [laneTurn, hb, hhead, hrefuses, hfree.not_pending, moveAll, hv, hn]

/-- Two values are combined, that of in0 on the left. -/
theorem laneTurn_bound {k' : Token} (hb : cx.bound 1 = true) (hk' : cx.offers 1 k' markKinds (hdrRed cx.m))
    (hv : k.kind = .val) (hv' : k'.kind = .val) (hn : k.void = false) (hn' : k'.void = false) :
    let op := cx.m.modF 0 4
    let ty := cx.m.tyNat
    let q := redFloat op ty (rmodeOf cx.m.rmNat) (cx.fArg ty ⟨k.pay, 0, true⟩) (cx.fArg ty ⟨k'.pay, 1, true⟩)
    let v : W64 × FlagBits := if op < 8 then (redInt op ty k.pay k'.pay, 0) else (BitVec.ofNat 64 q.bits, q.flags)
    laneTurn cx = .act
      { takes := [0, 1], sends := cx.toAll (.plain .val v.1), val := some v.1, rdst := cx.m.rdstNat, rdstVal := v.1
        flags := v.2 } := by
  obtain ⟨hhead, hrefuses⟩ := hk
  obtain ⟨hhead', hrefuses'⟩ := hk'
  simp [laneTurn, hb, hhead, hrefuses, hhead', hrefuses', hfree.not_pending, hv, hv', hn, hn']

end

/-! The steps. -/

/-- RED over a cycle level takes the turn of a reduction. -/
theorem exec_red_markers {s : State} {cx : Cx} (hr : CellReady s cx) (hl : cx.m.modF 4 1 = 0) :
    exec (.red cx.m) s = .next (applyTurn cx (reduceTurn cx false)) := by
  change execRed cx.m s = _
  rw [execRed, cellTurn_ready hr, hl]
  rfl

/-- RED in LANE mode. -/
theorem exec_red_lane {s : State} {cx : Cx} (hr : CellReady s cx) (hl : cx.m.modF 4 1 = 1) :
    exec (.red cx.m) s = .next (applyTurn cx (laneTurn cx)) := by
  change execRed cx.m s = _
  rw [execRed, cellTurn_ready hr, hl]
  rfl

/-- SCAN takes the turn of a reduction. -/
theorem exec_scan_markers {s : State} {cx : Cx} (hr : CellReady s cx) :
    exec (.scan cx.m) s = .next (applyTurn cx (reduceTurn cx true)) := by
  change execScan cx.m s = _
  rw [execScan, cellTurn_ready hr]

/-- What RED and SCAN do alike. -/
theorem exec_reduction {s : State} {cx : Cx} (hr : CellReady s cx) (hl : cx.m.modF 4 1 = 0) {e : Effect}
    (h : ∀ scan, reduceTurn cx scan = .act e) : ∀ i ∈ [Instr.red cx.m, Instr.scan cx.m], exec i s = .next (commit cx e) := by
  simp only [List.forall_mem_cons, List.not_mem_nil, false_implies, implies_true, and_true]
  exact ⟨(exec_red_markers hr hl).trans (by rw [h false]; rfl), (exec_scan_markers hr).trans (by rw [h true]; rfl)⟩

/-- Settles O10: each kind of token at in0 has its turn, which RED and SCAN share but at the end of a run. -/
theorem reductionsFoldRunsFromTheIdentity : Obligations.ReductionsFoldRunsFromTheIdentity := by
  intro s cx k hr hfree m y ident now two
  refine ⟨fun hk hl => ⟨fun hv hn => ?_, fun hv hn => ?_, fun hv => ⟨?_, ?_⟩, fun hv hp => ?_⟩,
    fun hl hb hk hv hn => ?_, fun k' hl hb hk hk' hv hv' hn hn' => ?_⟩
  · exact exec_reduction hr hl (reduceTurn_val hk hfree hv hn)
  · exact exec_reduction hr hl (reduceTurn_void hk hfree hv hn)
  · rw [exec_red_markers hr hl, reduceTurn_eor_red hk hfree hv]
    rfl
  · rw [exec_scan_markers hr, reduceTurn_eor_scan hk hfree hv]
    rfl
  · exact exec_reduction hr hl (reduceTurn_eot hk hfree hv hp)
  · rw [exec_red_lane hr hl, laneTurn_unbound hk hfree hb hv hn]
    rfl
  · rw [exec_red_lane hr hl, laneTurn_bound hk hfree hb hk' hv hv' hn hn']
    rfl

end Sys2Proof.Machine
end

section
/-! SUPPORT. Emitters: the turn they share, told apart by how much of their command has left. -/

namespace Sys2Proof.Machine

/-- Every emitter takes the one turn. -/
theorem exec_emitter {op : Mods → Instr} (h : op ∈ emitters) (m : Mods) (s : State) :
    exec (op m) s = cellTurn s m emitTurn := by
  simp only [emitters, List.mem_cons, List.not_mem_nil, or_false] at h
  rcases h with rfl | rfl | rfl | rfl | rfl | rfl | rfl | rfl | rfl | rfl | rfl | rfl | rfl | rfl | rfl <;> rfl

/-- FWD of an emitter, half the CTLs that it forwards (R233). -/
abbrev Cx.fwd (cx : Cx) : Nat := fieldNat (cx.x.cfg.const 2) 0 8

/-- A hand-over header heads the emitter's in0 (R244). -/
def Cx.handed (cx : Cx) : Prop := ∃ k, cx.head 0 = some k ∧ k.kind = .hdr ∧ k.pay = handHdr

/-- The in0 token that an emitter takes in this step: with the first of the command alone. -/
abbrev Cx.emitTakes (cx : Cx) : List Nat := if cx.x.rt.phase = 0 then [0] else []

/-- An emitter after a step of the command: one token further, and behind c1 at the start of the next. -/
abbrev Cx.emitStep (cx : Cx) (y : CellRt) : CellRt :=
  { y with phase := if cx.x.rt.phase = 2 * cx.fwd + 1 then 0 else cx.x.rt.phase + 1 }

/-- What an emitter sends of its own: a word of its command, under its cell number. -/
abbrev Cx.emitWord (cx : Cx) (w : W64) : Token := ⟨.ctl, w, false, .emit cx.c, 0, false⟩

theorem Cx.any_handed (cx : Cx) :
    ((cx.head 0).any fun k => k.kind == .hdr && k.pay == handHdr) = true ↔ cx.handed := by
  simp [Option.any_eq_true, Cx.handed]

/-- A hand-over header is turned away, however far the command has got. -/
theorem emitTurn_handed {cx : Cx} (h : cx.handed) : emitTurn cx = .reject 0 :=
  if_pos (cx.any_handed.2 h)

/-- A command that is under way, or that a token of in0 starts, does not wait for one. -/
theorem Cx.emit_started {cx : Cx} (hs : cx.x.rt.phase ≠ 0 ∨ (cx.head 0).isSome = true) :
    (cx.x.rt.phase == 0 && (cx.head 0).isNone) = false := by
  rcases hs with h | h <;> simp [h]

section
variable {cx : Cx} (hh : ¬cx.handed) (hs : cx.x.rt.phase ≠ 0 ∨ (cx.head 0).isSome = true)
include hh hs

/-- A command that is under way, or that a token of in0 starts, forwards a CTL of in1 while there are some to forward. -/
theorem emitTurn_forwards {c : Token} (hn : cx.x.rt.phase < 2 * cx.fwd) (hc : refusesCtl cx 1 = false) (hhead : cx.head 1 = some c) :
    emitTurn cx = .act { takes := cx.emitTakes ++ [1], sends := [(0, c)], upd := cx.emitStep } := by
  simp only [emitTurn, if_neg (mt cx.any_handed.1 hh), Cx.emit_started hs, if_pos hn, hc, hhead, Bool.false_eq_true, if_false, beq_iff_eq,
    Nat.succ_inj]

/-- Behind them it sends its words, c0 and then c1. -/
theorem emitTurn_words (hn : 2 * cx.fwd ≤ cx.x.rt.phase) :
    emitTurn cx = .act
      { takes := cx.emitTakes
        sends := [(0, cx.emitWord (if cx.x.rt.phase = 2 * cx.fwd then cx.x.cfg.const 0 else cx.x.cfg.const 1))]
        upd := cx.emitStep } := by
  simp only [emitTurn, if_neg (mt cx.any_handed.1 hh), Cx.emit_started hs, if_neg (Nat.not_lt.2 hn), Bool.false_eq_true, if_false, beq_iff_eq,
    Nat.succ_inj]

end

/-- Settles O20: every emitter takes the one turn, which the number of tokens sent so far tells apart. -/
theorem emittersForwardAndSendTheirCommand : Obligations.EmittersForwardAndSendTheirCommand := by
  intro op hop s cx hr fwd n last takes step word handed
  have hexec : exec (op cx.m) s = .next (applyTurn cx (emitTurn cx)) := (exec_emitter hop cx.m s).trans (cellTurn_ready hr emitTurn)
  rw [hexec]
  refine ⟨fun hh => ?_, fun hh hs => ⟨fun c hn hc hhead => ?_, fun hn => ?_, fun hn => ?_⟩⟩
  · rw [emitTurn_handed hh, applyTurn, hr.state]
  · rw [emitTurn_forwards hh hs hn hc hhead]
    rfl
  · rw [emitTurn_words hh hs (Nat.le_of_eq hn.symm), if_pos hn]
    rfl
  · have hlt : 2 * fwd < n := by omega
    rw [emitTurn_words hh hs (Nat.le_of_lt hlt), if_neg (Nat.ne_of_gt hlt)]
    rfl

end Sys2Proof.Machine
end

section
/-! SUPPORT. The clock of a die beside records and writes, a region found at its place and updated, and the controller in focus. -/

namespace Sys2Proof.Machine

/-! The clock of a die beside records and writes (R4). -/

theorem now_updDie (s : State) (d : Nat) {f : Die → Die} (hf : ∀ x, (f x).cycle = x.cycle) (e : Nat) :
    (s.updDie d f).now e = s.now e :=
  congrArg BitVec.toNat (getD_modNth_map Die.cycle f hf s.dies d e .reset)

theorem now_sendOn (s : State) (n : Nat) (fs : List Flit) (d : Nat) : (sendOn s n fs).now d = s.now d := by
  change (putPort s _).now d = _
  unfold putPort
  split
  · rfl
  · refine now_updDie _ _ ?_ _
    exact fun _ => rfl

theorem now_sendFlits (s : State) (fs : List Flit) (d : Nat) : (sendFlits s fs).now d = s.now d := by
  unfold sendFlits
  split
  · rfl
  · split
    · rfl
    · exact now_sendOn _ _ _ _

theorem now_tellPeer (woke : Bool) (s : State) (m : Monitor) (d : Nat) : (tellPeer woke s m).now d = s.now d := by
  unfold tellPeer
  split
  · rfl
  · exact now_sendFlits _ _ _

/-- A fold of steps that leave the clocks alone does so too. -/
theorem now_foldl {α : Type} {f : State → α → State} (hf : ∀ s a d, (f s a).now d = s.now d) (l : List α) (s : State) (d : Nat) :
    (l.foldl f s).now d = s.now d := by
  induction l generalizing s with
  | nil => rfl
  | cons a l ih => exact (ih (f s a)).trans (hf s a d)

theorem now_wake (s : State) (g d : Nat) : (wake s g).now d = s.now d :=
  now_foldl (now_tellPeer true) _ _ d

theorem now_pokeBytes (s : State) (a : Nat) (bs : List Byte) (d : Nat) : (pokeBytes s a bs).now d = s.now d :=
  now_foldl now_wake _ _ d

theorem now_addPut (s : State) (p : Put) (d : Nat) : (s.addPut p).now d = s.now d := by
  unfold State.addPut
  split
  · split <;> rfl
  · rfl

theorem now_pokePhys (s : State) (a : Nat) (bs : List Byte) (q d : Nat) : (pokePhys s a bs q).now d = s.now d := by
  unfold pokePhys
  split
  · exact now_pokeBytes _ _ _ _
  · exact now_addPut _ _ _

/-- A change to the fault registers of a die leaves every clock alone. -/
theorem now_updFaults (s : State) (e : Nat) (f : Die → FaultQ) (d : Nat) :
    (s.updDie e fun x => { x with faults := f x }).now d = s.now d := by
  refine now_updDie _ _ ?_ _
  exact fun _ => rfl

/-- A record posted leaves every clock alone. -/
@[simp] theorem now_post (s : State) (p : Where) (code src : Nat) (vec : Bool) (tseq : Nat) (ws : List Nat) (d : Nat) :
    (post s p code src vec tseq ws).now d = s.now d := by
  unfold post
  dsimp only
  split
  · split
    · exact (now_pokePhys _ _ _ _ _).trans (now_updFaults _ _ _ _)
    · exact now_updFaults _ _ _ _
  · exact now_updFaults _ _ _ _

/-- A region found at a place, after an update of it. -/
theorem region_updRegion_found {s : State} {d b : Nat} {r : Region} (h : s.region d b = some r) {f : Region → Region}
    (hf : KeepsPlace f) : (s.updRegion r.die r.rblk f).region d b = some (f r) := by
  obtain ⟨hd, hb⟩ := State.region_place h
  rw [hd, hb, State.region_updRegion_same hf, h]
  rfl

/-- Updates that agree on the regions of their place are one. -/
theorem updRegion_congr {s : State} {d b : Nat} {f g : Region → Region} (h : ∀ x, x.die = d → f x = g x) :
    s.updRegion d b f = s.updRegion d b g := by
  have hfg : (fun r : Region => if r.die == d && r.rblk == b then f r else r) =
      fun r => if r.die == d && r.rblk == b then g r else r := by
    funext x
    split
    · next hx => exact h x (by simpa using (Bool.and_eq_true_iff.1 hx).1)
    · rfl
  rw [State.updRegion, State.updRegion, hfg]

/-! The controller in focus. -/

/-- The controller in focus executes its instruction. -/
theorem ctlTurn_at {s : State} {r : Region} (h : Claims.at_ s r) (f : Region → Out) : ctlTurn s f = f r := by
  rw [ctlTurn, show s.region s.focus.die s.focus.rblk = some r from h]

/-- A step that leaves the traffic with other modules as it is, alone as its actor is, stands (R315). -/
theorem State.Alone.settle_eq {s t : State} (h : s.Alone) (hfocus : t.focus = s.focus) (hasks : t.asks = s.asks)
    (hwords : t.words = s.words) (hwants : t.wants = s.wants) (hputs : t.puts = s.puts) : settle s t = t :=
  settle_alone h.asked hfocus (by rw [State.asking, hasks, hfocus]; exact h.asked) (by rw [hwords, hfocus]; exact h.told)
    (hwants.trans h.wants) (hputs.trans h.puts)

end Sys2Proof.Machine
end

section
/-! SUPPORT. Configuration commands: what a command applied and a faulty one leave, and the fields of a cell. -/

namespace Sys2Proof.Machine

/-! A command, applied or faulty (R94). -/

section
variable {s : State} {r : Region} {c : CfgRun} (h : Claims.cmdAt s r c)
include h

theorem cmdTurn_at (f : Region → CfgRun → Out) : cmdTurn s f = f r c := by
  obtain ⟨hr, hc⟩ := h
  rw [cmdTurn, show s.region s.focus.die s.focus.rblk = some r from hr]
  dsimp only
  rw [hc]

/-- The region after a command that is applied. -/
theorem Claims.applied.region {i : Instr} {n : Nat} {f : Region → Region} {g : CfgRun → CfgRun} (ha : Claims.applied s r c i n f g)
    (hf : KeepsPlace f) : ∃ t, exec i s = .next t ∧ t.region s.focus.die s.focus.rblk =
      some { f r with cfg := some { g c with pos := c.pos + 1, at_ := s.now r.die + n } } :=
  ⟨_, ha, region_updRegion_found h.1 hf⟩

omit h in
/-- A faulty command posts its record, and the controller goes on behind the CFG with the code that a RUN will trap with. -/
theorem configFault_eq (cell field : Nat) : configFault s r c cell field =
    (post s r.place fcConfig srcCtl false 0 (configWords c cell field false)).updRegion r.die r.rblk fun x =>
      { x with cfg := none, runTrap := some fcConfig, pc := c.pc + 8, ctl := .ready (s.now r.die + 1) } := by
  rw [configFault, cfgLeave, ctlGo, now_post]

/-- A command that comes to a fault is CONFIG_ILLEGAL, whatever cell and field its record names. -/
theorem faulty_of_configFault {i : Instr} {cell field : Nat} (hi : exec i s = .next (configFault s r c cell field)) :
    Claims.faulty s r c i := by
  rw [configFault_eq] at hi
  exact ⟨_, hi, fun hs => post_mem (p := r.place) hs .., region_updRegion_found ((post_region ..).trans h.1) fun _ => ⟨rfl, rfl⟩⟩

omit h in
theorem applied_of_cmdDone {i : Instr} {n : Nat} {f : Region → Region} {g : CfgRun → CfgRun}
    (hi : exec i s = .next (cmdDone s r c n f g)) : Claims.applied s r c i n f g := by
  refine hi.trans (congrArg _ (updRegion_congr fun x hx => ?_))
  rw [hx]

/-- A command that is applied where it is sound, and is CONFIG_ILLEGAL elsewhere. -/
theorem applied_or_faulty {i : Instr} {bad : Bool} {sound : Prop} (hsound : bad = false ↔ sound) {cell field n : Nat}
    {f : Region → Region} {g : CfgRun → CfgRun}
    (hi : exec i s = if bad then .next (configFault s r c cell field) else .next (cmdDone s r c n f g)) :
    (sound → Claims.applied s r c i n f g) ∧ (¬sound → Claims.faulty s r c i) := by
  cases bad with
  | false => exact ⟨fun _ => applied_of_cmdDone hi, fun hs => absurd (hsound.1 rfl) hs⟩
  | true => exact ⟨fun hs => Bool.noConfusion (hsound.2 hs), fun _ => faulty_of_configFault h hi⟩

end

/-! What each command checks (R9, R91 to R95). -/

/-- A command that neither continues a value nor stands under a cover, and is not the last that the CFG counts. -/
def CfgRun.Alone (c : CfgRun) : Prop := (c.pos + 1 ≠ c.count ∧ c.exts = []) ∧ c.cover = .none

theorem CfgRun.Alone.more {c : CfgRun} (h : c.Alone) : c.pos + 1 ≠ c.count := h.1.1

theorem CfgRun.isLast_eq_false {c : CfgRun} : c.isLast = false ↔ c.pos + 1 ≠ c.count := by simp [CfgRun.isLast]

/-- The value of a command is that of its EXTENDs above its own bits. -/
theorem CfgRun.value_eq_extended (c : CfgRun) (low n : Nat) : c.value low n = Claims.extended c low n := rfl

theorem CfgRun.clear_iff {c : CfgRun} : c.clear = true ↔ c.Alone := by simp [CfgRun.clear, CfgRun.isLast, CfgRun.Alone]

section
variable {s : State} {r : Region} {c : CfgRun} (h : Claims.cmdAt s r c)
include h

/-- At most four EXTENDs stand before a WRITE or TOKEN (R9). -/
theorem extend_outcome (e : BitVec 30) :
    (c.pos + 1 ≠ c.count ∧ c.exts.length < 4 → Claims.applied s r c (.extend e) 1 id fun x => { x with exts := c.exts ++ [e] }) ∧
    (¬(c.pos + 1 ≠ c.count ∧ c.exts.length < 4) → Claims.faulty s r c (.extend e)) :=
  applied_or_faulty h (by simp [CfgRun.isLast]) (cmdTurn_at h _)

/-- SELECT BASE may stand under a cover, and not behind an EXTEND (R91, R92). -/
theorem selectBase_outcome (b : BitVec 14) :
    (c.pos + 1 ≠ c.count ∧ c.exts = [] → Claims.applied s r c (.selectBase b) 1 id fun x => { x with base := b.toNat }) ∧
    (¬(c.pos + 1 ≠ c.count ∧ c.exts = []) → Claims.faulty s r c (.selectBase b)) :=
  applied_or_faulty h (by simp [CfgRun.isLast]) (cmdTurn_at h _)

/-- SELECT REPEAT stands alone, with a stride (R91). -/
theorem selectRepeat_outcome (st n : BitVec 14) :
    (c.Alone ∧ st ≠ 0 →
      Claims.applied s r c (.selectRepeat st n) 1 id fun x => { x with cover := .rep st.toNat (n.toNat + 1) }) ∧
    (¬(c.Alone ∧ st ≠ 0) → Claims.faulty s r c (.selectRepeat st n)) :=
  applied_or_faulty h (by simp [← CfgRun.clear_iff]) (cmdTurn_at h _)

/-- SELECT BMASK stands alone, with rows and columns in order and inside the region (R91). -/
theorem selectBmask_outcome (r0 r1 c0 c1 : BitVec 4) :
    (c.Alone ∧ r0.toNat ≤ r1.toNat ∧ c0.toNat ≤ c1.toNat ∧ r1.toNat < r.height ∧ c1.toNat < r.width →
      Claims.applied s r c (.selectBmask r0 r1 c0 c1) 1 id fun x =>
        { x with cover := .mask r0.toNat r1.toNat c0.toNat c1.toNat }) ∧
    (¬(c.Alone ∧ r0.toNat ≤ r1.toNat ∧ c0.toNat ≤ c1.toNat ∧ r1.toNat < r.height ∧ c1.toNat < r.width) →
      Claims.faulty s r c (.selectBmask r0 r1 c0 c1)) :=
  applied_or_faulty h (by simp [← CfgRun.clear_iff, and_assoc]) (cmdTurn_at h _)

/-- A cell's configuration with one more initial token at port p, ahead of which a TOKEN to a port that the CFG has not yet written
drops the port's list (R32). -/
def CellCfg.addToken (x : CellCfg) (p pos : Nat) (k : Token) : CellCfg :=
  { x.note (portNote p) pos with
    toks := x.toks.set p ((if x.tokNew.getD p false then x.toks.getD p [] else []) ++ [k]), tokNew := x.tokNew.set p true }

/-- TOKEN stands under no cover, with a kind and a value that a token has, to a cell of the region (R9, R25). -/
theorem token_outcome (k : BitVec 3) (cell : BitVec 14) (p : BitVec 2) (v : BitVec 9) :
    let tok := Token.plain (Kind.ofCode k.toNat) (BitVec.ofNat 64 (Claims.extended c v.toNat 9))
    let sound := c.pos + 1 ≠ c.count ∧ c.cover = .none ∧ k ≠ 7 ∧ c.base + cell.toNat < r.cellCount ∧
      Claims.extended c v.toNat 9 < 2 ^ 64
    (sound → Claims.applied s r c (.token k cell p v) 1
      (fun x => x.updCell (c.base + cell.toNat) fun y => { y with cfg := y.cfg.addToken p.toNat c.pos tok })
      fun x => { x with exts := [] }) ∧
    (¬sound → Claims.faulty s r c (.token k cell p v)) :=
  applied_or_faulty h (by simp [CfgRun.isLast, and_assoc, ← c.value_eq_extended]) (cmdTurn_at h _)

/-- START stands alone, to a cell of the region (R32). -/
theorem start_outcome (cell : BitVec 14) (p : BitVec 2) :
    (c.Alone ∧ c.base + cell.toNat < r.cellCount → Claims.applied s r c (.start cell p) 1
      (fun x => x.updCell (c.base + cell.toNat) fun y => { y with cfg :=
        { y.cfg.note (portNote p.toNat) c.pos with starts := y.cfg.starts.set p.toNat true } }) id) ∧
    (¬(c.Alone ∧ c.base + cell.toNat < r.cellCount) → Claims.faulty s r c (.start cell p)) :=
  applied_or_faulty h (by simp [← CfgRun.clear_iff]) (cmdTurn_at h _)

/-- A WRITE of a value that its field takes, under a cover that its cell fits. -/
theorem write_applied {cell : BitVec 14} {f : BitVec 6} {v : BitVec 10} {w : Nat} {ts : List Nat} (hm : c.pos + 1 ≠ c.count)
    (hw : fieldWidth f.toNat = some w) (ht : writeTargets r c cell.toNat = some ts) (hin : ∀ j ∈ ts, j < r.cellCount)
    (hval : Claims.extended c v.toNat 10 < 2 ^ w) (hok : fieldOk r.cellCount f.toNat (Claims.extended c v.toNat 10) = true) :
    Claims.applied s r c (.write cell f v) c.writeCycles
      (fun x => ts.foldl (fun x j => x.updCell j fun y => { y with cfg := y.cfg.setField f.toNat (Claims.extended c v.toNat 10) c.pos }) x)
      fun x => { x with exts := [], cover := .none } := by
  have hany : ts.any (r.cellCount ≤ ·) = false := by simpa using hin
  refine applied_of_cmdDone ((cmdTurn_at h _).trans ?_)
  simp only [CfgRun.isLast_eq_false.2 hm, hw, ht, hany, c.value_eq_extended, hok,
    not_le.2 hval, decide_false, Bool.not_true, Bool.or_self, Bool.false_eq_true, if_false]

/-- A WRITE that is the last command, or of an unassigned field. -/
theorem write_faulty {cell : BitVec 14} {f : BitVec 6} {v : BitVec 10} (hbad : c.pos + 1 = c.count ∨ fieldWidth f.toNat = none) :
    Claims.faulty s r c (.write cell f v) := by
  refine faulty_of_configFault h (cell := c.base + cell.toNat) (field := f.toNat) ((cmdTurn_at h _).trans ?_)
  dsimp only
  rcases hbad with hl | hw
  · simp [CfgRun.isLast, hl]
  · simp [hw]

end

/-! The cells that a WRITE reaches, and its cycles (R91 to R93). -/

theorem writeTargets_none {c : CfgRun} (h : c.cover = .none) (r : Region) (cell : Nat) :
    writeTargets r c cell = some [c.base + cell] ∧ c.writeCycles = 1 := by
  simp [writeTargets, CfgRun.writeCycles, h]

/-- Under REPEAT a WRITE reaches every d-th of m cells. -/
theorem writeTargets_rep {c : CfgRun} {d m : Nat} (h : c.cover = .rep d m) (r : Region) (cell : Nat) :
    (∃ ts, writeTargets r c cell = some ts ∧ ∀ j, j ∈ ts ↔ ∃ q < m, j = c.base + cell + q * d) ∧
      c.writeCycles = (m + 15) / 16 := by
  refine ⟨⟨(List.range m).map fun q => c.base + cell + q * d, by simp [writeTargets, h], fun j => ?_⟩, by
    simp [CfgRun.writeCycles, h, ceilDiv]⟩
  simp [eq_comm]

/-! The fields of a cell (R32, R93, R95). -/

/-- A WRITE of field 0. -/
theorem CellCfg.setField_op (x : CellCfg) (v pos : Nat) :
    x.setField 0 v pos = { x.note 0 pos with
      op := BitVec.ofNat 40 v, rinit := [], sinit := [], tinit := [], toks := List.replicate 4 [], starts := List.replicate 4 false } := rfl

theorem CellCfg.setField_in (x : CellCfg) {n : Nat} (h1 : 1 ≤ n) (h4 : n ≤ 4) (v pos : Nat) :
    x.setField n v pos = { x.note n pos with ins := x.ins.set (n - 1) (BitVec.ofNat 10 v) } := by
  simp [CellCfg.setField, CellCfg.note, Nat.ne_of_gt h1, h4]

theorem CellCfg.setField_out (x : CellCfg) {n : Nat} (h5 : 5 ≤ n) (h8 : n ≤ 8) (v pos : Nat) :
    x.setField n v pos = { x.note n pos with outs := x.outs.set (n - 5) (BitVec.ofNat 32 v) } := by
  simp [CellCfg.setField, CellCfg.note, show n ≠ 0 by omega, show ¬n ≤ 4 by omega, h8]

theorem CellCfg.setField_const (x : CellCfg) {n : Nat} (h16 : 16 ≤ n) (h31 : n ≤ 31) (v pos : Nat) :
    x.setField n v pos = { x.note n pos with consts := x.consts.set (n - 16) (BitVec.ofNat 64 v) } := by
  obtain ⟨i, rfl⟩ := Nat.exists_eq_add_of_le' h16
  simp [CellCfg.setField, CellCfg.note, show i ≤ 15 by omega]

theorem CellCfg.setField_bind (x : CellCfg) {n : Nat} (h32 : 32 ≤ n) (h35 : n ≤ 35) (v pos : Nat) :
    x.setField n v pos = { x.note n pos with binds := x.binds.set (n - 32) (some v) } := by
  obtain ⟨i, rfl⟩ := Nat.exists_eq_add_of_le' h32
  simp [CellCfg.setField, CellCfg.note, show i ≤ 3 by omega]

/-- Each field takes its value, and field 0 clears the initial values, tokens and marks. -/
theorem fieldsTakeTheirValues : Claims.FieldsTakeTheirValues := by
  intro x v pos n
  refine ⟨?_, fun h1 h4 => ?_, fun h5 h8 => ?_, fun h16 h31 => ?_, fun h32 h35 => ?_, rfl, rfl, rfl, rfl, rfl⟩
  · rw [CellCfg.setField_op]
    exact ⟨rfl, rfl, rfl, rfl, List.getElem?_getD_replicate_default_eq _ 4, List.getElem?_getD_replicate_default_eq _ 4,
      rfl, rfl, rfl, rfl⟩
  · rw [CellCfg.setField_in x h1 h4]
    exact ⟨rfl, rfl⟩
  · rw [CellCfg.setField_out x h5 h8]
    exact ⟨rfl, rfl⟩
  · rw [CellCfg.setField_const x h16 h31]
    exact ⟨rfl, rfl⟩
  · rw [CellCfg.setField_bind x h32 h35]

/-- Each command is applied where it is sound, and is CONFIG_ILLEGAL elsewhere. -/
theorem commandsConfigureCells : Claims.CommandsConfigureCells := by
  intro s r c e b st n cell f v r0 r1 c0 c1 k p v9 h more plain alone at1
  refine ⟨fun hm hl => (extend_outcome h e).1 ⟨hm, hl⟩, fun hl => (extend_outcome h e).2 fun hs => not_lt.2 hl hs.2,
    (selectBase_outcome h b).1, fun ha hst => (selectRepeat_outcome h st n).1 ⟨ha, hst⟩,
    fun ha hr hc hh hw => (selectBmask_outcome h r0 r1 c0 c1).1 ⟨ha, hr, hc, hh, hw⟩,
    fun hbad => (selectRepeat_outcome h st n).2 fun hs => hbad.elim (· hs.1) hs.2,
    fun hm hc hk hin hv => ?_, fun ha hin => ?_, fun w ts hm hw ht hin hval hok => write_applied h hm hw ht hin hval hok,
    fun hc => writeTargets_none hc r cell.toNat, fun d m hc => writeTargets_rep hc r cell.toNat,
    fun hw => write_faulty h (.inr hw), fun hlast => ?_⟩
  · obtain ⟨t, ht, hreg⟩ := ((token_outcome h k cell p v9).1 ⟨hm, hc, hk, hin, hv⟩).region h fun _ => ⟨rfl, rfl⟩
    let tok := Token.plain (Kind.ofCode k.toNat) (BitVec.ofNat 64 (Claims.extended c v9.toNat 9))
    have hcell := Region.cell_setCell_same r at1 { r.cell at1 with cfg := (r.cell at1).cfg.addToken p.toNat c.pos tok }
    refine ⟨t, _, ht, hreg, rfl, fun j hj => Region.cell_setCell_other _ _ _ _ hj, ?_⟩
    exact ⟨congrArg (·.cfg.toks) hcell, congrArg (·.cfg.tokNew) hcell, congrArg (·.cfg.op) hcell, congrArg (·.cfg.ins) hcell,
      congrArg (·.cfg.outs) hcell, congrArg (·.cfg.starts) hcell, congrArg (·.rt) hcell⟩
  · obtain ⟨t, ht, hreg⟩ := ((start_outcome h cell p).1 ⟨ha, hin⟩).region h fun _ => ⟨rfl, rfl⟩
    have hcell := Region.cell_setCell_same r at1 { r.cell at1 with cfg :=
      { (r.cell at1).cfg.note (portNote p.toNat) c.pos with starts := (r.cell at1).cfg.starts.set p.toNat true } }
    refine ⟨t, _, ht, hreg, rfl, fun j hj => Region.cell_setCell_other _ _ _ _ hj, ?_⟩
    exact ⟨congrArg (·.cfg.starts) hcell, congrArg (·.cfg.op) hcell, congrArg (·.cfg.toks) hcell, congrArg (·.rt) hcell⟩
  · have hlast : c.pos + 1 = c.count := not_ne_iff.1 hlast
    simp only [List.forall_mem_cons, List.not_mem_nil, false_implies, implies_true, and_true]
    exact ⟨write_faulty h (.inl hlast), (extend_outcome h e).2 fun hs => hs.1 hlast, (selectBase_outcome h b).2 fun hs => hs.1 hlast,
      (selectRepeat_outcome h st n).2 fun hs => hs.1.more hlast, (selectBmask_outcome h r0 r1 c0 c1).2 fun hs => hs.1.more hlast,
      (token_outcome h k cell p v9).2 fun hs => hs.1 hlast, (start_outcome h cell p).2 fun hs => hs.1.more hlast⟩

/-- Settles O34: each command is applied where it is sound and CONFIG_ILLEGAL elsewhere, and each field takes its value. -/
theorem commandsConfigureTheirCells : Obligations.CommandsConfigureTheirCells :=
  ⟨commandsConfigureCells, fieldsTakeTheirValues⟩

end Sys2Proof.Machine
end

section
/-! SUPPORT. BELAY and WAITC: what a trap entry leaves in st, when a BELAY is due, and what its completion ends. -/

namespace Sys2Proof.Machine

/-! What a trap entry leaves in st (R220, Table 13.2). -/

theorem fieldNat_lt {n : Nat} (x : BitVec n) (lo len : Nat) : fieldNat x lo len < 2 ^ len :=
  Nat.mod_lt _ (Nat.two_pow_pos len)

theorem fieldNat_eq_div_mod {n : Nat} (x : BitVec n) (lo len : Nat) : fieldNat x lo len = x.toNat / 2 ^ lo % 2 ^ len := by
  rw [fieldNat, Nat.shiftRight_eq_div_pow]

/-- Bit i of a field. -/
theorem testBit_fieldNat {n : Nat} (x : BitVec n) {lo len i : Nat} (h : i < len) :
    (fieldNat x lo len).testBit i = x.getLsbD (lo + i) := by
  simp [fieldNat, Nat.testBit_mod_two_pow, Nat.testBit_shiftRight, h, BitVec.getLsbD]

/-- Words with the same field have its bits in common. -/
theorem getLsbD_eq_of_fieldNat_eq {x y : W64} {lo len n : Nat} (h : fieldNat x lo len = fieldNat y lo len) (hlo : lo ≤ n)
    (hhi : n < lo + len) : x.getLsbD n = y.getLsbD n := by
  have hi : n - lo < len := by omega
  have hbit := testBit_fieldNat x (lo := lo) hi
  rw [h, testBit_fieldNat y hi, Nat.add_sub_cancel' hlo] at hbit
  exact hbit.symm

/-- st after a trap entry is the sum of its fields. -/
theorem stEntry_toNat (st : W64) (code restart : Nat) :
    (stEntry st code restart).toNat = fieldNat st 0 16 + code % 2 ^ 16 * 2 ^ 16 + fieldNat st 32 3 * 2 ^ 32 + 2 ^ 35 +
      restart / 8 % 2 ^ 28 * 2 ^ 36 := by
  have hlow := fieldNat_lt st 0 16
  have hseq := fieldNat_lt st 32 3
  simp only [stEntry, BitVec.toNat_ofNat, Nat.shiftLeft_eq, show st.toNat % 2 ^ 16 = fieldNat st 0 16 from rfl]
  omega

/-- A trap entry sets TCODE, TRAPD and TPC and keeps the rest of st. -/
theorem entered_stEntry (st : W64) (code restart : Nat) : Claims.entered st (stEntry st code restart) code restart := by
  have hlt := fieldNat_lt st 0 16
  have hlt' := fieldNat_lt st 32 3
  have hlow : fieldNat (stEntry st code restart) 0 16 = fieldNat st 0 16 := by
    rw [fieldNat_eq_div_mod, stEntry_toNat]
    omega
  have hcode : fieldNat (stEntry st code restart) 16 16 = code % 2 ^ 16 := by
    rw [fieldNat_eq_div_mod, stEntry_toNat]
    omega
  have hseq : fieldNat (stEntry st code restart) 32 3 = fieldNat st 32 3 := by
    rw [fieldNat_eq_div_mod, stEntry_toNat]
    omega
  have htrapd : fieldNat (stEntry st code restart) 35 1 = 1 := by
    rw [fieldNat_eq_div_mod, stEntry_toNat]
    omega
  have htpc : fieldNat (stEntry st code restart) 36 28 = restart / 8 % 2 ^ 28 := by
    rw [fieldNat_eq_div_mod, stEntry_toNat]
    omega
  have hbit : (stEntry st code restart).getLsbD 35 = true := by
    rw [← testBit_fieldNat (stEntry st code restart) (lo := 35) (len := 1) Nat.one_pos, htrapd]
    rfl
  exact ⟨hcode, hbit, htpc, fun n hn => getLsbD_eq_of_fieldNat_eq hlow n.zero_le (by omega),
    fun n hlo hhi => getLsbD_eq_of_fieldNat_eq hseq hlo (by omega)⟩

/-! The L1s of a region (R175). -/

theorem modNth_of_length_le {α : Type} {l : List α} {i : Nat} (h : l.length ≤ i) (f : α → α) : modNth l i f = l := by
  induction l generalizing i with
  | nil => rfl
  | cons y l ih =>
    cases i with
    | zero => exact absurd h (Nat.not_succ_le_zero _)
    | succ i => exact congrArg (y :: ·) (ih (Nat.le_of_succ_le_succ h))

/-- No line of a region's tiles is left in its die's L1s. -/
theorem invalidateL1_lines (s : State) (r : Region) : ∀ l ∈ ((invalidateL1 s r).die r.die).lines, l.blk ∉ r.blocks := by
  intro l hl
  change l ∈ ((s.updDie r.die fun x => { x with lines := x.lines.filter fun l => !r.blocks.contains l.blk }).die r.die).lines at hl
  by_cases hd : r.die < s.dies.length
  · rw [State.die_updDie _ _ _ _ hd, if_pos rfl] at hl
    simpa using (List.mem_filter.1 hl).2
  · rw [State.die, State.updDie_dies, modNth_of_length_le (Nat.not_lt.1 hd), List.getD_eq_default _ _ (Nat.not_lt.1 hd)] at hl
    exact absurd hl List.not_mem_nil

theorem now_invalidateL1 (s : State) (r : Region) (d : Nat) : (invalidateL1 s r).now d = s.now d := by
  change (s.updDie r.die _).now d = _
  refine now_updDie _ _ ?_ _
  exact fun _ => rfl

/-- A region found at its place, after its L1s are invalidated: its stream ports' line buffers are empty. -/
theorem region_invalidateL1 {s : State} {d b : Nat} {r x : Region} (h : s.region d b = some r) (hd : x.die = r.die)
    (hb : x.rblk = r.rblk) : (invalidateL1 s x).region d b =
      some { r with cells := r.cells.map fun c => (c.1, { c.2 with rt := { c.2.rt with lines := [] } }) } := by
  unfold invalidateL1
  rw [hd, hb]
  exact region_updRegion_found (s := s.updDie _ _) h fun _ => ⟨rfl, rfl⟩

/-! When a BELAY is due, and what it does (R206). -/

/-- A BELAY of a running pitch is not due while the pitch may still act. -/
theorem belayDue_running {s : State} {r : Region} {t : Nat} (hrun : r.running = true)
    (h : t < r.lastAct + 3 ∨ nothingDue s r t = false) (n : Nat) : belayDue s r n t = false := by
  rcases h with h | h <;> simp [belayDue, hrun, h, Nat.not_le.2]

/-- A BELAY where no pitch runs is not due in the two cycles from its issue on. -/
theorem belayDue_idle {s : State} {r : Region} {t n : Nat} (hrun : r.running = false) (h : t < n + 2) :
    belayDue s r n t = false := by
  simp [belayDue, hrun, h]

section
variable {s : State} {r : Region} (hat : Claims.at_ s r) {n : Nat} (hctl : r.ctl = .belay n)
include hat hctl

/-- A BELAY that is not due waits. -/
theorem execBelayPass_waits (halone : s.Alone) (hdue : belayDue s r n (s.now r.die) = false) : execBelayPass s = .next s := by
  rw [execBelayPass, ctlMem, ctlTurn_at hat, hctl]
  simp only [hdue, Bool.not_false, if_true, settleOut, halone.settle_eq rfl rfl rfl rfl rfl]

/-- A BELAY that is due reports the first engine fault held for it. -/
theorem execBelayPass_reports (hdue : belayDue s r n (s.now r.die) = true) {e : EngFault} {rest : List EngFault}
    (hfaults : r.engFaults = e :: rest) : execBelayPass s = settleOut s (.next (reportEngine s r e)) := by
  rw [execBelayPass, ctlMem, ctlTurn_at hat, hctl]
  simp only [hdue, Bool.not_true, Bool.false_eq_true, if_false, hfaults]

/-- A BELAY that is due, with no fault, extent or stage, ends the pitch. -/
theorem execBelayPass_ends (hdue : belayDue s r n (s.now r.die) = true) (hfaults : r.engFaults = []) (hfree : r.freeList = [])
    (hstage : r.stage = none) : execBelayPass s =
      settleOut s (.next (belayEnd (s.updRegion r.die r.rblk fun r => { r with freeList := [] }) r)) := by
  have hfrees : applyFrees s r = (some (), s.updRegion r.die r.rblk fun r => { r with freeList := [] }) := by
    rw [applyFrees, hfree]
    rfl
  rw [execBelayPass, ctlMem, ctlTurn_at hat, hctl]
  simp only [hdue, Bool.not_true, Bool.false_eq_true, if_false, hfaults, hfrees, commitStage, hstage]

end

/-- An engine fault that goes to the vector enters it at the BELAY, and those behind it stay (R206, R220). -/
theorem reportEngine_vector {s : State} {r : Region} {d b : Nat} (h : s.region d b = some r) {e : EngFault} (hvec : e.vec = true)
    (htrapd : r.trapd = false) : (reportEngine s r e).region d b = some
      { r with engFaults := r.engFaults.drop 1, st := stEntry r.st (0xFF00 + e.code) r.pc, pc := s.tvecOf r
               ctl := .ready (s.now r.die + 2) } := by
  simp only [reportEngine, hvec, htrapd, Bool.not_true, Bool.false_eq_true, if_false]
  exact region_updRegion_found (region_updRegion_found h (f := fun r => { r with engFaults := r.engFaults.drop 1 }) fun _ => ⟨rfl, rfl⟩)
    fun _ => ⟨rfl, rfl⟩

/-- The task of region r does not drain. -/
def NotDraining (s : State) (r : Region) : Prop := ∀ t, s.task r.seq = some t → ∀ d, t.pre ≠ .drain d

/-- The end of a pitch whose task does not drain: the pitch runs no more, and the region is not held (R206). -/
theorem belayEnd_eq {s : State} {r : Region} (hdrain : NotDraining s r) : belayEnd s r =
    ctlNext (dropScouts (invalidateL1 s r) r) r fun r => { r with running := false, held := false } := by
  unfold belayEnd
  cases ht : s.task r.seq with
  | none => rfl
  | some t =>
    cases hp : t.pre with
    | drain d => exact absurd hp (hdrain t ht d)
    | no => simp only [hp]
    | freeze => simp only [hp]

/-- What the end of a pitch leaves of its region, found as x. -/
theorem belayEnd_region {s : State} {r x : Region} {d b : Nat} (h : s.region d b = some x) (hd : x.die = r.die)
    (hb : x.rblk = r.rblk) (hdrain : NotDraining s r) : (belayEnd s r).region d b = some
      { x with cells := x.cells.map fun c => (c.1, { c.2 with rt := { c.2.rt with lines := [] } })
               running := false, held := false, pc := r.pc + 8, ctl := .ready (s.now r.die + 1) } := by
  have hnow : (dropScouts (invalidateL1 s r) r).now r.die = s.now r.die := now_invalidateL1 s r r.die
  have hlines := region_invalidateL1 h hd.symm hb.symm
  rw [belayEnd_eq hdrain, ctlNext, ctlGo, hnow, ← hd, ← hb]
  exact region_updRegion_found (s := dropScouts (invalidateL1 s r) r) hlines fun _ => ⟨rfl, rfl⟩

/-! The steps. -/

/-- A BELAY that is due, with no fault, extent or stage, ends its pitch and goes on (R206). -/
theorem execBelayPass_completes {s : State} {r : Region} (hat : Claims.at_ s r) (halone : s.Alone) {n : Nat} (hctl : r.ctl = .belay n)
    (hdue : belayDue s r n (s.now r.die) = true) (hfaults : r.engFaults = []) (hfree : r.freeList = []) (hstage : r.stage = none)
    (hdrain : NotDraining s r) :
    ∃ t r', execBelayPass s = .next t ∧ t.region s.focus.die s.focus.rblk = some r' ∧ r'.running = false ∧
      r'.held = false ∧ r'.pc = r.pc + 8 ∧ r'.ctl = .ready (s.now r.die + 1) ∧ r'.w = r.w ∧ r'.i = r.i ∧ r'.st = r.st ∧
      t.mem = s.mem ∧ (∀ l ∈ (t.die r.die).lines, l.blk ∉ r.blocks) ∧
      t.reqs = s.reqs.filter fun q => !(q.die == r.die && q.rblk == r.rblk && q.scout) := by
  let u := s.updRegion r.die r.rblk fun r => { r with freeList := [] }
  have hu : u.region s.focus.die s.focus.rblk = some { r with freeList := [] } := region_updRegion_found hat fun _ => ⟨rfl, rfl⟩
  have hend : belayEnd u r = ctlNext (dropScouts (invalidateL1 u r) r) r fun r => { r with running := false, held := false } :=
    belayEnd_eq (s := u) hdrain
  have hreg := belayEnd_region hu rfl rfl hdrain
  have hsettle : settle s (belayEnd u r) = belayEnd u r := by
    rw [hend]
    exact halone.settle_eq rfl rfl rfl rfl rfl
  refine ⟨belayEnd u r, _, ?_, hreg, rfl, rfl, rfl, rfl, rfl, rfl, rfl, ?_⟩
  · rw [execBelayPass_ends hat hctl hdue hfaults hfree hstage]
    exact congrArg _ hsettle
  · rw [hend]
    exact ⟨rfl, invalidateL1_lines u r, rfl⟩

/-- A BELAY that is due enters the vector where an engine fault held for it goes there. -/
theorem execBelayPass_enters {s : State} {r : Region} (hat : Claims.at_ s r) (halone : s.Alone) {n : Nat} (hctl : r.ctl = .belay n)
    (hdue : belayDue s r n (s.now r.die) = true) {e : EngFault} {rest : List EngFault} (hfaults : r.engFaults = e :: rest)
    (hvec : e.vec = true) (htrapd : r.trapd = false) :
    ∃ t r', execBelayPass s = .next t ∧ t.region s.focus.die s.focus.rblk = some r' ∧
      Claims.entered r.st r'.st (0xFF00 + e.code) r.pc ∧
      r' = { r with engFaults := rest, st := r'.st, pc := s.tvecOf r, ctl := .ready (s.now r.die + 2) } := by
  have hreg := reportEngine_vector hat hvec htrapd
  rw [hfaults] at hreg
  have hsettle : settle s (reportEngine s r e) = reportEngine s r e := by
    simp only [reportEngine, hvec, htrapd, Bool.not_true, Bool.false_eq_true, if_false]
    exact halone.settle_eq rfl rfl rfl rfl rfl
  refine ⟨reportEngine s r e, _, ?_, hreg, entered_stEntry _ _ _, rfl⟩
  rw [execBelayPass_reports hat hctl hdue hfaults]
  exact congrArg _ hsettle

section
variable {s : State} {r : Region} (hat : Claims.at_ s r)
include hat

/-- WAITC with no pitch to wait for. -/
theorem execWaitc_quiet (g : FmtG) (h : r.running = false ∨ quiescent s r (s.now r.die) = true) :
    execWaitc g s = .next (ctlNext s r (Region.setW g.wd 1)) := by
  rw [execWaitc, ctlTurn_at hat]
  rcases h with h | h <;> simp [h]

/-- WAITC with no time to wait. -/
theorem execWaitc_no_time (g : FmtG) (hrun : r.running = true) (hq : quiescent s r (s.now r.die) = false) (hb : (r.opB g).toNat = 0) :
    execWaitc g s = .next (ctlNext s r (Region.setW g.wd 0)) := by
  rw [execWaitc, ctlTurn_at hat]
  simp only [hrun, hq, hb, Bool.not_true, Bool.or_self, Bool.false_eq_true, if_false, if_true]

/-- WAITC that waits. -/
theorem execWaitc_waits (g : FmtG) (hrun : r.running = true) (hq : quiescent s r (s.now r.die) = false) (hb : (r.opB g).toNat ≠ 0) :
    execWaitc g s = .next (s.updRegion r.die r.rblk fun x => { x with ctl := .waitc g.wd.toNat (s.now r.die + (r.opB g).toNat) }) := by
  rw [execWaitc, ctlTurn_at hat]
  simp only [hrun, hq, hb, Bool.not_true, Bool.or_self, Bool.false_eq_true, if_false]

/-- The test of a waiting WAITC: it answers whether the pitch is quiescent once it is, or once its time is up. -/
theorem execWaitcEnd_eq {wd due : Nat} (hctl : r.ctl = .waitc wd due) : execWaitcEnd s =
    if quiescent s r (s.now r.die) then .next (ctlNext s r (Region.setW (BitVec.ofNat 4 wd) 1))
    else if due ≤ s.now r.die then .next (ctlNext s r (Region.setW (BitVec.ofNat 4 wd) 0))
    else .next s := by
  rw [execWaitcEnd, ctlTurn_at hat, hctl]

end

/-- An answer of WAITC goes into its register. -/
theorem setW_ofNat {wd : Nat} (h : wd < 16) (v : W64) (r : Region) :
    Region.setW (BitVec.ofNat 4 wd) v r = { r with w := r.w.set wd v } := by
  rw [Region.setW, BitVec.toNat_ofNat, Nat.mod_eq_of_lt h]

/-- Settles O31: a BELAY that is due reports its fault or ends its pitch, and WAITC answers whether the pitch is quiescent. -/
theorem belaysAndWaits : Obligations.BelaysAndWaits := by
  intro s r g hat halone now b answers
  refine ⟨ctlTurn_at hat _, fun n hctl => ⟨fun hrun h => ?_, fun hrun h => ?_, fun e rest hdue hfaults hvec htrapd => ?_,
      fun hdue hfaults hfree hstage hdrain => ?_⟩,
    execWaitc_quiet hat g, execWaitc_no_time hat g, execWaitc_waits hat g,
    fun wd due hwd hctl => ⟨fun hq => ?_, fun hq hdue => ?_, fun hq hdue => ?_⟩⟩
  · exact execBelayPass_waits hat hctl halone (belayDue_running hrun h n)
  · exact execBelayPass_waits hat hctl halone (belayDue_idle hrun h)
  · exact execBelayPass_enters hat halone hctl hdue hfaults hvec htrapd
  · exact execBelayPass_completes hat halone hctl hdue hfaults hfree hstage hdrain
  · refine (execWaitcEnd_eq hat hctl).trans ?_
    rw [if_pos hq, ctlNext, funext (setW_ofNat hwd 1)]
    rfl
  · refine (execWaitcEnd_eq hat hctl).trans ?_
    rw [if_neg (by rw [hq]; exact Bool.false_ne_true), if_pos hdue, ctlNext, funext (setW_ofNat hwd 0)]
    rfl
  · refine (execWaitcEnd_eq hat hctl).trans ?_
    rw [if_neg (by rw [hq]; exact Bool.false_ne_true), if_neg (Nat.not_le.2 hdue)]

end Sys2Proof.Machine
end

section
/-! SUPPORT. Words written out from the encoding tables. -/

namespace Sys2Proof.Machine

/-- Settles O60: the decoders take each of these closed words apart field by field. -/
theorem writtenWordsDecode : Obligations.WrittenWordsDecode := by
  unfold Obligations.WrittenWordsDecode
  decide

end Sys2Proof.Machine
end

section
/-! SUPPORT. The generator CTR: which item it sends in a cycle, and the firing that sends it. -/

namespace Sys2Proof.Machine

/-! The items of a result order (R42). -/

section
variable {o : OMap} {n : Nat}

/-- Behind the last run of the order stands its EOT. -/
theorem itemOf_eot (h : n = o.runs * (o.runLen + 1)) : itemOf o n = .eot := by
  simp [itemOf, h]

variable (h : n < o.runs * (o.runLen + 1))
include h

/-- Behind the elements of a run stands its EOR. -/
theorem itemOf_eor (hpos : n % (o.runLen + 1) = o.runLen) : itemOf o n = .eor := by
  simp [itemOf, Nat.ne_of_lt h, hpos]

/-- Ahead of it stand the elements of the run, numbered without the EORs of the runs before. -/
theorem itemOf_elem (hpos : n % (o.runLen + 1) < o.runLen) :
    itemOf o n = .elem (n / (o.runLen + 1) * o.runLen + n % (o.runLen + 1)) := by
  simp [itemOf, Nat.ne_of_lt h, Nat.ne_of_lt hpos]

end

/-! The firing (R116). -/

/-- The affine sum of the coordinates of an element, written out. -/
theorem ctrValue_eq (cx : Cx) (o : OMap) (lane cyc : Nat) :
    let c (n : Nat) : Int := intOf cx.m.tyNat (cx.x.cfg.const n)
    let xs := o.coords lane cyc
    ctrValue cx o lane cyc =
      ofInt cx.m.tyNat (c 0 + xs.getD 0 0 * c 1 + xs.getD 1 0 * c 2 + xs.getD 2 0 * c 3 + xs.getD 3 0 * c 4) := rfl

/-- The firing of CTR that sends an item. The first item takes the CTL that starts the tensor, and the EOT ends it. -/
def ctrSends (cx : Cx) (o : OMap) (i : Item) : Effect :=
  let takes := if cx.x.rt.gen.isNone then [0] else []
  let g := cx.x.rt.gen.getD ⟨0, 0⟩
  let more (y : CellRt) : CellRt := { y with gen := some { g with next := g.next + 1 } }
  match i with
  | .eot => { takes := takes, sends := cx.toAll (.plain .eot 0), upd := fun y => { y with gen := none } }
  | .eor => { takes := takes, sends := cx.toAll (.plain .eor 0), upd := more }
  | .elem k =>
    let v := ctrValue cx o (cx.x.cfg.lout 0) k
    { takes := takes, sends := cx.toAll (.plain .val v), val := some v, upd := more }

section
variable {s : State} {cx : Cx} {o : OMap} (hr : CellReady s cx) (ho : cx.orderOut0 = some o)
  (haccepts : cx.refuses 0 [.ctl] (fun _ => true) = false)
include hr ho haccepts

/-- A tensor under way, or one that a CTL at in0 starts, sends its next item. -/
theorem exec_ctr_sends (hs : cx.x.rt.gen ≠ none ∨ cx.head 0 ≠ none) :
    exec (.ctr cx.m) s = .next (commit cx (ctrSends cx o (itemOf o (cx.x.rt.gen.getD ⟨0, 0⟩).next))) := by
  change execCtr cx.m s = _
  rw [execCtr, cellTurn_ready hr]
  simp only [ho, haccepts, Bool.false_eq_true, if_false]
  split
  · next hgen hhead => exact (hs.elim (· hgen) (· hhead)).elim
  · cases itemOf o (cx.x.rt.gen.getD ⟨0, 0⟩).next <;> rfl

/-- A CTL at in0 starts a tensor with its first item. -/
theorem exec_ctr_starts {k : Token} (hgen : cx.x.rt.gen = none) (hk : cx.head 0 = some k) :
    exec (.ctr cx.m) s = .next (commit cx (ctrSends cx o (itemOf o 0))) := by
  rw [exec_ctr_sends hr ho haccepts (.inr (by simp [hk])), hgen]
  rfl

/-- A tensor under way goes on with its next item. -/
theorem exec_ctr_goes_on {g : Gen} (hgen : cx.x.rt.gen = some g) :
    exec (.ctr cx.m) s = .next (commit cx (ctrSends cx o (itemOf o g.next))) := by
  rw [exec_ctr_sends hr ho haccepts (.inl (by simp [hgen])), hgen]
  rfl

end

/-- Settles O24: each item of the result order has its place in the tensor, and CTR sends the item of the place that it has reached. -/
theorem ctrGeneratesItsOrder : Obligations.CtrGeneratesItsOrder := by
  intro s cx o k hr ho m y per c value haccepts
  have hvalue (n : Nat) : ctrValue cx o (cx.x.cfg.lout 0) n = value n := ctrValue_eq cx o (cx.x.cfg.lout 0) n
  refine ⟨fun hgen hk hruns hlen => ?_, fun g hgen => ?_⟩
  · have hitem : itemOf o 0 = .elem 0 := by
      simpa using itemOf_elem (Nat.mul_pos hruns o.runLen.succ_pos) (by simpa using hlen)
    rw [exec_ctr_starts hr ho haccepts hgen hk, hitem, ctrSends, hgen, hvalue]
    rfl
  · intro more n
    have hnext := exec_ctr_goes_on hr ho haccepts hgen
    refine ⟨fun hn hpos => ?_, fun hn hpos => ?_, fun hn => ?_⟩
    · rw [hnext, itemOf_elem hn hpos, ctrSends, hgen, hvalue]
      rfl
    · rw [hnext, itemOf_eor hn hpos, ctrSends, hgen]
      rfl
    · rw [hnext, itemOf_eot hn, ctrSends, hgen]
      rfl

end Sys2Proof.Machine
end

section
/-! SUPPORT. Controller instructions that go on, and JOIN and UNJOIN: a JOIN fault, the release of stores, and the destinations that
UNJOIN clears. -/

namespace Sys2Proof.Machine

/-- The region of an instruction that goes on (R201). -/
theorem region_ctlGo {s : State} {d b : Nat} {r : Region} (h : s.region d b = some r) (pc n : Nat) {f : Region → Region}
    (hf : KeepsPlace f) :
    (ctlGo s r.die r.rblk pc n f).region d b = some { f r with pc := pc, ctl := .ready (s.now r.die + n) } :=
  region_updRegion_found h fun x => hf x

/-! A JOIN fault (R60, R220). -/

/-- A failed check stops the controller at its JOIN. -/
theorem region_joinFault {s : State} {d b : Nat} {r : Region} (h : s.region d b = some r) (code desc p g : Nat) :
    (joinFault s r code desc p g).region d b = some { r with frozen := .sysTrap, ctl := .ready (s.now r.die) } := by
  simp only [joinFault, now_post]
  exact region_updRegion_found ((post_region ..).trans h) fun _ => ⟨rfl, rfl⟩

/-! The release of stores (R49). -/

section
variable {s : State} {r : Region} (ls : List LaneLink)

theorem now_releaseStores (e : Nat) : (releaseStores s r ls).now e = s.now e := by
  refine now_updDie s r.die ?_ e
  exact fun _ => rfl

/-- The stores at other consumer ports stay. -/
theorem region_releaseStores {d b : Nat} (h : s.region d b = some r) :
    (releaseStores s r ls).region d b = some { r with stores := r.stores.filter fun st => !st.shares ls } :=
  region_updRegion_found (s := s.updDie r.die _) h fun _ => ⟨rfl, rfl⟩

/-- The far granules of the stores released go back to the pool (R52). -/
theorem poolUsed_releaseStores (h : r.die < s.dies.length) :
    ((releaseStores s r ls).die r.die).poolUsed = (s.die r.die).poolUsed - sharedFar r ls := by
  refine (congrArg Die.poolUsed (State.die_updDie s r.die r.die _ h)).trans ?_
  rw [if_pos rfl]

end

/-! The destinations of the producers (R210). -/

/-- UNJOIN clears the destination field of a producer in the region. -/
def unbind (r : Region) (l : LaneLink) : Region :=
  if l.pcell < r.cellCount then
    r.updCell l.pcell fun x => { x with cfg := { x.cfg with outs := x.cfg.outs.set l.pout 0 } }
  else r

/-- Clearing changes cells alone. -/
theorem unbind_eq (r : Region) (l : LaneLink) : unbind r l = { r with cells := (unbind r l).cells } := by
  unfold unbind
  split <;> rfl

theorem foldl_unbind_eq (r : Region) (ls : List LaneLink) : ls.foldl unbind r = { r with cells := (ls.foldl unbind r).cells } := by
  induction ls generalizing r with
  | nil => rfl
  | cons l ls ih => rw [List.foldl_cons, ih, unbind_eq r l]

theorem stores_foldl_unbind (r : Region) (ls : List LaneLink) : (ls.foldl unbind r).stores = r.stores := by
  rw [foldl_unbind_eq]

theorem w_foldl_unbind (r : Region) (ls : List LaneLink) : (ls.foldl unbind r).w = r.w := by
  rw [foldl_unbind_eq]

theorem keeps_foldl_unbind (ls : List LaneLink) : KeepsPlace fun r => ls.foldl unbind r := by
  intro r
  dsimp only
  rw [foldl_unbind_eq]
  exact ⟨rfl, rfl⟩

theorem cell_unbind_other {r : Region} {l : LaneLink} {n : Nat} (h : l.pcell ≠ n) : (unbind r l).cell n = r.cell n := by
  unfold unbind
  split
  · exact Region.cell_setCell_other _ _ _ _ h.symm
  · rfl

/-- A cell that is no producer stays. -/
theorem cell_foldl_unbind_other {r : Region} {ls : List LaneLink} {n : Nat} (h : ∀ l ∈ ls, l.pcell ≠ n) :
    (ls.foldl unbind r).cell n = r.cell n := by
  induction ls generalizing r with
  | nil => rfl
  | cons l ls ih =>
    rw [List.forall_mem_cons] at h
    exact (ih h.2).trans (cell_unbind_other h.1)

/-- Destination p of cell n is unbound. -/
def Region.Unbound (r : Region) (n p : Nat) : Prop := (r.cell n).cfg.outs.getD p 0 = 0

theorem getD_set_zero (l : List (BitVec 32)) (i p : Nat) : (l.set i 0).getD p 0 = if i = p then 0 else l.getD p 0 := by
  simp only [List.getD_eq_getElem?_getD, List.getElem?_set]
  split
  · split <;> rfl
  · rfl

theorem unbound_unbind {r : Region} {l : LaneLink} (h : l.pcell < r.cellCount) : (unbind r l).Unbound l.pcell l.pout := by
  rw [Region.Unbound, unbind, if_pos h, Region.updCell, Region.cell_setCell_same, getD_set_zero, if_pos rfl]

/-- Clearing binds nothing. -/
theorem Region.Unbound.unbind {r : Region} {n p : Nat} (h : r.Unbound n p) (l : LaneLink) : (unbind r l).Unbound n p := by
  by_cases hn : l.pcell = n
  · unfold Machine.unbind
    split
    · subst hn
      rw [Region.Unbound, Region.updCell, Region.cell_setCell_same, getD_set_zero, h, ite_self]
    · exact h
  · rwa [Region.Unbound, cell_unbind_other hn]

theorem Region.Unbound.foldl_unbind {r : Region} {n p : Nat} (h : r.Unbound n p) (ls : List LaneLink) :
    (ls.foldl Machine.unbind r).Unbound n p := by
  induction ls generalizing r with
  | nil => exact h
  | cons l ls ih => exact ih (h.unbind l)

/-- Every producer in the region is unbound. -/
theorem unbound_foldl_unbind {r : Region} {ls : List LaneLink} {l : LaneLink} (hl : l ∈ ls) (h : l.pcell < r.cellCount) :
    (ls.foldl unbind r).Unbound l.pcell l.pout := by
  induction ls generalizing r with
  | nil => cases hl
  | cons x ls ih =>
    rcases List.mem_cons.1 hl with rfl | hl
    · exact (unbound_unbind h).foldl_unbind ls
    · refine ih hl ?_
      rwa [unbind_eq r x]

/-! The steps. -/

/-- The store that a JOIN.REORDER makes, empty. -/
def joinedStore (r : Region) (j : FmtJ) (d : JoinDesc) (pj cj : OMap) (per : Period) (g : Nat) (grans : List Nat) (far : Bool) : Store :=
  { lanes := d.lanes, pmap := (r.order j.pord.toNat).getD [], cmap := (r.order j.cord.toNat).getD [], pjoin := pj, cjoin := cj,
    period := per, width := 8 * 2 ^ j.width.toNat, granules := g, grans := grans, far := far, inq := d.lanes.map fun _ => .empty,
    held := [], admitted := 0, issued := 0, next := 0, inRun := 0, pad := 0, home := false, owedEor := false, hdrs := [],
    eot := false, stopped := false }

/-- A far store takes its granules from the pool (R52). -/
def takeGranules (s : State) (d g : Nat) (far : Bool) : State :=
  if far then s.updDie d fun x => { x with poolUsed := x.poolUsed + g } else s

section
variable (s : State) (d g : Nat) (far : Bool)

theorem mem_takeGranules : (takeGranules s d g far).mem = s.mem := by
  cases far <;> rfl

theorem region_takeGranules (e b : Nat) : (takeGranules s d g far).region e b = s.region e b := by
  cases far <;> rfl

theorem now_takeGranules (e : Nat) : (takeGranules s d g far).now e = s.now e := by
  cases far with
  | false => rfl
  | true =>
    refine now_updDie s d ?_ e
    exact fun _ => rfl

end

section
variable {s s1 : State} {r : Region} {j : FmtJ} {d : JoinDesc} (hat : Claims.at_ s r) (hrun : r.running = false)
  (hread : readDesc s r j.desc = (some d, s1))
include hat hrun hread

/-- JOIN.REORDER whose checks pass and whose space is granted waits with its store (R53, R209). -/
theorem exec_joinReorder_waits {pj cj : OMap} {per : Period} {n g : Nat} {grans : List Nat} {far : Bool}
    (hchecks : joinChecks d (r.order j.pord.toNat) (r.order j.cord.toNat) = .ok pj cj per n)
    (hg : g = ceilDiv (n * (8 * 2 ^ j.width.toNat)) 512)
    (hspace : storeSpace s1 r d.lanes g (j.far == 1) = some (grans, far)) :
    exec (.joinReorder j) s = .next ((takeGranules s1 r.die g far).updRegion r.die r.rblk fun x =>
      { x with ctl := .join (joinedStore r j d pj cj per g grans far) (s1.now r.die + ceilDiv per.size 64) }) := by
  subst hg
  change execJoinReorder j s = _
  rw [execJoinReorder, ctlTurn_at hat]
  simp only [hrun, hread, hchecks, hspace, Bool.false_eq_true, if_false]
  refine congrArg _ (updRegion_congr fun x hx => ?_)
  rw [hx, ← now_takeGranules s1 r.die (ceilDiv (n * (8 * 2 ^ j.width.toNat)) 512) far r.die]
  rfl

/-- JOIN.REORDER with a failed check faults (R60, R209). -/
theorem exec_joinReorder_faults {code p g : Nat}
    (hchecks : joinChecks d (r.order j.pord.toNat) (r.order j.cord.toNat) = .bad code p g) :
    exec (.joinReorder j) s = .next (joinFault s1 r code j.desc.toNat p g) := by
  change execJoinReorder j s = _
  rw [execJoinReorder, ctlTurn_at hat]
  simp only [hrun, hread, hchecks, Bool.false_eq_true, if_false]

/-- JOIN without REORDER goes on where its descriptor fits two orders that are equal (R209). -/
theorem exec_joinCheck_eq {p c : OMap} (hfar : j.far = 0) (hp : r.order j.pord.toNat = some p) (hc : r.order j.cord.toNat = some c) :
    exec (.joinCheck j) s =
      if d.bad || !d.bounds.all (boundOk p c) || d.lanes.length != p.lanes || !p.same c then
        .next (joinFault s1 r fcOrder j.desc.toNat 0 0)
      else .next (ctlNext s1 r id) := by
  change execJoinCheck j s = _
  rw [execJoinCheck, ctlTurn_at hat]
  simp only [hrun, hread, hfar, hp, hc]
  rfl

/-- UNJOIN releases the stores and then unbinds the producers (R210). -/
theorem exec_unjoin_eq (hpord : j.pord = 0) (hcord : j.cord = 0) (hwidth : j.width = 0) (hfar : j.far = 0) :
    exec (.unjoin j) s = .next (ctlGo (releaseStores s1 r d.lanes) r.die r.rblk (r.pc + 8) 2 fun x => d.lanes.foldl unbind x) := by
  change execUnjoin j s = _
  rw [execUnjoin, ctlTurn_at hat]
  simp only [hrun, hread, hpord, hcord, hwidth, hfar]
  rfl

end

/-- A waiting JOIN.REORDER attaches its store once its cycle has come (R53). -/
theorem exec_joinComplete_eq {s : State} {r : Region} {st : Store} {due : Nat} (hat : Claims.at_ s r) (hctl : r.ctl = .join st due) :
    exec .joinComplete s = if s.now r.die < due then .next s else
      .next (ctlNext (releaseStores s r st.lanes) r fun x => { x with stores := x.stores ++ [st] }) := by
  change execJoinComplete s = _
  rw [execJoinComplete, ctlTurn_at hat, hctl]

/-- JOIN.REORDER, JOIN and UNJOIN, from their descriptor read on. -/
theorem joinsAttachAndReleaseStores : Claims.JoinsAttachAndReleaseStores := by
  intro s s1 r j d hat hrun hread hat1 hfocus po co kept
  replace hat1 : s1.region s.focus.die s.focus.rblk = some r := hfocus ▸ hat1
  refine ⟨fun pj cj per n grans far hchecks => ?_, fun code p g hchecks => ?_, fun p c hfar hp hc hbad hbounds hlanes hsame => ?_,
    fun p c hfar hp hc hdiff => ?_, fun hpord hcord hwidth hfar => ?_⟩
  · intro g hspace
    refine ⟨_, joinedStore r j d pj cj per g grans far, exec_joinReorder_waits hat hrun hread hchecks rfl hspace,
      mem_takeGranules .., region_updRegion_found ((region_takeGranules ..).trans hat1) fun _ => ⟨rfl, rfl⟩,
      rfl, rfl, rfl, rfl, rfl, rfl, rfl, rfl, rfl, rfl, rfl, rfl, rfl, fun p hp => ?_⟩
    obtain ⟨_, _, rfl⟩ := List.mem_map.1 hp
    rfl
  · exact ⟨_, exec_joinReorder_faults hat hrun hread hchecks, region_joinFault hat1 ..⟩
  · have hall : d.bounds.all (boundOk p c) = true := List.all_eq_true.2 hbounds
    rw [exec_joinCheck_eq hat hrun hread hfar hp hc, if_neg (by simp [hbad, hall, hlanes, hsame])]
    rfl
  · refine ⟨_, ?_, region_joinFault hat1 fcOrder j.desc.toNat 0 0⟩
    rw [exec_joinCheck_eq hat hrun hread hfar hp hc, if_pos (by simp [hdiff])]
  · have hrelease := region_releaseStores d.lanes hat1
    refine ⟨_, _, exec_unjoin_eq hat hrun hread hpord hcord hwidth hfar, region_ctlGo hrelease _ _ (keeps_foldl_unbind d.lanes),
      stores_foldl_unbind _ _, rfl, w_foldl_unbind _ _, fun l hl hin => unbound_foldl_unbind hl hin,
      fun n hn => cell_foldl_unbind_other hn, rfl⟩

/-- The cycle of a waiting JOIN.REORDER decides whether its store is attached. -/
theorem joinCompletionAttachesTheStore : Claims.JoinCompletionAttachesTheStore := by
  intro s r st due hat hctl hdie
  refine ⟨fun hdue => ?_, fun hdue => ?_⟩
  · rw [exec_joinComplete_eq hat hctl, if_pos hdue]
  · rw [exec_joinComplete_eq hat hctl, if_neg (Nat.not_lt.2 hdue)]
    refine ⟨_, rfl, rfl, ?_, poolUsed_releaseStores st.lanes hdie⟩
    have hkeeps : KeepsPlace fun x : Region => { x with stores := x.stores ++ [st] } := fun _ => ⟨rfl, rfl⟩
    refine (region_ctlGo (region_releaseStores st.lanes hat) _ _ hkeeps).trans ?_
    rw [now_releaseStores]

/-- Settles O36: each check of a JOIN has its own end, and the store that waits out its cycles takes the place of those released. -/
theorem joinsBuildAndReleaseStores : Obligations.JoinsBuildAndReleaseStores :=
  ⟨joinsAttachAndReleaseStores, joinCompletionAttachesTheStore⟩

end Sys2Proof.Machine
end

section
/-! SUPPORT. What records and writes to other modules leave of a die, and what settling a step leaves of a state. -/

namespace Sys2Proof.Machine

/-! Dies beside links and records (R294, R312). -/

/-- Die by die, t differs from s at most in link ports and fault registers. -/
def SameDies (s t : State) : Prop := ∀ d, ∃ l q, t.die d = { s.die d with links := l, faults := q }

namespace SameDies

theorem refl (s : State) : SameDies s s := fun _ => ⟨_, _, rfl⟩

theorem trans {s t u : State} (h : SameDies s t) (k : SameDies t u) : SameDies s u := by
  intro d
  obtain ⟨l, q, hl⟩ := h d
  obtain ⟨l', q', hk⟩ := k d
  exact ⟨l', q', by rw [hk, hl]⟩

theorem foldl {α : Type} {f : State → α → State} (hf : ∀ s a, SameDies s (f s a)) (l : List α) (s : State) :
    SameDies s (l.foldl f s) := by
  induction l generalizing s with
  | nil => exact refl s
  | cons a l ih => exact (hf s a).trans (ih _)

theorem matrix {s t : State} (h : SameDies s t) (d : Nat) : (t.die d).matrix = (s.die d).matrix := by
  obtain ⟨l, q, hl⟩ := h d
  rw [hl]

theorem island {s t : State} (h : SameDies s t) (d i : Nat) : (t.die d).island i = (s.die d).island i := by
  rw [Die.island, Die.island, h.matrix]

end SameDies

theorem sameDies_updDie (s : State) (d : Nat) {f : Die → Die} (hf : ∀ x, ∃ l q, f x = { x with links := l, faults := q }) :
    SameDies s (s.updDie d f) := by
  intro e
  by_cases he : e = d
  · by_cases hd : d < s.dies.length
    · rw [State.die_updDie s d e f hd, if_pos he]
      exact hf _
    · rw [State.die, State.updDie_dies, modNth_of_length_le (Nat.not_lt.1 hd)]
      exact ⟨_, _, rfl⟩
  · rw [State.die_updDie_other s d e f he]
    exact ⟨_, _, rfl⟩

theorem sameDies_sendOn (s : State) (n : Nat) (fs : List Flit) : SameDies s (sendOn s n fs) := by
  change SameDies s (putPort s _)
  unfold putPort
  split
  · exact .refl s
  · exact sameDies_updDie s _ fun _ => ⟨_, _, rfl⟩

theorem sameDies_sendFlits (s : State) (fs : List Flit) : SameDies s (sendFlits s fs) := by
  unfold sendFlits
  split
  · exact .refl s
  · split
    · exact .refl s
    · exact sameDies_sendOn _ _ _

theorem sameDies_tellPeer (woke : Bool) (s : State) (m : Monitor) : SameDies s (tellPeer woke s m) := by
  unfold tellPeer
  split
  · exact .refl s
  · exact sameDies_sendFlits _ _

theorem sameDies_wake (s : State) (g : Nat) : SameDies s (wake s g) :=
  .foldl (sameDies_tellPeer true) _ { s with monitors := _ }

theorem sameDies_pokeBytes (s : State) (a : Nat) (bs : List Byte) : SameDies s (pokeBytes s a bs) :=
  .foldl sameDies_wake _ (clearTags { s with mem := _ } a bs.length)

theorem addPut_dies (s : State) (p : Put) : (s.addPut p).dies = s.dies := by
  unfold State.addPut
  split
  · split <;> rfl
  · rfl

theorem sameDies_of_dies {s t : State} (h : t.dies = s.dies) : SameDies s t :=
  fun d => ⟨_, _, by rw [State.die, h]; rfl⟩

theorem sameDies_pokePhys (s : State) (a : Nat) (bs : List Byte) (q : Nat) : SameDies s (pokePhys s a bs q) := by
  unfold pokePhys
  split
  · exact sameDies_pokeBytes s _ _
  · exact sameDies_of_dies (addPut_dies _ _)

/-- A record posted changes links and fault registers of dies, and nothing else of them. -/
theorem sameDies_post (s : State) (p : Where) (code src : Nat) (vec : Bool) (tseq : Nat) (ws : List Nat) :
    SameDies s (post s p code src vec tseq ws) := by
  unfold post
  dsimp only
  split
  · split
    · exact (sameDies_updDie s _ fun _ => ⟨_, _, rfl⟩).trans (sameDies_pokePhys _ _ _ _)
    · exact sameDies_updDie s _ fun _ => ⟨_, _, rfl⟩
  · exact sameDies_updDie s _ fun _ => ⟨_, _, rfl⟩

/-! What settling leaves alone (R315). -/

/-- What traffic with other modules leaves alone. -/
structure SameButTraffic (s t : State) : Prop where
  regions : t.regions = s.regions
  cmds : t.cmds = s.cmds
  mem : t.mem = s.mem
  dies : SameDies s t

namespace SameButTraffic

theorem refl (s : State) : SameButTraffic s s := ⟨rfl, rfl, rfl, .refl s⟩

theorem trans {s t u : State} (h : SameButTraffic s t) (k : SameButTraffic t u) : SameButTraffic s u :=
  ⟨k.regions.trans h.regions, k.cmds.trans h.cmds, k.mem.trans h.mem, h.dies.trans k.dies⟩

theorem foldl {α : Type} {f : State → α → State} (hf : ∀ s a, SameButTraffic s (f s a)) (l : List α) (s : State) :
    SameButTraffic s (l.foldl f s) := by
  induction l generalizing s with
  | nil => exact refl s
  | cons a l ih => exact (hf s a).trans (ih _)

theorem region {s t : State} (h : SameButTraffic s t) (d b : Nat) : t.region d b = s.region d b := by
  rw [State.region, State.region, h.regions]

theorem cmd {s t : State} (h : SameButTraffic s t) (n : Nat) : t.cmd n = s.cmd n := by rw [State.cmd, State.cmd, h.cmds]

end SameButTraffic

theorem sendFlits_sameButTraffic (s : State) (fs : List Flit) : SameButTraffic s (sendFlits s fs) :=
  have h := sendFlits_same s fs
  ⟨h.regions, h.cmds, h.mem, sameDies_sendFlits s fs⟩

theorem ask_sameButTraffic (who : Focus) (s : State) (w : Want) : SameButTraffic s (s.ask who w) :=
  .trans (t := s.expect who (some w)) ⟨rfl, rfl, rfl, .refl s⟩ (sendFlits_sameButTraffic _ [_])

theorem sendPut_sameButTraffic (who : Focus) (s : State) (p : Put) : SameButTraffic s (s.sendPut who p) :=
  .trans (t := s.expect who none) ⟨rfl, rfl, rfl, .refl s⟩ (sendFlits_sameButTraffic _ _)

theorem flush_sameButTraffic (s : State) (who : Focus) : SameButTraffic s (s.flush who) :=
  .trans (t := { s with puts := [] }) ⟨rfl, rfl, rfl, .refl s⟩ (.foldl (sendPut_sameButTraffic who) _ _)

/-- A step that lacks nothing stands, but for what it sends to other modules. -/
theorem settle_sameButTraffic {s t : State} (hs : s.asking s.focus = false) (ht : t.wants = []) :
    SameButTraffic t (settle s t) := by
  unfold settle
  rw [if_neg (by simp [hs]), if_neg (by simp [ht])]
  split
  · exact .refl t
  · exact (flush_sameButTraffic t s.focus).trans ⟨rfl, rfl, rfl, .refl _⟩

/-- A settled step leaves memory as it found it where the step itself does. -/
theorem settle_mem {s t : State} (h : t.mem = s.mem) : (settle s t).mem = s.mem := by
  unfold settle
  split
  · rfl
  · split
    · exact (SameButTraffic.foldl (ask_sameButTraffic s.focus) _ s).mem
    · split
      · exact h
      · exact (flush_sameButTraffic t s.focus).mem.trans h

/-- A step that leaves the traffic with other modules as it is stands, but for what it sends, where its actor is alone. -/
theorem State.Alone.settles {s t : State} (h : s.Alone) (ht : t.wants = s.wants) : SameButTraffic t (settle s t) :=
  settle_sameButTraffic h.asked (ht.trans h.wants)

end Sys2Proof.Machine
end

section
/-! SUPPORT. The turn of an island command: the command itself, how it ends and how it faults, and what is in an island. -/

namespace Sys2Proof.Machine

/-! Look-ups after an update or a removal. -/

/-- The element that a look-up found, where it alone is changed and is still what the look-up asks for. -/
theorem find?_map_update {α : Type} {l : List α} {p : α → Bool} {f : α → α} {x : α} (h : l.find? p = some x)
    (hf : p (f x) = true) : (l.map fun y => if p y then f y else y).find? p = some (f x) := by
  induction l with
  | nil => exact absurd h (by simp)
  | cons y l ih =>
    by_cases hy : p y = true
    · have hyx : y = x := by simpa [hy] using h
      subst hyx
      simp [hy, hf]
    · have hl : l.find? p = some x := by simpa [hy] using h
      simp [hy, ih hl]

theorem lookD_del_other {κ α : Type} [BEq κ] [LawfulBEq κ] (l : List (κ × α)) {k j : κ} (h : j ≠ k) (d : α) :
    lookD (del l k) j d = lookD l j d := by
  simp only [lookD, look, del]
  rw [List.find?_filter]
  have hp : (fun x : κ × α => decide ((x.1 != k) = true ∧ (x.1 == j) = true)) = fun x => x.1 == j := by
    funext x
    by_cases hx : x.1 = j
    · simp [hx, h]
    · simp [hx]
  rw [hp]

namespace State

theorem cmd_id {s : State} {n : Nat} {c : Cmd} (h : s.cmd n = some c) : c.id = n := by
  simpa using List.find?_some h

/-- A command found, after it is changed. -/
theorem cmd_updCmd {s : State} {n : Nat} {c : Cmd} (h : s.cmd n = some c) {f : Cmd → Cmd} (hf : (f c).id = n) :
    (s.updCmd n f).cmd n = some (f c) :=
  find?_map_update h (by simpa using hf)

theorem cmd_dropCmd (s : State) (n : Nat) : (s.dropCmd n).cmd n = none := by
  rw [cmd, dropCmd_cmds, List.find?_eq_none]
  intro x hx
  simpa using (List.mem_filter.1 hx).2

end State

/-! What is in an island (R236, R237). -/

namespace MIsland

theorem slot_setSlot (x : MIsland) (n k : Nat) (v : Slot) : (x.setSlot n v).slot k = if k = n then v else x.slot k := by
  simp only [slot, setSlot]
  by_cases hk : k = n
  · subst hk
    split
    · next hv => rw [lookD_del_same, if_pos rfl, hv]
    · rw [lookD_putAsc_same, if_pos rfl]
  · rw [if_neg hk]
    split
    · exact lookD_del_other _ hk _
    · exact lookD_putAsc_other _ _ _ _ _ hk

theorem tile_setTile (x : MIsland) (n k : Nat) (v : Tile) : (x.setTile n v).tile k = if k = n then v else x.tile k := by
  simp only [tile, setTile]
  by_cases hk : k = n
  · subst hk
    split
    · next hv => rw [lookD_del_same, if_pos rfl, hv]
    · rw [lookD_putAsc_same, if_pos rfl]
  · rw [if_neg hk]
    split
    · exact lookD_del_other _ hk _
    · exact lookD_putAsc_other _ _ _ _ _ hk

@[simp] theorem tile_setSlot (x : MIsland) (n k : Nat) (v : Slot) : (x.setSlot n v).tile k = x.tile k := rfl
@[simp] theorem slot_setTile (x : MIsland) (n k : Nat) (v : Tile) : (x.setTile n v).slot k = x.slot k := rfl

/-- Slots and tiles put, each of them the same. -/
def putAll (x : MIsland) (slots tiles : List Nat) (v : Slot) (t : Tile) : MIsland :=
  tiles.foldl (fun x n => x.setTile n t) (slots.foldl (fun x n => x.setSlot n v) x)

theorem slot_putAll (x : MIsland) (slots tiles : List Nat) (v : Slot) (t : Tile) (n : Nat) :
    (x.putAll slots tiles v t).slot n = if n ∈ slots then v else x.slot n := by
  have htiles (y : MIsland) : (tiles.foldl (fun x n => x.setTile n t) y).slot n = y.slot n := by
    induction tiles generalizing y with
    | nil => rfl
    | cons k tiles ih => exact ih _
  rw [putAll, htiles]
  induction slots generalizing x with
  | nil => rfl
  | cons k slots ih =>
    rw [List.foldl_cons, ih, slot_setSlot]
    by_cases hk : n = k <;> by_cases hn : n ∈ slots <;> simp [hk, hn]

theorem tile_putAll (x : MIsland) (slots tiles : List Nat) (v : Slot) (t : Tile) (n : Nat) :
    (x.putAll slots tiles v t).tile n = if n ∈ tiles then t else x.tile n := by
  have hslots (y : MIsland) : (slots.foldl (fun x n => x.setSlot n v) y).tile n = y.tile n := by
    induction slots generalizing y with
    | nil => rfl
    | cons k slots ih => exact ih _
  rw [putAll, ← hslots x]
  generalize slots.foldl (fun x n => x.setSlot n v) x = y
  induction tiles generalizing y with
  | nil => rfl
  | cons k tiles ih =>
    rw [List.foldl_cons, ih, tile_setTile]
    by_cases hk : n = k <;> by_cases hn : n ∈ tiles <;> simp [hk, hn]

end MIsland

/-- The islands of a die after one of them is changed. -/
theorem island_updIsland {s : State} {d : Nat} (h : d < s.dies.length) (i : Nat) (f : MIsland → MIsland) (j : Nat) :
    ((updIsland s d i f).die d).island j = if j = i then f ((s.die d).island i) else (s.die d).island j := by
  rw [updIsland, State.die_updDie_same h, Die.island]
  by_cases hj : j = i
  · rw [hj, if_pos rfl, lookD_putAsc_same]
  · rw [if_neg hj, lookD_putAsc_other _ _ _ _ _ hj]
    rfl

theorem now_updIsland (s : State) (d i : Nat) (f : MIsland → MIsland) (e : Nat) : (updIsland s d i f).now e = s.now e := by
  refine now_updDie _ _ ?_ _
  exact fun _ => rfl

theorem length_modNth {α : Type} (l : List α) (i : Nat) (f : α → α) : (modNth l i f).length = l.length := by
  induction l generalizing i with
  | nil => rfl
  | cons x l ih => cases i <;> simp [modNth, ih]

@[simp] theorem updIsland_dies_length (s : State) (d i : Nat) (f : MIsland → MIsland) :
    (updIsland s d i f).dies.length = s.dies.length := length_modNth _ _ _

/-! Engine faults (R104, R206, R246). -/

@[simp] theorem length_addEngFault (l : List EngFault) (e : EngFault) : (addEngFault l e).length = l.length + 1 := by
  induction l with
  | nil => rfl
  | cons x l ih =>
    unfold addEngFault
    split <;> simp [ih]

@[simp] theorem mem_addEngFault {l : List EngFault} {e x : EngFault} : x ∈ addEngFault l e ↔ x = e ∨ x ∈ l := by
  induction l with
  | nil => simp [addEngFault]
  | cons y l ih =>
    unfold addEngFault
    split <;> simp [ih, or_left_comm]

/-- A record posted where no doorbell is armed, and its fault noted, leave memory alone. -/
theorem engineRecord_mem {s : State} {p : Where} (h : (s.die p.die).faults.fqdb.getLsbD 0 = false) (target code tseq : Nat)
    (ws : List Nat) : (engineRecord s p target code tseq ws).mem = s.mem :=
  post_mem h _ _ _ _ _

theorem sameDies_engineRecord (s : State) (p : Where) (target code tseq : Nat) (ws : List Nat) :
    SameDies s (engineRecord s p target code tseq ws) :=
  sameDies_post _ _ _ _ _ _ _

theorem Cmd.place_die (c : Cmd) : c.place.die = c.die := by
  unfold Cmd.place
  split <;> rfl

theorem Region.keeps_act (t : Nat) : KeepsPlace (Region.act t) := fun _ => ⟨rfl, rfl⟩

theorem region_engineFault (s : State) (d b : Nat) (e : EngFault) : (engineFault s d b e).region d b =
    (s.region d b).map fun r => { r with engFaults := addEngFault r.engFaults e } :=
  State.region_updRegion_same fun _ => ⟨rfl, rfl⟩

/-- The region of a command after a record of it: the fault is noted, with its code, whether it reaches the vector, and when. -/
theorem region_engineRecord {s : State} {c : Cmd} {r : Region} (hb : c.rblk ≠ detached) (hr : s.region c.die c.rblk = some r)
    (target code tseq : Nat) (ws : List Nat) : ∃ e : EngFault, e.code = code ∧ e.vec = vectorCode code ∧ e.found = s.now c.die ∧
      (engineRecord s c.place target code tseq ws).region c.die c.rblk =
        some { r with engFaults := addEngFault r.engFaults e } := by
  have hplace : c.place = ⟨c.die, c.rblk, c.seq, false⟩ := by simp [Cmd.place, hb]
  let src := if target == 2 then srcMatrix else srcStreamer
  refine ⟨⟨code, vectorCode code, s.now c.die, faultRank code src (ws.headD 0) (ws.getD 1 0), src, tseq, ws⟩, rfl, rfl, rfl, ?_⟩
  rw [engineRecord, hplace, region_engineFault, post_region, hr]
  rfl

/-- A command other than an MLOAD that faults is dropped behind its record. -/
theorem failCmd_eq {c : Cmd} (hload : c.isLoad = false) (s : State) (code detail step : Nat) :
    failCmd s c code detail step = (engineActs (engineRecord s c.place c.target code 0
      (engineWords c.isl c.port detail c.words.w0.toNat c.words.w1.toNat step)) c).dropCmd c.id := by
  simp only [failCmd, dropFailed, hload, Bool.false_eq_true, if_false, engineActs]

/-! The command in focus. -/

section
variable {s : State} {c : Cmd} {w : EngWords} (h : EngineReady s c w)
include h

theorem EngineReady.id_eq : c.id = s.focus.id := State.cmd_id h.command

/-- A command that is ready takes its turn. -/
theorem EngineReady.engineTurn_eq (f : Cmd → State) : engineTurn w s f = .next (settle s (f c)) := by
  simp [engineTurn, h.command, h.words, h.runs, h.due]

/-- The command as a change leaves it in a state that holds the commands of s. -/
theorem EngineReady.left_updCmd {u : State} (hcmds : u.cmds = s.cmds) {f : Cmd → Cmd} (hf : (f c).id = c.id) :
    Claims.left s (u.updCmd c.id f) = some (f c) := by
  have hu : u.cmd s.focus.id = some c := by rw [State.cmd, hcmds]; exact h.command
  rw [Claims.left, h.id_eq]
  exact State.cmd_updCmd hu (hf.trans h.id_eq)

/-- A command that has done its last in state u is complete; memory and the dies are those of u, but for what is sent. -/
theorem EngineReady.completes {i : Instr} {u : State} (hi : exec i s = .next (settle s (finishCmd u c)))
    (hcmds : u.cmds = s.cmds) (hwants : u.wants = s.wants) (hnow : u.now c.die = s.now c.die) :
    ∃ t, exec i s = .next t ∧ Claims.left s t = some { c with stage := .complete, due := s.now c.die } ∧ t.mem = u.mem ∧
      SameDies u t := by
  have hset : SameButTraffic (finishCmd u c) _ := h.alone.settles hwants
  refine ⟨_, hi, ?_, hset.mem, hset.dies⟩
  rw [Claims.left, hset.cmd, ← hnow]
  exact h.left_updCmd (u := u.updRegion _ _ _) hcmds (f := fun x => { x with stage := .complete, due := u.now c.die }) rfl

/-- A command that has done its last by changing its own island is complete. -/
theorem EngineReady.finishes {i : Instr} {f : MIsland → MIsland}
    (hi : exec i s = .next (settle s (finishCmd (updIsland s c.die c.isl f) c))) :
    Claims.finishes s c i (f ((s.die c.die).island c.isl)) := by
  obtain ⟨t, ht, hleft, hmem, hdies⟩ := h.completes hi rfl rfl (now_updIsland _ _ _ _ _)
  refine ⟨t, ht, hleft, hmem, ?_, fun j hj => ?_⟩
  · rw [hdies.island, island_updIsland h.die, if_pos rfl]
  · rw [hdies.island, island_updIsland h.die, if_neg hj]

/-- A command other than an MLOAD that faults is gone, with its fault noted. -/
theorem EngineReady.fails {i : Instr} {code detail step : Nat} (hload : c.isLoad = false)
    (hi : exec i s = .next (settle s (failCmd s c code detail step))) : Claims.fails s c i code := by
  have hfail := failCmd_eq hload s code detail step
  set u := engineRecord s c.place c.target code 0
    (engineWords c.isl c.port detail c.words.w0.toNat c.words.w1.toNat step) with hu
  have hset : SameButTraffic ((engineActs u c).dropCmd c.id) _ := h.alone.settles (post_same ..).wants
  rw [hfail] at hi
  refine ⟨_, hi, ?_, fun hsil => hset.mem.trans (engineRecord_mem (by rwa [Cmd.place_die]) ..),
    (hset.dies.matrix _).trans ((sameDies_engineRecord s c.place c.target code 0 _).matrix _), fun r hb hr => ?_⟩
  · rw [Claims.left, hset.cmd, ← h.id_eq]
    exact State.cmd_dropCmd _ _
  · obtain ⟨e, hcode, hvec, hfound, hreg⟩ := region_engineRecord hb hr c.target code 0
      (engineWords c.isl c.port detail c.words.w0.toNat c.words.w1.toNat step)
    refine ⟨Region.act (u.now c.die) { r with engFaults := addEngFault r.engFaults e }, ?_, length_addEngFault _ _,
      fun x hx => mem_addEngFault.2 (.inr hx), e, mem_addEngFault.2 (.inl rfl), hcode, hvec, hfound⟩
    rw [hset.region]
    change (u.updRegion _ _ _).region c.die c.rblk = _
    rw [State.region_updRegion_same (Region.keeps_act _), hu, hreg]
    rfl

end

end Sys2Proof.Machine
end

section
/-! SUPPORT. MCLAIM, MRELEASE and MDRAIN: what each does with its slots and tiles, by what is held. -/

namespace Sys2Proof.Machine

/-! Claims (R237). -/

section
variable {s : State} {c : Cmd} {w : EngWords} (h : EngineReady s c w)
include h

theorem EngineReady.exec_mclaim_free (hslots : ∀ n ∈ c.claimSlots, (((s.die c.die).island c.isl).slot n).owner = 0)
    (htiles : ∀ n ∈ c.amask, (((s.die c.die).island c.isl).tile n).owner = 0) :
    exec (.mclaim w) s = .next (settle s (finishCmd (updIsland s c.die c.isl fun x =>
      x.putAll c.claimSlots c.amask { Slot.empty with owner := c.seq } { Tile.empty with owner := c.seq }) c)) := by
  refine (h.engineTurn_eq _).trans ?_
  rw [if_neg]
  · rfl
  · simpa [or_imp, forall_and] using ⟨hslots, htiles⟩

theorem EngineReady.exec_mclaim_held (hheld : (∃ n ∈ c.claimSlots, (((s.die c.die).island c.isl).slot n).owner ≠ 0) ∨
      ∃ n ∈ c.amask, (((s.die c.die).island c.isl).tile n).owner ≠ 0) :
    exec (.mclaim w) s = .next (settle s (failCmd s c fcSlotBusy 0 noStep)) := by
  refine (h.engineTurn_eq _).trans ?_
  rw [if_pos]
  simpa using hheld

theorem EngineReady.exec_mrelease_held (hslots : ∀ n ∈ c.claimSlots, (((s.die c.die).island c.isl).slot n).owner = c.seq)
    (htiles : ∀ n ∈ c.amask, (((s.die c.die).island c.isl).tile n).owner = c.seq) :
    exec (.mrelease w) s = .next (settle s (finishCmd (updIsland s c.die c.isl fun x =>
      x.putAll c.claimSlots c.amask .empty .empty) c)) := by
  refine (h.engineTurn_eq _).trans ?_
  rw [if_pos]
  · rfl
  · simpa using ⟨hslots, htiles⟩

theorem EngineReady.exec_mrelease_unheld (hfree : (∃ n ∈ c.claimSlots, (((s.die c.die).island c.isl).slot n).owner ≠ c.seq) ∨
      ∃ n ∈ c.amask, (((s.die c.die).island c.isl).tile n).owner ≠ c.seq) :
    exec (.mrelease w) s = .next (settle s (failCmd s c fcEngine 0 noStep)) := by
  refine (h.engineTurn_eq _).trans ?_
  rw [if_neg]
  simpa [imp_iff_not_or] using hfree

end

/-! MDRAIN (R82, R242). -/

/-- The tile that an MDRAIN reads. -/
def Cmd.drainSrc (c : Cmd) (s : State) : Tile := ((s.die c.die).island c.isl).tile c.accTile

/-- The tile that an MDRAIN changes. -/
def Cmd.drainDst (c : Cmd) (s : State) : Tile := ((s.die c.die).island (c.f1 58 6)).tile (c.f1 54 4)

/-- Both tiles of an MDRAIN are its task's, and the source is set. -/
def Cmd.DrainHeld (c : Cmd) (s : State) : Prop :=
  (c.drainSrc s).owner = c.seq ∧ (c.drainDst s).owner = c.seq ∧ (c.drainSrc s).anchor ≠ none

theorem drainOk_iff {s : State} {c : Cmd} : drainOk s c = true ↔ c.DrainHeld s := by
  simp [drainOk, Cmd.DrainHeld, Cmd.drainSrc, Cmd.drainDst, and_assoc, Option.isSome_iff_ne_none]

/-- The state in which an MDRAIN has merged its tiles. -/
def drained (s : State) (c : Cmd) : State :=
  let u := updIsland s c.die (c.f1 58 6) fun x => x.setTile (c.f1 54 4) ((c.drainDst s).mergeFrom (c.drainSrc s))
  if c.clr then updIsland u c.die c.isl fun x => x.setTile c.accTile (c.drainSrc s).restart else u

theorem drainMerge_eq (s : State) (c : Cmd) : drainMerge s c =
    if !drainOk s c then .inl (fcEngine, 0)
    else if (c.drainDst s).anchor.isSome && (c.drainDst s).anchor != (c.drainSrc s).anchor then
      .inl (fcAnchor, ((c.drainSrc s).anchor.getD 0).toNat + ((c.drainDst s).anchor.getD 0).toNat <<< 16)
    else .inr (drained s c) := rfl

theorem drainOk_eq_false {s : State} {c : Cmd} (hheld : ¬c.DrainHeld s) : drainOk s c = false := by
  rw [Bool.eq_false_iff, ne_eq, drainOk_iff]
  exact hheld

theorem drainMerge_unheld {s : State} {c : Cmd} (hheld : ¬c.DrainHeld s) : drainMerge s c = .inl (fcEngine, 0) := by
  simp [drainMerge_eq, drainOk_eq_false hheld]

theorem drainMerge_clash {s : State} {c : Cmd} (hheld : c.DrainHeld s) (hset : (c.drainDst s).anchor ≠ none)
    (hne : (c.drainDst s).anchor ≠ (c.drainSrc s).anchor) : ∃ detail, drainMerge s c = .inl (fcAnchor, detail) := by
  rw [drainMerge_eq, if_neg (by simp [drainOk_iff.2 hheld]), if_pos]
  · exact ⟨_, rfl⟩
  · simpa [Option.isSome_iff_ne_none] using And.intro hset hne

theorem drainMerge_merges {s : State} {c : Cmd} (hheld : c.DrainHeld s)
    (hsame : (c.drainDst s).anchor = none ∨ (c.drainDst s).anchor = (c.drainSrc s).anchor) :
    drainMerge s c = .inr (drained s c) := by
  rw [drainMerge_eq, if_neg (by simp [drainOk_iff.2 hheld]), if_neg]
  rcases hsame with he | he <;> simp [he]

/-- Entries listed by a function read as it says. -/
theorem lookD_entList (f : Nat → Entry) {i : Nat} (hi : i < 4096) : lookD (entList f) i .zero = f i := by
  have key : ∀ l : List Nat, lookD (l.filterMap fun i => if f i = .zero then none else some (i, f i)) i .zero =
      if i ∈ l then f i else .zero := by
    intro l
    induction l with
    | nil => rfl
    | cons j l ih =>
      by_cases hj : f j = .zero
      · rw [List.filterMap_cons_none (by simp [hj]), ih]
        by_cases hij : i = j
        · subst hij
          simp [hj]
        · simp [hij]
      · rw [List.filterMap_cons_some (b := (j, f j)) (by simp [hj])]
        by_cases hij : i = j
        · subst hij
          simp [lookD, look]
        · have hji : (j == i) = false := by simpa using fun h => hij h.symm
          simpa [lookD, look, List.find?_cons, hji, hij] using ih
  rw [entList, key, if_pos (List.mem_range.2 hi)]

namespace Tile

variable (dst src : Tile)

theorem mergeFrom_owner : (dst.mergeFrom src).owner = dst.owner := by
  unfold mergeFrom
  split <;> rfl

theorem mergeFrom_anchor (h : dst.anchor = none ∨ dst.anchor = src.anchor) : (dst.mergeFrom src).anchor = src.anchor := by
  unfold mergeFrom
  split
  · rfl
  · next hd => exact h.elim (fun hn => absurd (hd.symm.trans hn) (by simp)) id

theorem mergeFrom_ent_unset (h : dst.anchor = none) (i : Nat) : (dst.mergeFrom src).ent i = src.ent i := by
  simp [mergeFrom, h, ent]

theorem mergeFrom_ent_set (h : dst.anchor ≠ none) {i : Nat} (hi : i < 4096) :
    (dst.mergeFrom src).ent i = (dst.ent i).merge (src.ent i) := by
  obtain ⟨a, ha⟩ := Option.ne_none_iff_exists'.1 h
  simp only [mergeFrom, ha, ent]
  exact lookD_entList (fun i => (dst.ent i).merge (src.ent i)) hi

end Tile

section
variable {s : State} {c : Cmd}

theorem drained_frame : (drained s c).cmds = s.cmds ∧ (drained s c).wants = s.wants ∧ (drained s c).mem = s.mem ∧
    (drained s c).now c.die = s.now c.die := by
  unfold drained
  dsimp only
  split
  · exact ⟨rfl, rfl, rfl, (now_updIsland _ _ _ _ _).trans (now_updIsland _ _ _ _ _)⟩
  · exact ⟨rfl, rfl, rfl, now_updIsland _ _ _ _ _⟩

variable (hd : c.die < s.dies.length) (hne : ¬(c.f1 58 6 = c.isl ∧ c.f1 54 4 = c.accTile))
include hd hne

/-- The target of a merge after it. -/
theorem drained_dst : c.drainDst (drained s c) = (c.drainDst s).mergeFrom (c.drainSrc s) := by
  have hput : c.drainDst (updIsland s c.die (c.f1 58 6) fun x =>
      x.setTile (c.f1 54 4) ((c.drainDst s).mergeFrom (c.drainSrc s))) = (c.drainDst s).mergeFrom (c.drainSrc s) := by
    conv_lhs => rw [Cmd.drainDst]
    rw [island_updIsland hd, if_pos rfl, MIsland.tile_setTile, if_pos rfl]
  unfold drained
  dsimp only
  split
  · rw [Cmd.drainDst, island_updIsland (by simpa using hd)]
    split
    · next hj =>
      rw [MIsland.tile_setTile, if_neg fun ht => hne ⟨hj, ht⟩, ← hj]
      exact hput
    · exact hput
  · exact hput

/-- The source of a merge after it: restarted with CLR, else as it was. -/
theorem drained_src : c.drainSrc (drained s c) = if c.clr then (c.drainSrc s).restart else c.drainSrc s := by
  unfold drained
  dsimp only
  split
  · conv_lhs => rw [Cmd.drainSrc]
    rw [island_updIsland (by simpa using hd), if_pos rfl, MIsland.tile_setTile, if_pos rfl]
  · conv_lhs => rw [Cmd.drainSrc]
    rw [island_updIsland hd]
    split
    · next hj =>
      rw [MIsland.tile_setTile, if_neg fun ht => hne ⟨hj.symm, ht.symm⟩, ← hj]
      rfl
    · rfl

end

section
variable {s : State} {c : Cmd} {w : EngWords} (h : EngineReady s c w)
include h

theorem EngineReady.exec_mdrain_begins (hb : c.begun = false) (hheld : c.DrainHeld s) :
    exec (.mdrain w) s = .next (s.updCmd c.id fun x =>
      { x with begun := true, due := s.now c.die + 3 * ringHops c.isl (c.f1 58 6) + 63 }) := by
  refine (h.engineTurn_eq _).trans ?_
  rw [if_neg (by simp [hb]), if_neg (by simp [drainOk_iff.2 hheld])]
  exact congrArg _ (h.alone.settle_eq rfl rfl rfl rfl rfl)

theorem EngineReady.exec_mdrain_unheld (hheld : ¬c.DrainHeld s) :
    ∃ step, exec (.mdrain w) s = .next (settle s (failCmd s c fcEngine 0 step)) := by
  have hok := drainOk_eq_false hheld
  cases hb : c.begun with
  | false => exact ⟨noStep, (h.engineTurn_eq _).trans (by simp [hb, hok])⟩
  | true => exact ⟨0, (h.engineTurn_eq _).trans (by simp [hb, drainApply, drainMerge_unheld hheld])⟩

theorem EngineReady.exec_mdrain_clash (hb : c.begun = true) (hheld : c.DrainHeld s) (hset : (c.drainDst s).anchor ≠ none)
    (hne : (c.drainDst s).anchor ≠ (c.drainSrc s).anchor) :
    ∃ detail, exec (.mdrain w) s = .next (settle s (failCmd s c fcAnchor detail 0)) := by
  obtain ⟨detail, hm⟩ := drainMerge_clash hheld hset hne
  exact ⟨detail, (h.engineTurn_eq _).trans (by simp [hb, drainApply, hm])⟩

theorem EngineReady.exec_mdrain_merges (hb : c.begun = true) (hheld : c.DrainHeld s)
    (hsame : (c.drainDst s).anchor = none ∨ (c.drainDst s).anchor = (c.drainSrc s).anchor) :
    exec (.mdrain w) s = .next (settle s (finishCmd (drained s c) c)) :=
  (h.engineTurn_eq _).trans (by simp [hb, drainApply, drainMerge_merges hheld hsame])

/-- An MDRAIN that merges is complete. -/
theorem EngineReady.mdrain_completes (hb : c.begun = true) (hheld : c.DrainHeld s)
    (hsame : (c.drainDst s).anchor = none ∨ (c.drainDst s).anchor = (c.drainSrc s).anchor) :
    ∃ t, exec (.mdrain w) s = .next t ∧ Claims.left s t = some { c with stage := .complete, due := s.now c.die } ∧
      t.mem = s.mem ∧ SameDies (drained s c) t := by
  obtain ⟨hcmds, hwants, hmem, hnow⟩ := drained_frame (s := s) (c := c)
  rw [← hmem]
  exact h.completes (h.exec_mdrain_merges hb hheld hsame) hcmds hwants hnow

end

/-- Claims, releases and merges change their tiles as R82, R237 and R242 say. -/
theorem claimsAndMergesChangeTheirTiles : Claims.ClaimsAndMergesChangeTheirTiles := by
  intro s c w h hload x
  refine ⟨⟨fun ⟨hslots, htiles⟩ => ?_, fun hheld => ?_⟩, ⟨fun ⟨hslots, htiles⟩ => ?_, fun hfree => ?_⟩, ?_⟩
  · exact ⟨_, h.finishes (h.exec_mclaim_free hslots htiles), MIsland.slot_putAll _ _ _ _ _, MIsland.tile_putAll _ _ _ _ _⟩
  · exact h.fails hload (h.exec_mclaim_held hheld)
  · exact ⟨_, h.finishes (h.exec_mrelease_held hslots htiles), MIsland.slot_putAll _ _ _ _ _, MIsland.tile_putAll _ _ _ _ _⟩
  · exact h.fails hload (h.exec_mrelease_unheld hfree)
  intro src j dst held
  refine ⟨fun hb hheld => ?_, fun hheld => ?_, fun hb hheld hset hne => ?_, fun hb hheld hsame hne => ?_⟩
  · exact ⟨_, h.exec_mdrain_begins hb hheld, h.left_updCmd rfl
      (f := fun x => { x with begun := true, due := s.now c.die + 3 * ringHops c.isl j + 63 }) rfl, rfl⟩
  · obtain ⟨step, hstep⟩ := h.exec_mdrain_unheld hheld
    exact h.fails hload hstep
  · obtain ⟨detail, hstep⟩ := h.exec_mdrain_clash hb hheld hset hne
    exact h.fails hload hstep
  · obtain ⟨t, ht, hleft, hmem, hdies⟩ := h.mdrain_completes hb hheld hsame
    have hdst : ((t.die c.die).island j).tile (c.f1 54 4) = dst.mergeFrom src := by
      rw [hdies.island]
      exact drained_dst h.die hne
    have hsrc : ((t.die c.die).island c.isl).tile c.accTile = if c.clr then src.restart else src := by
      rw [hdies.island]
      exact drained_src h.die hne
    refine ⟨t, ht, hleft, hmem, ?_⟩
    rw [hdst, hsrc]
    exact ⟨(Tile.mergeFrom_owner _ _).trans hheld.2.1, Tile.mergeFrom_anchor _ _ hsame, Tile.mergeFrom_ent_unset _ _,
      fun hset i hi => by rw [Tile.mergeFrom_ent_set _ _ hset hi]; exact ⟨rfl, rfl⟩, rfl⟩

end Sys2Proof.Machine
end

section
/-! SUPPORT. NORM: the row of tokens that an item sends, and the turn that sends it. -/

namespace Sys2Proof.Machine

/-! A row of return links (R232). -/

/-- The region after a token is sent in cycle t to port p of each of n cells from cell b on. -/
def sendRow (r : Region) (b p t n : Nat) (ks : List Token) : Region :=
  (List.range n).foldl (fun r j => returnTok r (b + j) p t (ks.getD j .voidVal)) r

theorem sendRow_succ (r : Region) (b p t n : Nat) (ks : List Token) :
    sendRow r b p t (n + 1) ks = returnTok (sendRow r b p t n ks) (b + n) p t (ks.getD n .voidVal) := by
  simp [sendRow, List.range_succ]

theorem keeps_sendRow (b p t n : Nat) (ks : List Token) : KeepsPlace fun r => sendRow r b p t n ks := by
  intro r
  induction n with
  | zero => exact ⟨rfl, rfl⟩
  | succ n ih =>
    simp only [sendRow_succ]
    exact ih

theorem cell_returnTok (r : Region) (c p t : Nat) (k : Token) (j : Nat) :
    (returnTok r c p t k).cell j = (r.updRt c fun y => y.arrive p { k with born := t }).cell j := rfl

/-- Each cell of the row has its token, and the cells behind it are as they were. -/
theorem cell_sendRow (r : Region) (b p t n : Nat) (ks : List Token) (j : Nat) : (sendRow r b p t n ks).cell (b + j) =
    if j < n then { r.cell (b + j) with rt := (r.cell (b + j)).rt.arrive p { ks.getD j .voidVal with born := t } }
    else r.cell (b + j) := by
  induction n with
  | zero => rfl
  | succ n ih =>
    rw [sendRow_succ, cell_returnTok]
    by_cases hj : j = n
    · subst hj
      rw [Region.cell_updRt_same, ih, if_neg (Nat.lt_irrefl _), if_pos (Nat.lt_succ_self _)]
    · rw [Region.cell_updRt_other _ _ _ _ (by omega), ih]
      simp only [show j < n + 1 ↔ j < n by omega]

/-- A token that arrives at a port of a cell stands last there. -/
theorem CellRt.port_arrive {y : CellRt} {p : Nat} (hp : p < y.ports.length) (hl : y.lost = false) (k : Token) :
    ((y.arrive p k).port p).q = (y.port p).q ++ [k] := by
  simp only [arrive, hl, Bool.false_eq_true, if_false, port]
  rw [State.getD_modNth _ _ _ _ _ hp, if_pos rfl]
  rfl

/-! The turn (R243). -/

/-- Every receiving port of a NORM has a free slot, and no FREEZE stops its region. -/
def Cmd.NormRoom (c : Cmd) (r : Region) (t : Nat) : Prop :=
  r.held = false ∧ ∀ j < 2 ^ c.f0 31 3, returnRoom r (c.f0 17 14 + j) (c.f0 15 2) t = true

theorem Cmd.normRoom_iff {c : Cmd} {r : Region} {t : Nat} :
    (r.held || !(c.normCells.all fun x => returnRoom r x.1 (c.f0 15 2) t)) = false ↔ c.NormRoom r t := by
  simp [NormRoom, normCells]

/-- The tokens of an item go to the cells of a NORM as a row. -/
theorem Cmd.foldl_normCells (c : Cmd) (r : Region) (p t : Nat) (ks : List Token) :
    c.normCells.foldl (fun r x => returnTok r x.1 p t (ks.getD x.2 .voidVal)) r = sendRow r (c.f0 17 14) p t (2 ^ c.f0 31 3) ks := by
  simp only [normCells, List.foldl_map, sendRow]

/-- The item that a NORM sends next of the reading v. -/
def Cmd.normNext (c : Cmd) (v : Tile) : List Token × FlagBits × Bool := normItem v (c.f0 34 1 == 1) (2 ^ c.f0 31 3) c.item

/-- The region of a NORM after its next item. -/
def Cmd.normRegion (c : Cmd) (v : Tile) (t : Nat) (r : Region) : Region :=
  orFlags (sendRow r (c.f0 17 14) (c.f0 15 2) t (2 ^ c.f0 31 3) (c.normNext v).1) (c.normNext v).2.1

/-- The state after a NORM's next item: the command counts it, and is complete with the last. -/
def normSent (s : State) (c : Cmd) (v : Tile) : State :=
  let u := (s.updRegion c.die c.rblk (c.normRegion v (s.now c.die))).updCmd c.id fun _ => { c with item := c.item + 1 }
  if (c.normNext v).2.2 then finishCmd u { c with item := c.item + 1 } else u

section
variable {u : State} {c c' : Cmd} {r : Region} (hr : u.region c.die c.rblk = some r) (hc : u.cmd c.id = some c')
include hr hc

theorem normSend_waits (hroom : ¬c'.NormRoom r (u.now c'.die)) : normSend u c = u := by
  rw [← Cmd.normRoom_iff, Bool.not_eq_false] at hroom
  simp only [normSend, hr, hc, hroom, if_true]

theorem normSend_sends {v : Tile} (hv : c'.reading = some v) (hroom : c'.NormRoom r (u.now c'.die)) :
    normSend u c = normSent u c' v := by
  rw [← Cmd.normRoom_iff] at hroom
  have hread : c'.reading.getD .empty = v := by rw [hv]; rfl
  simp only [normSend, hr, hc, hroom, Bool.false_eq_true, if_false, hread, Cmd.foldl_normCells]
  rfl

end

theorem Cmd.keeps_normRegion (c : Cmd) (v : Tile) (t : Nat) : KeepsPlace (c.normRegion v t) :=
  fun r => keeps_sendRow _ _ _ _ _ r

/-- Each receiving cell that can take a token has the one of its lane. -/
theorem Cmd.port_normRegion (c : Cmd) (v : Tile) (t : Nat) (r : Region) {j : Nat} (hj : j < 2 ^ c.f0 31 3)
    (hp : c.f0 15 2 < (r.cell (c.f0 17 14 + j)).rt.ports.length) (hl : (r.cell (c.f0 17 14 + j)).rt.lost = false) :
    (((c.normRegion v t r).cell (c.f0 17 14 + j)).rt.port (c.f0 15 2)).q =
      ((r.cell (c.f0 17 14 + j)).rt.port (c.f0 15 2)).q ++ [{ (c.normNext v).1.getD j .voidVal with born := t }] := by
  change (((sendRow _ _ _ _ _ _).cell _).rt.port _).q = _
  rw [cell_sendRow, if_pos hj]
  exact CellRt.port_arrive hp hl _

section
variable {u : State} {c : Cmd} {v : Tile}

theorem normSent_frame : (normSent u c v).mem = u.mem ∧ (normSent u c v).wants = u.wants := by
  unfold normSent
  dsimp only
  split <;> exact ⟨rfl, rfl⟩

/-- The command of a NORM after its next item. -/
theorem cmd_normSent {x : Cmd} (hx : u.cmd c.id = some x) : (normSent u c v).cmd c.id = some { c with
    item := c.item + 1
    stage := if (c.normNext v).2.2 then .complete else c.stage
    due := if (c.normNext v).2.2 then u.now c.die else c.due } := by
  have hcount : (u.updCmd c.id fun _ => { c with item := c.item + 1 }).cmd c.id = some { c with item := c.item + 1 } :=
    State.cmd_updCmd hx (f := fun _ => { c with item := c.item + 1 }) rfl
  unfold normSent
  dsimp only
  split
  · exact State.cmd_updCmd (s := u.updCmd c.id fun _ => { c with item := c.item + 1 }) hcount
      (f := fun x => { x with stage := .complete, due := u.now c.die }) rfl
  · exact hcount

/-- The region of a NORM after its next item, but for the cycle in which it acted last. -/
theorem region_normSent {r : Region} (hr : u.region c.die c.rblk = some r) : ∃ r', (normSent u c v).region c.die c.rblk = some r' ∧
    ∀ n, r'.cell n = (c.normRegion v (u.now c.die) r).cell n := by
  have hsent : (u.updRegion c.die c.rblk (c.normRegion v (u.now c.die))).region c.die c.rblk =
      some (c.normRegion v (u.now c.die) r) := by
    rw [State.region_updRegion_same (c.keeps_normRegion v _), hr]
    rfl
  unfold normSent
  dsimp only
  split
  · refine ⟨Region.act (u.now c.die) (c.normRegion v (u.now c.die) r), ?_, fun _ => rfl⟩
    change ((u.updRegion _ _ _).updRegion c.die c.rblk (Region.act (u.now c.die))).region c.die c.rblk = _
    rw [State.region_updRegion_same (Region.keeps_act _), hsent]
    rfl
  · exact ⟨_, hsent, fun _ => rfl⟩

end

section
variable {s : State} {c : Cmd} {w : EngWords} (h : EngineReady s c w)
include h

/-- What a NORM that sends its next item of v leaves: the command one item on and complete with the last, memory as it was, and
the tokens of the item at its cells. -/
theorem EngineReady.norm_sends {u : State} {v : Tile} {r : Region}
    (hi : exec (.norm w) s = .next (settle s (normSend u c))) (hcmd : u.cmd c.id = some { c with begun := true, reading := some v })
    (hregions : u.regions = s.regions) (hnow : u.now c.die = s.now c.die) (hmem : u.mem = s.mem) (hwants : u.wants = s.wants)
    (hr : s.region c.die c.rblk = some r) (hroom : c.NormRoom r (s.now c.die)) :
    ∃ t r' c', exec (.norm w) s = .next t ∧ Claims.left s t = some c' ∧ c'.id = c.id ∧ c'.item = c.item + 1 ∧
      c'.stage = (if (c.normNext v).2.2 then .complete else .running) ∧ c'.reading = some v ∧ t.mem = s.mem ∧
      t.region c.die c.rblk = some r' ∧ ∀ j < 2 ^ c.f0 31 3, c.f0 15 2 < (r.cell (c.f0 17 14 + j)).rt.ports.length →
        (r.cell (c.f0 17 14 + j)).rt.lost = false → ((r'.cell (c.f0 17 14 + j)).rt.port (c.f0 15 2)).q =
          ((r.cell (c.f0 17 14 + j)).rt.port (c.f0 15 2)).q ++ [{ (c.normNext v).1.getD j .voidVal with born := s.now c.die }] := by
  have hru : u.region c.die c.rblk = some r := by rw [State.region, hregions]; exact hr
  rw [normSend_sends hru hcmd rfl (by rw [hnow]; exact hroom)] at hi
  obtain ⟨hsmem, hswants⟩ := normSent_frame (u := u) (c := { c with begun := true, reading := some v }) (v := v)
  have hset := h.alone.settles (hswants.trans hwants)
  obtain ⟨r', hr', hcells⟩ := region_normSent (c := { c with begun := true, reading := some v }) (v := v) hru
  refine ⟨_, r', { c with
    begun := true
    reading := some v
    item := c.item + 1
    stage := if (c.normNext v).2.2 then .complete else c.stage
    due := if (c.normNext v).2.2 then u.now c.die else c.due }, hi, ?_, rfl, rfl, ?_, rfl, hset.mem.trans (hsmem.trans hmem), (hset.region _ _).trans hr', ?_⟩
  · rw [Claims.left, hset.cmd, ← h.id_eq]
    exact cmd_normSent (c := { c with begun := true, reading := some v }) (v := v) hcmd
  · exact congrArg (fun st => if (c.normNext v).2.2 then CmdStage.complete else st) h.runs
  · intro j hj hp hl
    rw [hcells, hnow]
    exact Cmd.port_normRegion { c with begun := true, reading := some v } v _ r hj hp hl

theorem EngineReady.exec_norm_begun (hb : c.begun = true) : exec (.norm w) s = .next (settle s (normSend s c)) :=
  (h.engineTurn_eq _).trans (by simp [hb])

/-- A NORM that has its tile reads it, and restarts it with CLR, before it sends. -/
def normRead (s : State) (c : Cmd) (v : Tile) : State :=
  let u := s.updCmd c.id fun c => { c with begun := true, reading := some v }
  if c.clr then updIsland u c.die c.isl fun x => x.setTile c.accTile v.restart else u

theorem EngineReady.exec_norm_starts (hb : c.begun = false) (hown : (c.drainSrc s).owner = c.seq)
    (hset : (c.drainSrc s).anchor ≠ none) :
    exec (.norm w) s = .next (settle s (normSend (normRead s c (c.drainSrc s)) c)) := by
  have hbegin : normBegin s c = some (normRead s c (c.drainSrc s)) := by
    have hok : ((c.drainSrc s).owner == c.seq && (c.drainSrc s).anchor.isSome) = true := by
      simpa [Option.isSome_iff_ne_none] using And.intro hown hset
    exact if_pos hok
  exact (h.engineTurn_eq _).trans (by simp [hb, hbegin])

theorem EngineReady.exec_norm_unset (hb : c.begun = false) (hbad : (c.drainSrc s).owner ≠ c.seq ∨ (c.drainSrc s).anchor = none) :
    exec (.norm w) s = .next (settle s (failCmd s c fcEngine 0 noStep)) := by
  have hbegin : normBegin s c = none := by
    have hok : ¬((c.drainSrc s).owner == c.seq && (c.drainSrc s).anchor.isSome) = true := by
      simpa [imp_iff_not_or] using hbad
    exact if_neg hok
  exact (h.engineTurn_eq _).trans (by simp [hb, hbegin])

end

theorem normRead_frame (s : State) (c : Cmd) (v : Tile) : (normRead s c v).regions = s.regions ∧ (normRead s c v).mem = s.mem ∧
    (normRead s c v).wants = s.wants ∧ (normRead s c v).now c.die = s.now c.die ∧
    (normRead s c v).cmds = (s.updCmd c.id fun c => { c with begun := true, reading := some v }).cmds := by
  unfold normRead
  dsimp only
  split
  · exact ⟨rfl, rfl, rfl, now_updIsland _ _ _ _ _, rfl⟩
  · exact ⟨rfl, rfl, rfl, rfl, rfl⟩

/-- A begun NORM is its own command with the reading it has. -/
theorem Cmd.begun_reading {c : Cmd} {v : Tile} (hb : c.begun = true) (hv : c.reading = some v) :
    { c with begun := true, reading := some v } = c := by
  cases c
  simp_all

/-- NORM sends its tile as R243 says. -/
theorem normSendsTheTile : Claims.NormSendsTheTile := by
  intro s c r w h hload hr tile t port lanes cell room item sends
  have hcmd : s.cmd c.id = some c := by rw [h.id_eq]; exact h.command
  refine ⟨fun hb hv hroom => ?_, fun hb hroom => ?_, fun hb hown hset hroom => ?_, fun hb hbad => ?_⟩
  · obtain ⟨u, r', c', hi, hleft, -, hrest⟩ := h.norm_sends (v := tile) (h.exec_norm_begun hb)
      (by rw [Cmd.begun_reading hb hv]; exact hcmd) rfl rfl rfl rfl hr hroom
    exact ⟨u, r', c', hi, hleft, hrest⟩
  · rw [h.exec_norm_begun hb, normSend_waits hr hcmd hroom]
    exact congrArg _ (h.alone.settle_eq rfl rfl rfl rfl rfl)
  · obtain ⟨hregions, hmem, hwants, hnow, hcmds⟩ := normRead_frame s c tile
    have hread : (normRead s c tile).cmd c.id = some { c with begun := true, reading := some tile } := by
      rw [State.cmd, hcmds]
      exact State.cmd_updCmd (f := fun c => { c with begun := true, reading := some tile }) hcmd rfl
    obtain ⟨u, r', c', hi, hleft, -, hrest⟩ := h.norm_sends (h.exec_norm_starts hb hown hset) hread hregions hnow hmem hwants hr hroom
    exact ⟨u, r', c', hi, hleft, hrest⟩
  · exact h.fails hload (h.exec_norm_unset hb hbad)

/-- Settles O41: MCLAIM, MRELEASE and MDRAIN by what is held, and NORM by whether its cells have room. -/
theorem claimsMergesAndNorm : Obligations.ClaimsMergesAndNorm :=
  ⟨claimsAndMergesChangeTheirTiles, normSendsTheTile⟩

end Sys2Proof.Machine
end

section
/-! SUPPORT. Island commands that complete: the last step of a streamer command beside those of the matrix commands. -/

namespace Sys2Proof.Machine

/-- The steps of a streamer command are the turns of its Streamed. -/
theorem exec_streamerOp {w : EngWords} {e : Instr × Streamed} (he : e ∈ streamerOps w) (s : State) :
    exec e.1 s = streamTurn w s e.2 := by
  simp only [streamerOps, List.mem_cons, List.not_mem_nil, or_false] at he
  rcases he with rfl | rfl | rfl | rfl | rfl | rfl | rfl | rfl | rfl | rfl | rfl <;> rfl

/-- The last step of a streamer command completes it. -/
theorem EngineReady.stream_completes {s u : State} {c c' : Cmd} {w : EngWords} (h : EngineReady s c w) {x : Streamed} {n : Nat}
    (hopen : islandFrozen s c.die c.target c.isl c.rblk = false) (hb : c.begun = true)
    (hstep : x.step s c = .ok (true, n, c') u) (hwants : u.wants = []) (hid : c'.id = c.id) (hleft : Claims.left s u = some c) :
    ∃ t y, streamTurn w s x = .next t ∧ Claims.left s t = some y ∧ y.stage = .complete ∧ y.id = c.id := by
  let d : Cmd := { c' with item := c.item + 1 }
  let k : Cmd := { d with due := u.now c'.die + 0 }
  have hkeep : (keepCmd u d 0).cmd s.focus.id = some k := by
    rw [← h.id_eq, ← hid]
    exact State.cmd_updCmd (s := u) (f := fun _ => k) (by rw [hid, h.id_eq]; exact hleft) rfl
  have hset : SameButTraffic (finishCmd (keepCmd u d 0) d) _ :=
    settle_sameButTraffic h.alone.asked (t := finishCmd (keepCmd u d 0) d) hwants
  have hturn : streamTurn w s x = .next (settle s (finishCmd (keepCmd u d 0) d)) :=
    (h.engineTurn_eq _).trans (by simp [hopen, hb, hstep, d])
  refine ⟨_, { k with stage := .complete, due := (keepCmd u d 0).now c'.die }, hturn, ?_, rfl, hid⟩
  · rw [Claims.left, hset.cmd, ← h.id_eq, ← hid]
    refine State.cmd_updCmd (s := (keepCmd u d 0).updRegion _ _ _)
      (f := fun x => { x with stage := .complete, due := (keepCmd u d 0).now c'.die }) ?_ rfl
    rw [hid, h.id_eq]
    exact hkeep

/-- Settles O55: the matrix commands by the states in which O41 has them end, the streamer commands by the one turn they share. -/
theorem islandCommandsComplete : Obligations.IslandCommandsComplete := by
  intro s u c w h hload x src dst done
  have done_of_finishes {i : Instr} {y : MIsland} (hf : Claims.finishes s c i y) : done i := by
    obtain ⟨t, ht, hleft, -⟩ := hf
    exact ⟨t, _, ht, hleft, rfl, rfl⟩
  refine ⟨fun hslots htiles => ?_, fun hslots htiles => ?_, fun hb hs hd hset hsame => ?_, fun r v hb hv hr hheld hroom hlast => ?_,
    fun e he n c' hopen hb hstep hwants hid hleft => ?_⟩
  · exact done_of_finishes (h.finishes (h.exec_mclaim_free hslots htiles))
  · exact done_of_finishes (h.finishes (h.exec_mrelease_held hslots htiles))
  · obtain ⟨t, ht, hleft, -⟩ := h.mdrain_completes hb ⟨hs, hd, hset⟩ hsame
    exact ⟨t, _, ht, hleft, rfl, rfl⟩
  · obtain ⟨t, -, y, ht, hleft, hyid, -, hstage, -⟩ := h.norm_sends (v := v) (h.exec_norm_begun hb)
      (by rw [Cmd.begun_reading hb hv, h.id_eq]; exact h.command) rfl rfl rfl rfl hr ⟨hheld, hroom⟩
    exact ⟨t, y, ht, hleft, hstage.trans (if_pos hlast), hyid⟩
  · obtain ⟨t, y, ht, hrest⟩ := h.stream_completes hopen hb hstep hwants hid hleft
    exact ⟨t, y, (exec_streamerOp he s).trans ht, hrest⟩

end Sys2Proof.Machine
end

section
/-! SUPPORT. Accesses at home: translations that come out, the chunks of an access within one granule, and what reading and writing
them gives. -/

namespace Sys2Proof.Machine

/-! Tables on other modules, for a step that has no answers from there (R164, R315). -/

/-- The actor in focus has no answer, and the step has written nothing on other modules. -/
structure State.Unanswered (s : State) : Prop where
  told : ∀ a ∈ s.words, a.who ≠ s.focus
  puts : s.puts = []

namespace State

theorem Alone.unanswered {s : State} (h : s.Alone) : s.Unanswered := ⟨h.told, h.puts⟩

theorem Unanswered.answerAt {s : State} (h : s.Unanswered) (a : Nat) : s.answerAt a = none := by
  have hnone (w : Want) : s.answer w = none := by
    rw [State.answer, List.find?_eq_none]
    intro x hx
    simp [h.told x hx]
  simp [State.answerAt, hnone]

theorem Unanswered.farByte {s : State} (h : s.Unanswered) (a : Nat) : s.farByte a = 0 := by
  simp [State.farByte, h.puts, h.answerAt]

theorem want_eq (s : State) (w : Want) : ∃ ws, s.want w = { s with wants := ws } := by
  unfold State.want
  split
  · exact ⟨s.wants, rfl⟩
  · exact ⟨_, rfl⟩

theorem want_wants_ne (s : State) (w : Want) : (s.want w).wants ≠ [] := by
  unfold State.want
  split
  · next h => exact fun h' => by simp [h'] at h
  · simp

end State

/-- Needing bytes of a table changes what a step wants alone. -/
theorem needFar_eq (s : State) (a n : Nat) : ∃ ws, needFar s a n = { s with wants := ws } := by
  unfold needFar
  generalize List.range ((a + n + 15) / 16 - a / 16) = l
  induction l generalizing s with
  | nil => exact ⟨s.wants, rfl⟩
  | cons i l ih =>
    rw [List.foldl_cons]
    split
    · exact ih s
    · obtain ⟨ws, hw⟩ := s.want_eq (.unit (a / 16 + i))
      obtain ⟨ws', hl⟩ := ih (s.want (.unit (a / 16 + i)))
      exact ⟨ws', by rw [hl, hw]⟩

theorem needPhys_eq (s : State) (a n : Nat) : ∃ ws, needPhys s a n = { s with wants := ws } := by
  unfold needPhys
  split
  · exact ⟨s.wants, rfl⟩
  · exact needFar_eq _ _ _

/-- A step without answers lacks every byte of another module. -/
theorem needFar_wants_ne {s : State} (h : s.Unanswered) (a : Nat) {n : Nat} (hn : 0 < n) : (needFar s a n).wants ≠ [] := by
  have hl : List.range ((a + n + 15) / 16 - a / 16) ≠ [] := by
    rw [ne_eq, List.range_eq_nil]
    omega
  unfold needFar
  generalize List.range ((a + n + 15) / 16 - a / 16) = l at hl
  induction l generalizing s with
  | nil => exact absurd rfl hl
  | cons i l ih =>
    rw [List.foldl_cons, h.answerAt, if_neg (by simp)]
    cases l with
    | nil => exact s.want_wants_ne _
    | cons j l =>
      obtain ⟨ws, hw⟩ := s.want_eq (.unit (a / 16 + i))
      refine ih ?_ (by simp)
      rw [hw]
      exact ⟨h.told, h.puts⟩

/-- Whoever wants nothing after needing bytes needs none of another module. -/
theorem isLocal_of_needPhys {s : State} (h : s.Unanswered) {a n : Nat} (hn : 0 < n) (hw : (needPhys s a n).wants = []) :
    s.isLocal a = true := by
  by_contra hl
  rw [needPhys, if_neg hl] at hw
  exact needFar_wants_ne h a hn hw

theorem needPhys_local {s : State} {a : Nat} (h : s.isLocal a = true) (n : Nat) : needPhys s a n = s := if_pos h

theorem leNat_replicate_zero (n : Nat) : leNat (List.replicate n 0) = 0 := by
  induction n with
  | zero => rfl
  | succ n ih => rw [List.replicate_succ, leNat, ih]; rfl

/-- A table of another module reads as zeros without an answer. -/
theorem physNat_unanswered {s : State} (h : s.Unanswered) {a : Nat} (hl : s.isLocal a = false) (n : Nat) :
    physNat (needPhys s a n) a n = 0 := by
  obtain ⟨ws, hs⟩ := needPhys_eq s a n
  rw [hs]
  change physNat s a n = 0
  have hzero : (List.range n).map (fun i => s.farByte (a + i)) = List.replicate n 0 := by
    simp [h.farByte, List.map_const']
  rw [physNat, physBytes, if_neg (by simp [hl]), hzero, leNat_replicate_zero]

/-! Translations (R164, R165). -/

/-- A choice that comes to an outcome which its first case does not give takes the second. -/
theorem ite_second {α β : Type} {c : Prop} [Decidable c] {x y : α × β} {z : α} (hx : x.1 ≠ z)
    (h : (if c then x else y).1 = z) : (if c then x else y) = y ∧ y.1 = z := by
  by_cases hc : c
  · rw [if_pos hc] at h
    exact absurd h hx
  · rw [if_neg hc] at h ⊢
    exact ⟨rfl, h⟩

/-- An extent that is found is found in tables of this module, and the state stays. -/
theorem findExtent_found {s : State} (h : s.Unanswered) {a o n : Nat} {seen : List (BitVec 128)} {x : BitVec 128 × List (BitVec 128)}
    (hx : (findExtent a o n seen s).1 = .inr x) : (findExtent a o n seen s).2 = s := by
  induction n generalizing a seen with
  | zero => exact absurd hx (by simp [findExtent])
  | succ n ih =>
    rw [findExtent] at hx ⊢
    obtain ⟨he, hx⟩ := ite_second (by simp) hx
    rw [he]
    by_cases hl : s.isLocal a = true
    · rw [needPhys_local hl] at hx ⊢
      obtain ⟨he, hx⟩ := ite_second (by simp) hx
      rw [he]
      split at hx
      · next hhas => rw [if_pos hhas]
      · next hhas =>
        rw [if_neg hhas]
        exact ih hx
    · have hw := mt (isLocal_of_needPhys h (n := 16) (by omega)) hl
      rw [if_pos (by simpa using hw)] at hx
      exact absurd hx (by simp)

/-- All but what dies cache of translations is the same. -/
def SameButXlates (s t : State) : Prop :=
  ∃ ds, t = { s with dies := ds } ∧ ds.length = s.dies.length ∧ ∀ d, ∃ l, ds.getD d .reset = { s.die d with xlates := l }

theorem SameButXlates.refl (s : State) : SameButXlates s s := ⟨s.dies, rfl, rfl, fun _ => ⟨_, rfl⟩⟩

theorem sameButXlates_updDie (s : State) (d : Nat) (f : Die → List Xlate) :
    SameButXlates s (s.updDie d fun y => { y with xlates := f y }) := by
  refine ⟨_, rfl, length_modNth _ _ _, fun e => ?_⟩
  change ∃ l, (s.updDie d _).die e = _
  by_cases he : e = d
  · by_cases hd : d < s.dies.length
    · rw [State.die_updDie s d e _ hd, if_pos he]
      exact ⟨_, rfl⟩
    · rw [State.die, State.updDie_dies, modNth_of_length_le (Nat.not_lt.1 hd)]
      exact ⟨_, rfl⟩
  · rw [State.die_updDie_other s d e _ he]
    exact ⟨_, rfl⟩

/-- A page of another module's table reads as absent without an answer. -/
theorem pageCheck_zero (s : State) (d : BitVec 256) (x : BitVec 128) (o : Nat) (w st : Bool) :
    pageCheck s d x 0#128 o w st = .bad fcAbsent := by
  simp [pageCheck]

/-- A walk that comes out caches a translation at most. -/
theorem translateWalk_ok {s : State} (h : s.Unanswered) {d blk oid o pa : Nat} {w st : Bool} {dsc : BitVec 256}
    (hok : (translateWalk s d blk oid o w st dsc).1 = .ok pa) : SameButXlates s (translateWalk s d blk oid o w st dsc).2 := by
  have hstay (x) := findExtent_found h (a := fieldNat dsc 200 56) (o := o) (n := fieldNat dsc 184 16) (seen := []) (x := x)
  unfold translateWalk at hok ⊢
  generalize findExtent (fieldNat dsc 200 56) o (fieldNat dsc 184 16) [] s = r at hstay hok ⊢
  obtain ⟨code | ⟨x, seen⟩, u⟩ := r
  · exact absurd hok (by simp)
  · obtain rfl : u = s := hstay _ rfl
    dsimp only at hok ⊢
    obtain ⟨he, hok⟩ := ite_second (by simp) hok
    rw [he]
    obtain ⟨he, hok⟩ := ite_second (by simp) hok
    rw [he]
    generalize fieldNat x 8 56 + 16 * ((o - extXofs x) / pageSize (fieldNat x 6 2)) = b at hok ⊢
    cases hl : u.isLocal b with
    | false =>
      rw [physNat_unanswered h hl, pageCheck_zero] at hok
      exact absurd hok (by simp)
    | true =>
      rw [needPhys_local hl]
      split
      · exact sameButXlates_updDie _ _ _
      · exact .refl u

/-- A translation that comes out leaves all but cached translations as they were, for a step without answers. -/
theorem translate_ok {s : State} (h : s.Unanswered) {d blk oid o pa : Nat} {w st : Bool}
    (hok : (translate s d blk oid o w st).1 = .ok pa) : SameButXlates s (translate s d blk oid o w st).2 := by
  unfold translate at hok ⊢
  obtain ⟨he, hok⟩ := ite_second (by simp) hok
  rw [he]
  cases hfind : (s.die d).xlates.find? (·.serves blk oid o) with
  | some e => exact .refl s
  | none =>
    rw [hfind] at hok
    dsimp only at hok ⊢
    obtain ⟨he, hok⟩ := ite_second (by simp) hok
    rw [he]
    generalize s.module.otb.toNat + 32 * oid = b at hok ⊢
    cases hl : s.isLocal b with
    | false =>
      rw [physNat_unanswered h hl] at hok
      exact absurd hok (by simp [descValid])
    | true =>
      rw [needPhys_local hl] at hok ⊢
      obtain ⟨he, hok⟩ := ite_second (by simp) hok
      rw [he]
      obtain ⟨he, hok⟩ := ite_second (by simp) hok
      rw [he]
      obtain ⟨he, hok⟩ := ite_second (by simp) hok
      rw [he]
      exact translateWalk_ok h hok

/-! Translations beside dies (R164, R165). -/

theorem needFar_withDies (s : State) (ds : List Die) (a n : Nat) :
    needFar { s with dies := ds } a n = { needFar s a n with dies := ds } := by
  unfold needFar
  generalize List.range ((a + n + 15) / 16 - a / 16) = l
  induction l generalizing s with
  | nil => rfl
  | cons i l ih =>
    rw [List.foldl_cons, List.foldl_cons, ← ih]
    congr 1
    unfold State.want
    change (if (s.answerAt _).isSome then _ else if s.wants.contains _ then _ else _) = _
    split
    · rfl
    · split <;> rfl

theorem needPhys_withDies (s : State) (ds : List Die) (a n : Nat) :
    needPhys { s with dies := ds } a n = { needPhys s a n with dies := ds } := by
  unfold needPhys
  change (if s.isLocal a then _ else _) = _
  split
  · rfl
  · exact needFar_withDies _ _ _ _

theorem findExtent_withDies (s : State) (ds : List Die) (a o n : Nat) (seen : List (BitVec 128)) :
    findExtent a o n seen { s with dies := ds } =
      ((findExtent a o n seen s).1, { (findExtent a o n seen s).2 with dies := ds }) := by
  induction n generalizing a seen s with
  | zero => rfl
  | succ n ih =>
    rw [findExtent, findExtent, needPhys_withDies]
    generalize needPhys s a 16 = u
    change (if u.failing a 16 then _ else if !u.wants.isEmpty then _ else if extHas (BitVec.ofNat 128 (physNat u a 16)) o then _ else _) = _
    split
    · rfl
    · split
      · rfl
      · split
        · rfl
        · exact ih _ _ _

/-- Whether an outcome is cached does not change it. -/
theorem fst_cached (x : Xres) (cached kept : State) :
    (match x with | .ok _ => (x, cached) | _ => (x, kept)).1 = x := by
  cases x <;> rfl

/-- What a walk comes to depends on no die. -/
theorem translateWalk_withDies (s : State) (ds : List Die) (d blk oid o : Nat) (w st : Bool) (dsc : BitVec 256) :
    (translateWalk { s with dies := ds } d blk oid o w st dsc).1 = (translateWalk s d blk oid o w st dsc).1 := by
  rw [translateWalk, translateWalk, findExtent_withDies]
  generalize findExtent (fieldNat dsc 200 56) o (fieldNat dsc 184 16) [] s = r
  obtain ⟨code | ⟨x, seen⟩, u⟩ := r
  · rfl
  · dsimp only
    split
    · rfl
    · rw [needPhys_withDies]
      generalize needPhys u (fieldNat x 8 56 + 16 * ((o - extXofs x) / pageSize (fieldNat x 6 2))) 16 = v
      change (if v.failing _ 16 then _ else _ : Xres × State).1 = _
      split
      · rfl
      · exact (fst_cached _ _ _).trans (fst_cached _ _ _).symm

/-- What a translation comes to depends on no die but for its cached translations. -/
theorem translate_withDies (s : State) (ds : List Die) {d : Nat} (h : (ds.getD d .reset).xlates = (s.die d).xlates)
    (blk oid o : Nat) (w st : Bool) :
    (translate { s with dies := ds } d blk oid o w st).1 = (translate s d blk oid o w st).1 := by
  rw [translate, translate]
  change (if s.module.otlen.toNat ≤ oid then _ else match (ds.getD d .reset).xlates.find? _ with | some e => _ | none => _ : Xres × State).1 = _
  rw [h]
  split
  · rfl
  · cases (s.die d).xlates.find? (·.serves blk oid o) with
    | some e => rfl
    | none =>
      dsimp only
      rw [needPhys_withDies]
      generalize needPhys s (s.module.otb.toNat + 32 * oid) 32 = u
      change (if u.failing _ 32 then _ else if !descValid (BitVec.ofNat 256 (physNat u _ 32)) then _
        else if fieldNat (BitVec.ofNat 256 (physNat u _ 32)) 140 44 ≤ o then _
        else if (BitVec.ofNat 256 (physNat u _ 32)).getLsbD 11 then _ else _ : Xres × State).1 = _
      split
      · rfl
      · split
        · rfl
        · split
          · rfl
          · split
            · rfl
            · exact translateWalk_withDies _ _ _ _ _ _ _ _ _

/-! The chunks of an access within one granule of this module. -/

/-- The chunks of n bytes of this module's memory from a up. -/
def homeChunks (a n : Nat) : List Chunk := (List.range n).map fun i => .at (a + i)

theorem homeChunks_succ (a n : Nat) : homeChunks a (n + 1) = .at a :: homeChunks (a + 1) n := by
  simp only [homeChunks, List.range_succ_eq_map, List.map_cons, List.map_map, Nat.add_zero]
  congr 2
  funext i
  simp [Nat.add_comm 1 i, Nat.add_assoc]

/-- An access of n bytes at offset o, of an object that its translation places at local address a: within one granule, at home. -/
structure AtHome (s : State) (md : Mode) (oid o n a : Nat) (writes : Bool) : Prop where
  some_ : 0 < n
  inOffset : o % 64 + n ≤ 64
  inGranule : a % 64 + n ≤ 64
  placed : ∃ pa, (translate s md.die md.blk oid o writes md.stash).1 = .ok pa ∧ s.isLocal pa = true ∧ paLocal pa = a

theorem pieces_one {o n : Nat} (hn : 0 < n) (ho : o % 64 + n ≤ 64) : pieces o n = [(o, n)] := by
  have hg : granules o n = [o / 64] := by
    rw [granules, show (o + n + 63) / 64 - o / 64 = 1 by omega]
    simp
  rw [pieces, hg]
  have hlo : max o (64 * (o / 64)) = o := by omega
  have hhi : min (o + n) (64 * (o / 64) + 64) = o + n := by omega
  simp [hlo, hhi]

namespace AtHome

variable {s : State} {md : Mode} {oid o n a : Nat} {writes : Bool} (h : AtHome s md oid o n a writes)
include h

/-- A granule's address is one of 44 bits. -/
theorem granule_lt : a / 64 < 2 ^ 50 := by
  obtain ⟨pa, -, -, rfl⟩ := h.placed
  rw [paLocal]
  omega

theorem same_granule {i : Nat} (hi : i < n) : (a + i) / 64 = a / 64 := by
  have := h.inGranule
  omega

theorem aperOf_eq : aperOf s md oid o writes = none := by
  obtain ⟨pa, hok, -, -⟩ := h.placed
  unfold aperOf
  generalize translate s md.die md.blk oid o writes md.stash = x at hok
  obtain ⟨x, u⟩ := x
  obtain rfl : x = .ok pa := hok
  rfl

theorem spotOf_eq : spotOf s md oid o writes = some (.at a) := by
  obtain ⟨pa, hok, hl, ha⟩ := h.placed
  unfold spotOf
  generalize translate s md.die md.blk oid o writes md.stash = x at hok
  obtain ⟨x, u⟩ := x
  obtain rfl : x = .ok pa := hok
  simp [hl, ha]

/-- The access touches its bytes at home, and leaves a cached translation at most. -/
theorem plan_eq (hs : s.Unanswered) : ∃ u, SameButXlates s u ∧
    plan s md oid writes (pieces o n) = (.bytes (homeChunks a n), u) := by
  obtain ⟨pa, hok, hl, ha⟩ := h.placed
  have hu := translate_ok hs hok
  refine ⟨_, hu, ?_⟩
  rw [pieces_one h.some_ h.inOffset, plan]
  generalize translate s md.die md.blk oid o writes md.stash = x at hok hu
  obtain ⟨x, u⟩ := x
  obtain rfl : x = .ok pa := hok
  obtain ⟨ds, rfl, -⟩ := hu
  have hl' : State.isLocal { s with dies := ds } pa = true := hl
  simp [plan, chunksAt, hl', ha, homeChunks]

theorem chunkGranules_eq : chunkGranules (homeChunks a n) = [a / 64] := by
  have hsame : (List.range n).map (fun i => (a + i) / 64) = List.replicate n (a / 64) := by
    rw [List.map_congr_left fun i hi => h.same_granule (List.mem_range.1 hi), List.map_const', List.length_range]
  rw [chunkGranules, homeChunks, List.flatMap_map]
  change ((List.range n).flatMap fun i => [(a + i) / 64]).dedup = _
  rw [← List.map_eq_flatMap, hsame, List.replicate_dedup h.some_.ne']

/-- The tag check of an access at home is that of its granule (R173). -/
theorem plainTags_passes {u : State} {t : Racer} {store : Bool} {nt : W32} (ht : md.plain = some t)
    (hc : tagCheck t (getTag u.accTags (a / 64)) store = some nt) :
    plainTags u md store (homeChunks a n) = (some [(a / 64, nt)], 0, 0) := by
  rw [plainTags, ht]
  simp [h.chunkGranules_eq, tagsFor, hc]

theorem plainTags_races {u : State} {t : Racer} {store : Bool} (ht : md.plain = some t)
    (hc : tagCheck t (getTag u.accTags (a / 64)) store = none) :
    plainTags u md store (homeChunks a n) = (none, getTag u.accTags (a / 64), a / 64) := by
  rw [plainTags, ht]
  simp [h.chunkGranules_eq, tagsFor, hc]

end AtHome

theorem getTag_setTag_same (l : List (Nat × W32)) (g : Nat) (t : W32) : getTag (setTag l g t) g = t := by
  unfold getTag setTag
  split
  · next ht => rw [lookD_del_same, ht]
  · exact lookD_putAsc_same _ _ _ _

/-! Reading at home (R166). -/

theorem memReadN_eq_map (m : List Host.Cell) (a n : Nat) : memReadN m a n = (List.range n).map fun i => memRead m (a + i) := by
  induction n generalizing a with
  | zero => rfl
  | succ n ih =>
    rw [memReadN, ih, List.range_succ_eq_map, List.map_cons, List.map_map, Nat.add_zero]
    congr 2
    funext i
    simp [Nat.add_comm 1 i, Nat.add_assoc]

/-- Bytes of this module are read at once: nothing of them lies elsewhere. -/
theorem needChunks_home (s : State) (md : Mode) (a n : Nat) : needChunks s md (homeChunks a n) = s := by
  induction n generalizing a with
  | zero => rfl
  | succ n ih =>
    rw [homeChunks_succ]
    exact ih _

/-- A load through the L1 without a line buffer sees the lines of its tile. -/
theorem heldLine_l1 {md : Mode} (s : State) (hl1 : md.l1 = true) (hbuf : md.buf = []) (line : Nat) :
    heldLine s md line = ((s.die md.die).line md.blk line).map (·.data) := by
  simp [heldLine, hl1, hbuf, look]

/-- Bytes of one line that is held come from it, and nothing changes. -/
theorem readChunks_held {s : State} {md : Mode} {g : Nat} {l : LineData} (hl : heldLine s md g = some l) {is : List Nat} {a : Nat}
    (his : ∀ i ∈ is, (a + i) / 64 = g) :
    readChunks s md (is.map fun i => .at (a + i)) = (is.map fun i => l.bytes.getD ((a + i) % 64) 0, s) := by
  induction is with
  | nil => rfl
  | cons i is ih =>
    have hread : readChunk s md (.at (a + i)) = (l.bytes.getD ((a + i) % 64) 0, s) := by
      simp only [readChunk, Chunk.line, his i List.mem_cons_self, hl]
    simp only [List.map_cons, readChunks, hread, ih fun j hj => his j (List.mem_cons_of_mem _ hj)]

/-- A line just filled is in its tile's L1 as its home holds it. -/
theorem line_fillLine {s : State} {d blk line : Nat} (hd : d < s.dies.length) (hnone : (s.die d).line blk line = none) :
    ((fillLine s d blk line).die d).line blk line = some ⟨blk, line, lineData s line⟩ := by
  have hold : ∀ x ∈ (s.die d).lines, ¬ (x.blk == blk && x.line == line) = true := by
    rwa [Die.line, List.find?_eq_none] at hnone
  rw [fillLine, State.die_updDie_same hd, Die.line]
  dsimp only
  rw [List.find?_append, List.find?_eq_none.2, Option.none_or, List.find?_cons_of_pos (by simp)]
  intro x hx
  refine hold x ?_
  split at hx
  · exact hx
  · split at hx
    · exact List.mem_of_mem_filter hx
    · exact hx

/-- Bytes of a line that is not held come from memory, and the line is filled. -/
theorem readChunks_miss {s : State} {md : Mode} {a n : Nat} (hl1 : md.l1 = true) (hbuf : md.buf = []) (hd : md.die < s.dies.length)
    (hn : 0 < n) (hin : a % 64 + n ≤ 64) (hlt : a / 64 < 2 ^ 50) (hnone : (s.die md.die).line md.blk (a / 64) = none) :
    readChunks s md (homeChunks a n) = (memReadN s.mem a n, fillLine s md.die md.blk (a / 64)) := by
  obtain ⟨n, rfl⟩ := Nat.exists_eq_succ_of_ne_zero hn.ne'
  have hmiss : heldLine s md (a / 64) = none := by rw [heldLine_l1 s hl1 hbuf, hnone]; rfl
  have hfill : heldLine (fillLine s md.die md.blk (a / 64)) md (a / 64) = some (lineData s (a / 64)) := by
    rw [heldLine_l1 _ hl1 hbuf, line_fillLine hd hnone]
    rfl
  have hread : readChunk s md (.at a) = (memRead s.mem a, fillLine s md.die md.blk (a / 64)) := by
    simp only [readChunk, Chunk.line, hmiss, hl1, if_true]
  have hrest := readChunks_held hfill (is := List.range n) (a := a + 1) fun i hi => by
    have := List.mem_range.1 hi
    omega
  rw [homeChunks_succ, readChunks, hread]
  dsimp only
  rw [homeChunks, hrest, memReadN, memReadN_eq_map]
  dsimp only
  congr 2
  refine List.map_congr_left fun i hi => ?_
  have hi := List.mem_range.1 hi
  have hmod : 64 * (a / 64) + (a + 1 + i) % 64 = a + 1 + i := by omega
  rw [lineData, if_pos hlt, memReadN_eq_map]
  simp [List.getD_eq_getElem?_getD, Nat.mod_lt, hmod]

/-! Writing at home (R166). -/

/-- Requests, focus and the traffic with other modules are the same. -/
structure SameRequests (s t : State) : Prop where
  reqs : t.reqs = s.reqs
  asks : t.asks = s.asks
  words : t.words = s.words
  wants : t.wants = s.wants
  puts : t.puts = s.puts
  focus : t.focus = s.focus

theorem SameRequests.trans {s t u : State} (h : SameRequests s t) (k : SameRequests t u) : SameRequests s u :=
  ⟨k.reqs.trans h.reqs, k.asks.trans h.asks, k.words.trans h.words, k.wants.trans h.wants,
    k.puts.trans h.puts, k.focus.trans h.focus⟩

theorem SameButMemory.requests {s t : State} (h : SameButMemory s t) : SameRequests s t :=
  ⟨h.reqs, h.asks, h.words, h.wants, h.puts, h.focus⟩

/-- A byte written at home leaves requests, traffic and access tags alone. -/
theorem writeChunk_home_same (s : State) (md : Mode) (a : Nat) (b : Byte) :
    SameRequests s (writeChunk s md (.at a) b) ∧ (writeChunk s md (.at a) b).accTags = s.accTags := by
  let u := if md.keepTags then { s with mem := memWrite s.mem a b } else clearTags { s with mem := memWrite s.mem a b } a 1
  have hu : SameButMemory s u := by
    dsimp only [u]
    split <;> exact ⟨rfl, fun _ => rfl, rfl, rfl, rfl, rfl, rfl, rfl, rfl, rfl, rfl, rfl, rfl, rfl, rfl, rfl, rfl⟩
  have hw := wake_same hu (a / 64)
  let v := if md.l1 then updLine (wake u (a / 64)) md.die md.blk (a / 64) fun l => l.setByte a b md.keepTags else wake u (a / 64)
  change SameRequests s v ∧ v.accTags = s.accTags
  dsimp only [v]
  split
  · exact ⟨hw.requests.trans ⟨rfl, rfl, rfl, rfl, rfl, rfl⟩, hw.accTags⟩
  · exact ⟨hw.requests, hw.accTags⟩

/-- Bytes written at home. -/
theorem writeChunks_home (s : State) (md : Mode) (a : Nat) (bs : List Byte) :
    SameRequests s (writeChunks s md (homeChunks a bs.length) bs) ∧
      (writeChunks s md (homeChunks a bs.length) bs).accTags = s.accTags ∧
      (writeChunks s md (homeChunks a bs.length) bs).mem = memWriteN s.mem a bs := by
  induction bs generalizing s a with
  | nil => exact ⟨⟨rfl, rfl, rfl, rfl, rfl, rfl⟩, rfl, rfl⟩
  | cons b bs ih =>
    rw [List.length_cons, homeChunks_succ, writeChunks]
    obtain ⟨hbyte, hbtags⟩ := writeChunk_home_same s md a b
    obtain ⟨hsame, htags, hmem⟩ := ih (writeChunk s md (.at a) b) (a + 1)
    exact ⟨hbyte.trans hsame, htags.trans hbtags, by rw [hmem, writeChunk_mem, memWriteN]⟩

theorem getElem_natLe (n x i : Nat) (hi : i < (natLe n x).length) : (natLe n x)[i] = BitVec.ofNat 8 (x / 256 ^ i) := by
  induction n generalizing x i with
  | zero => simp at hi
  | succ n ih =>
    cases i with
    | zero => simp [natLe]
    | succ i =>
      simp only [natLe, List.getElem_cons_succ]
      rw [ih, Nat.div_div_eq_div_mul, Nat.pow_succ']

/-- A byte of memory after the bytes of a number are written. -/
theorem memRead_memWriteN_natLe {m : List Host.Cell} (hm : Memory.wf m = true) (a n v x : Nat) :
    memRead (memWriteN m a (natLe n v)) x = if a ≤ x ∧ x < a + n then BitVec.ofNat 8 (v / 256 ^ (x - a)) else memRead m x := by
  split
  · next hx =>
    obtain ⟨i, rfl⟩ := Nat.exists_eq_add_of_le hx.1
    have hi : i < (natLe n v).length := by simpa using hx.2
    rw [memRead_memWriteN_in hm _ _ _ hi, getElem_natLe, Nat.add_sub_cancel_left]
  · next hx => exact memRead_memWriteN_other _ _ _ _ (by rw [natLe_length]; omega)

/-! Performing a plain request at home (R164, R166, R173). -/

theorem SameButXlates.requests {s t : State} (h : SameButXlates s t) : SameRequests s t := by
  obtain ⟨ds, rfl, -⟩ := h
  exact ⟨rfl, rfl, rfl, rfl, rfl, rfl⟩

theorem SameButXlates.mem {s t : State} (h : SameButXlates s t) : t.mem = s.mem := by
  obtain ⟨ds, rfl, -⟩ := h
  rfl

theorem SameButXlates.accTags {s t : State} (h : SameButXlates s t) : t.accTags = s.accTags := by
  obtain ⟨ds, rfl, -⟩ := h
  rfl

theorem SameButXlates.faults {s t : State} (h : SameButXlates s t) (d : Nat) : (t.die d).faults = (s.die d).faults := by
  obtain ⟨ds, rfl, -, hds⟩ := h
  obtain ⟨l, hl⟩ := hds d
  change (ds.getD d .reset).faults = _
  rw [hl]

theorem awaitWrites_mem (n : Nat) (s : State) : (awaitWrites n s).mem = s.mem := by
  unfold awaitWrites
  split <;> rfl

namespace RequestReady

variable {s : State} {q : Req} (h : RequestReady s q)
include h

theorem exec_eq : exec .memoryTileRequest s = .next (awaitWrites q.id (settle s (performReq s q))) := by
  change execMemoryTileRequest s = _
  simp [execMemoryTileRequest, h.found, h.queued, h.later, h.released, h.turn]

theorem id_eq : q.id = s.focus.id := by
  simpa using List.find?_some h.found

/-- What a request does to memory is what its performing does. -/
theorem exec_mem (hp : (performReq s q).mem = s.mem) : ∃ t, exec .memoryTileRequest s = .next t ∧ t.mem = s.mem :=
  ⟨_, h.exec_eq, (awaitWrites_mem _ _).trans (settle_mem hp)⟩

/-- A request that is performed without traffic stands performed after its step. -/
theorem performs {u : State} {f : Req → Req} (hu : SameRequests s u) (hf : (f { q with stage := .performed }).id = q.id)
    (hp : performReq s q = performed u q f) : ∃ t, exec .memoryTileRequest s = .next t ∧ t.mem = u.mem ∧ t.accTags = u.accTags ∧
      t.req q.id = some (f { q with stage := .performed }) := by
  have hsettle : settle s (performed u q f) = performed u q f :=
    h.alone.settle_eq hu.focus hu.asks hu.words hu.wants hu.puts
  have hawait : awaitWrites q.id (performed u q f) = performed u q f := by
    refine if_neg ?_
    change ¬ u.asks.any (·.who == u.focus) = true
    rw [hu.asks, hu.focus]
    exact Bool.not_eq_true _ ▸ h.alone.asked
  refine ⟨performed u q f, by rw [h.exec_eq, hp, hsettle, hawait], rfl, rfl, ?_⟩
  have hfound : u.reqs.find? (·.id == q.id) = some q := by
    rw [hu.reqs, h.id_eq]
    exact h.found
  exact find?_map_update hfound (f := fun x => f { x with stage := .performed }) (by simp [hf])

end RequestReady

/-- A request at home is an access at home. -/
theorem Req.homeAt.atHome {s : State} {q : Req} {writes : Bool} {n a : Nat} (h : q.homeAt s writes n a) :
    AtHome s (q.mode s) q.cap.oid q.ofs n a writes := by
  obtain ⟨hn, ho, ha, -, hpa⟩ := h
  exact ⟨hn, ho, ha, hpa⟩

theorem Req.mode_plain (s : State) {q : Req} (h : q.scout = false) : (q.mode s).plain = some (s.racer (q.seq s)) := by
  simp [Req.mode, h]

/-! Plain stores. -/

theorem AtHome.storeAt_eq {s : State} {md : Mode} {oid o a : Nat} {bs : List Byte} (h : AtHome s md oid o bs.length a true)
    (hs : s.Unanswered) (special : Bool) : ∃ u, SameButXlates s u ∧
      storeAt s md oid o bs special = storeChunks u md o (homeChunks a bs.length) bs := by
  obtain ⟨u, hu, hplan⟩ := h.plan_eq hs
  refine ⟨u, hu, ?_⟩
  rw [storeAt, h.aperOf_eq]
  dsimp only
  rw [hplan]

/-- A plain store that passes its tag check is performed: its bytes and its granule's tag are written. -/
theorem performStore_passes {s : State} {q : Req} {a : Nat} {nt : W32} (hs : s.Unanswered) (h : q.homeAt s true q.size a)
    (hq : q.scout = false) (hc : tagCheck (s.racer (q.seq s)) (getTag s.accTags (a / 64)) true = some nt) :
    ∃ u, SameRequests s u ∧ u.mem = memWriteN s.mem a (natLe q.size q.data.toNat) ∧ u.accTags = setTag s.accTags (a / 64) nt ∧
      performStore s q = performed u q id := by
  generalize hbs : natLe q.size q.data.toNat = bs
  have hlen : bs.length = q.size := by rw [← hbs, natLe_length]
  have hat := h.atHome
  rw [← hlen] at hat
  obtain ⟨u, hu, hstore⟩ := hat.storeAt_eq hs false
  rw [← hu.accTags] at hc
  obtain ⟨hsame, htags, hmem⟩ := writeChunks_home (applyTags u [(a / 64, nt)]) (q.mode s) a bs
  have hchecked : SameRequests u (applyTags u [(a / 64, nt)]) := ⟨rfl, rfl, rfl, rfl, rfl, rfl⟩
  refine ⟨_, (hu.requests.trans hchecked).trans hsame, hmem.trans ?_, htags.trans ?_, ?_⟩
  · exact congrArg (memWriteN · a bs) hu.mem
  · exact congrArg (setTag · (a / 64) nt) hu.accTags
  · rw [performStore, hbs, hstore, storeChunks, hat.plainTags_passes (Req.mode_plain s hq) hc]

/-- A plain store that fails its tag check is a RACE. -/
theorem performStore_races {s : State} {q : Req} {a : Nat} (hs : s.Unanswered) (h : q.homeAt s true q.size a)
    (hq : q.scout = false) (hc : tagCheck (s.racer (q.seq s)) (getTag s.accTags (a / 64)) true = none) :
    ∃ u o tag, SameButXlates s u ∧ performStore s q = reqFault u q fcRace o tag := by
  generalize hbs : natLe q.size q.data.toNat = bs
  have hlen : bs.length = q.size := by rw [← hbs, natLe_length]
  have hat := h.atHome
  rw [← hlen] at hat
  obtain ⟨u, hu, hstore⟩ := hat.storeAt_eq hs false
  rw [← hu.accTags] at hc
  refine ⟨u, q.ofs + firstIn (a / 64) (homeChunks a bs.length), getTag u.accTags (a / 64), hu, ?_⟩
  rw [performStore, hbs, hstore, storeChunks, hat.plainTags_races (Req.mode_plain s hq) hc]

/-- A RACE changes no byte, where its record rings no doorbell. -/
theorem reqFault_race_mem {s : State} {q : Req} (hd : ∀ d, (s.die d).faults.fqdb.getLsbD 0 = false) (o : Nat) (tag : W32) :
    (reqFault s q fcRace o tag).mem = s.mem := by
  unfold reqFault
  split
  · rfl
  · split
    · rfl
    · exact post_mem (hd _) _ _ _ _ _

theorem plainStoresWriteTheirBytes : Claims.PlainStoresWriteTheirBytes := by
  intro s q a hm hr hk h
  have hperform : performReq s q = performStore s q := by rw [performReq, hk]
  refine ⟨fun hq nt hc => ?_, fun hq hc hd => ?_⟩
  · obtain ⟨u, hu, humem, hutags, hp⟩ := performStore_passes hr.alone.unanswered h hq hc
    obtain ⟨t, ht, hmem, htags, hreq⟩ := hr.performs hu rfl (hperform.trans hp)
    refine ⟨t, ht, ?_, hreq, fun x => ?_⟩
    · rw [htags, hutags, getTag_setTag_same]
    · rw [hmem, humem, memRead_memWriteN_natLe hm]
  · obtain ⟨u, o, tag, hu, hp⟩ := performStore_races hr.alone.unanswered h hq hc
    refine hr.exec_mem ?_
    rw [hperform, hp, reqFault_race_mem fun d => by rw [hu.faults, hd], hu.mem]

/-! Plain loads. -/

/-- Counting a hit or a miss changes the counts of one die. -/
theorem die_countHit_same {s : State} {d : Nat} (hd : d < s.dies.length) (blk : Nat) (hit : Bool) :
    ∃ hs ms, (countHit s d blk hit).die d = { s.die d with hits := hs, misses := ms } := by
  rw [countHit, State.die_updDie_same hd]
  split
  · exact ⟨put (s.die d).hits blk (lookD (s.die d).hits blk 0 + 1), (s.die d).misses, rfl⟩
  · exact ⟨(s.die d).hits, put (s.die d).misses blk (lookD (s.die d).misses blk 0 + 1), rfl⟩

/-- What the start of a load leaves alone: requests, memory with its tags and errors, and the L1 lines of die d. -/
structure SameContents (s t : State) (d : Nat) : Prop where
  requests : SameRequests s t
  mem : t.mem = s.mem
  accTags : t.accTags = s.accTags
  bad : t.bad = s.bad
  dies : t.dies.length = s.dies.length
  lines : (t.die d).lines = (s.die d).lines

theorem SameContents.trans {s t u : State} {d : Nat} (h : SameContents s t d) (k : SameContents t u d) : SameContents s u d :=
  ⟨h.requests.trans k.requests, k.mem.trans h.mem, k.accTags.trans h.accTags, k.bad.trans h.bad, k.dies.trans h.dies,
    k.lines.trans h.lines⟩

theorem SameContents.line {s t : State} {d : Nat} (h : SameContents s t d) (blk line : Nat) :
    (t.die d).line blk line = (s.die d).line blk line := by
  rw [Die.line, Die.line, h.lines]

theorem SameButXlates.contents {s t : State} (h : SameButXlates s t) (d : Nat) : SameContents s t d := by
  obtain ⟨ds, rfl, hlen, hds⟩ := h
  obtain ⟨l, hl⟩ := hds d
  refine ⟨⟨rfl, rfl, rfl, rfl, rfl, rfl⟩, rfl, rfl, rfl, hlen, ?_⟩
  change (ds.getD d .reset).lines = _
  rw [hl]

theorem countHit_contents {s : State} {d : Nat} (hd : d < s.dies.length) (blk : Nat) (hit : Bool) :
    SameContents s (countHit s d blk hit) d := by
  obtain ⟨hs, ms, hdie⟩ := die_countHit_same hd blk hit
  exact ⟨⟨rfl, rfl, rfl, rfl, rfl, rfl⟩, rfl, rfl, rfl, length_modNth _ _ _, by rw [hdie]⟩

namespace AtHome

variable {s : State} {md : Mode} {oid o n a : Nat} (h : AtHome s md oid o n a false)
include h

/-- Counting a hit or a miss moves no access. -/
theorem countHit_atHome (hd : md.die < s.dies.length) (hit : Bool) : AtHome (countHit s md.die md.blk hit) md oid o n a false := by
  obtain ⟨pa, hok, hl, ha⟩ := h.placed
  obtain ⟨hs, ms, hdie⟩ := die_countHit_same hd md.blk hit
  refine ⟨h.some_, h.inOffset, h.inGranule, pa, ?_, hl, ha⟩
  rw [← hok]
  refine translate_withDies s (countHit s md.die md.blk hit).dies ?_ _ _ _ _ _
  change ((countHit s md.die md.blk hit).die md.die).xlates = _
  rw [hdie]

/-- A load at home reads its bytes at home, with a hit or a miss counted. -/
theorem loadAt_eq (hs : s.Unanswered) (hd : md.die < s.dies.length) : ∃ u, SameContents s u md.die ∧
    loadAt (countLine s md oid o) md oid o n false = loadChunks u md o (homeChunks a n) := by
  have hcount : countLine s md oid o = countHit s md.die md.blk (heldLine s md (a / 64)).isSome := by
    rw [countLine, h.spotOf_eq]
    rfl
  have hc := h.countHit_atHome hd (heldLine s md (a / 64)).isSome
  have hcs : (countHit s md.die md.blk (heldLine s md (a / 64)).isSome).Unanswered := ⟨hs.told, hs.puts⟩
  obtain ⟨u, hu, hplan⟩ := hc.plan_eq hcs
  refine ⟨u, (countHit_contents hd _ _).trans (hu.contents _), ?_⟩
  rw [hcount, loadAt, hc.aperOf_eq]
  dsimp only
  rw [hplan]

/-- Whether the bytes reach home is whether their line is held. -/
theorem reachesHome_eq (u : State) {c : Chunk} (hc : c ∈ homeChunks a n) : reachesHome u md c = (heldLine u md (a / 64)).isNone := by
  obtain ⟨i, hi, rfl⟩ := List.mem_map.1 hc
  rw [← h.same_granule (List.mem_range.1 hi)]
  rfl

theorem no_chunkFails {u : State} (hbad : a / 64 ∉ u.bad) :
    ((homeChunks a n).findIdx? fun c => reachesHome u md c && chunkFails u c) = none := by
  rw [List.findIdx?_eq_none_iff]
  intro c hc
  obtain ⟨i, hi, rfl⟩ := List.mem_map.1 hc
  simp [chunkFails, h.same_granule (List.mem_range.1 hi), hbad]

/-- A load that misses is checked as its granule's tag says, takes its bytes from memory, and fills the line. -/
theorem loadChunks_miss {u : State} {t : Racer} {nt : W32} (hl1 : md.l1 = true) (hbuf : md.buf = []) (ht : md.plain = some t)
    (hd : md.die < u.dies.length) (hbad : a / 64 ∉ u.bad) (hnone : (u.die md.die).line md.blk (a / 64) = none)
    (hc : tagCheck t (getTag u.accTags (a / 64)) false = some nt) :
    loadChunks u md o (homeChunks a n) =
      .ok (memReadN u.mem a n) (fillLine (applyTags u [(a / 64, nt)]) md.die md.blk (a / 64)) := by
  have hmiss : heldLine u md (a / 64) = none := by rw [heldLine_l1 u hl1 hbuf, hnone]; rfl
  have hall : (homeChunks a n).filter (reachesHome u md) = homeChunks a n :=
    List.filter_eq_self.2 fun c hc => by rw [h.reachesHome_eq u hc, hmiss]; rfl
  have hread := readChunks_miss (s := applyTags u [(a / 64, nt)]) hl1 hbuf hd h.some_ h.inGranule h.granule_lt hnone
  rw [loadChunks, needChunks_home]
  dsimp only
  rw [h.no_chunkFails hbad, hall, h.plainTags_passes ht hc]
  dsimp only
  rw [hread]
  rfl

/-- A load that hits takes its bytes from the line, and makes no tag check. -/
theorem loadChunks_hit {u : State} {l : Line} (hl1 : md.l1 = true) (hbuf : md.buf = []) {t : Racer} (ht : md.plain = some t)
    (hbad : a / 64 ∉ u.bad) (hl : (u.die md.die).line md.blk (a / 64) = some l) :
    loadChunks u md o (homeChunks a n) = .ok ((List.range n).map fun i => l.data.bytes.getD ((a + i) % 64) 0) u := by
  have hheld : heldLine u md (a / 64) = some l.data := by rw [heldLine_l1 u hl1 hbuf, hl]; rfl
  have hnone : (homeChunks a n).filter (reachesHome u md) = [] :=
    List.filter_eq_nil_iff.2 fun c hc => by rw [h.reachesHome_eq u hc, hheld]; simp
  have hread := readChunks_held (is := List.range n) (a := a) hheld fun i hi => h.same_granule (List.mem_range.1 hi)
  have hchecks : plainTags u md false [] = (some [], 0, 0) := by
    rw [plainTags, ht]
    rfl
  rw [loadChunks, needChunks_home]
  dsimp only
  rw [h.no_chunkFails hbad, hnone, hchecks]
  dsimp only
  rw [homeChunks, show applyTags u [] = u from rfl, hread]

end AtHome

theorem performLoad_of_ok {s u : State} {q : Req} {bs : List Byte}
    (h : loadAt (countLine s (q.mode s) q.cap.oid q.ofs) (q.mode s) q.cap.oid q.ofs q.size false = .ok bs u) :
    performLoad s q = performed u q fun x => { x with value := extendTy q.ty (leNat bs) } := by
  rw [performLoad, h]

theorem plainLoadsReadTheirBytes : Claims.PlainLoadsReadTheirBytes := by
  intro s q a hr hk h hq hbuf hd answers
  have hat := h.atHome
  obtain ⟨-, -, -, hbad, -⟩ := h
  have hplain := Req.mode_plain s hq
  have hperform : performReq s q = performLoad s q := by rw [performReq, hk]
  obtain ⟨u, hu, hload⟩ := hat.loadAt_eq hr.alone.unanswered hd
  rw [← hu.bad] at hbad
  refine ⟨fun hnone nt hc => ?_, fun l hl => ?_⟩
  · rw [← hu.accTags] at hc
    have hnone := (hu.line _ _).trans hnone
    rw [hat.loadChunks_miss rfl hbuf hplain (hu.dies ▸ hd) hbad hnone hc] at hload
    have hfilled : SameRequests u (fillLine (applyTags u [(a / 64, nt)]) (q.mode s).die (q.mode s).blk (a / 64)) :=
      ⟨rfl, rfl, rfl, rfl, rfl, rfl⟩
    obtain ⟨t, ht, hmem, htags, hreq⟩ :=
      hr.performs (hu.requests.trans hfilled) rfl (hperform.trans (performLoad_of_ok hload))
    refine ⟨t, ht, hmem.trans hu.mem, ?_, by rw [hreq, hu.mem]⟩
    rw [htags]
    exact getTag_setTag_same _ _ _
  · have hl := (hu.line _ _).trans hl
    rw [hat.loadChunks_hit rfl hbuf hplain hbad hl] at hload
    obtain ⟨t, ht, hmem, htags, hreq⟩ := hr.performs hu.requests rfl (hperform.trans (performLoad_of_ok hload))
    exact ⟨t, ht, hmem.trans hu.mem, by rw [htags, hu.accTags], hreq⟩

/-- Settles O14: a plain access at home is planned as the bytes of one granule of this module; a store writes them behind the check of
its granule's tag, and a load takes them from the line that its tile holds, or behind that check from memory. -/
theorem plainAccessesMoveTheirBytes : Obligations.PlainAccessesMoveTheirBytes :=
  ⟨plainStoresWriteTheirBytes, plainLoadsReadTheirBytes⟩

end Sys2Proof.Machine
end

section
/-! SUPPORT. Encoding and decoding: what each format's word holds, and the step in an encoded word before its own fields are judged. -/

namespace Sys2Proof.Machine

/-! Fields of a concatenation (R5). Both are laws of the library, stated for words whose width is written as one number too: simp finds
them by the extraction alone. -/

@[simp] theorem extractLsb'_append_high {v w lo len : Nat} (x : BitVec v) (y : BitVec w) (h : w ≤ lo) :
    BitVec.extractLsb' lo len (no_index (x ++ y)) = x.extractLsb' (lo - w) len :=
  BitVec.extractLsb'_append_eq_of_le h

@[simp] theorem extractLsb'_append_low {v w lo len : Nat} (x : BitVec v) (y : BitVec w) (h : lo + len ≤ w) :
    BitVec.extractLsb' lo len (no_index (x ++ y)) = y.extractLsb' lo len :=
  BitVec.extractLsb'_append_eq_of_add_le h

/-! Words of the controller, by their format (Table 8.11). -/

/-- The opcode of a controller instruction stands above its body. -/
theorem encCtl_fields {op : Nat} {body : BitVec 56} {e : Encoded} (he : encCtl op body = some e) : ∃ w, e = .ctl w ∧
    (w.extractLsb' 56 8).toNat = op % 2 ^ 8 ∧ ∀ lo len, lo + len ≤ 56 → w.extractLsb' lo len = body.extractLsb' lo len := by
  obtain rfl := Option.some.inj he
  exact ⟨_, rfl, by simp, fun _ _ => extractLsb'_append_low _ _⟩

theorem encK_fields {op : Nat} {k : FmtK} {e : Encoded} (he : encK op k = some e) :
    ∃ w, e = .ctl w ∧ (w.extractLsb' 56 8).toNat = op % 2 ^ 8 ∧ fmtK w = some k := by
  obtain ⟨w, rfl, hop, hbody⟩ := encCtl_fields he
  exact ⟨w, rfl, hop, by simp [fmtK, hbody]⟩

theorem encR_fields {op : Nat} {r : FmtR} {e : Encoded} (he : encR op r = some e) :
    ∃ w, e = .ctl w ∧ (w.extractLsb' 56 8).toNat = op % 2 ^ 8 ∧ fmtR w = some r := by
  obtain ⟨w, rfl, hop, hbody⟩ := encCtl_fields he
  exact ⟨w, rfl, hop, by simp [fmtR, hbody]⟩

theorem encG_fields {op sub : Nat} {g : FmtG} {e : Encoded} (he : encG op sub g = some e) :
    ∃ w, e = .ctl w ∧ (w.extractLsb' 56 8).toNat = op % 2 ^ 8 ∧ (w.extractLsb' 40 3).toNat = sub % 2 ^ 3 ∧ fmtG w = g := by
  obtain ⟨w, rfl, hop, hbody⟩ := encCtl_fields he
  refine ⟨w, rfl, hop, ?_, ?_⟩ <;> simp [fmtG, hbody]

theorem encB_fields {op : Nat} {b : FmtB} {e : Encoded} (he : encB op b = some e) :
    ∃ w, e = .ctl w ∧ (w.extractLsb' 56 8).toNat = op % 2 ^ 8 ∧ fmtB w = some b := by
  obtain ⟨w, rfl, hop, hbody⟩ := encCtl_fields he
  exact ⟨w, rfl, hop, by simp [fmtB, hbody]⟩

theorem encJ_fields {op reorder : Nat} {j : FmtJ} {e : Encoded} (he : encJ op reorder j = some e) : ∃ w, e = .ctl w ∧
    (w.extractLsb' 56 8).toNat = op % 2 ^ 8 ∧ w.extractLsb' 37 1 = BitVec.ofNat 1 reorder ∧ fmtJ w = some j := by
  obtain ⟨w, rfl, hop, hbody⟩ := encCtl_fields he
  refine ⟨w, rfl, hop, ?_, ?_⟩ <;> simp [fmtJ, hbody]

theorem encT_fields {code : BitVec 16} {e : Encoded} (he : encT code = some e) :
    ∃ w, e = .ctl w ∧ (w.extractLsb' 56 8).toNat = 0x30 ∧ w.extractLsb' 16 40 = 0 ∧ w.extractLsb' 0 16 = code := by
  obtain ⟨w, rfl, hop, hbody⟩ := encCtl_fields he
  refine ⟨w, rfl, hop, ?_, ?_⟩ <;> simp [hbody]

/-! Words of cells and islands (Tables 8.4 and 8.13). -/

/-- The step in an encoded word, before its own fields are judged. -/
def rawOf : Encoded → Option Instr
  | .cfg w => rawCfg w
  | .ctl w => rawCtl w
  | .op w => cellStep (w.extractLsb' 31 9).toNat (modsOf w)
  | .eng w0 w1 => rawEng ⟨w0, w1⟩

/-- An encoded word decodes to a well-formed step that it holds. -/
theorem decode_of_rawOf {e : Encoded} {i : Instr} (h : rawOf e = some i) (hwf : i.wf = true) : decode e = some i := by
  have hraw : decode e = checked (rawOf e) := by cases e <;> rfl
  rw [hraw, h, checked, if_pos hwf]

/-- An operation word holds the operation of its opcode, with its own fields. -/
theorem rawOf_encOp {opc : Nat} {m : Mods} {e : Encoded} (he : encOp opc m = some e) : rawOf e = cellStep (opc % 2 ^ 9) m := by
  obtain rfl := Option.some.inj he
  simp [rawOf, modsOf]

/-- The FORM of a well-formed ATOM (R98, R179). -/
theorem modF_of_atomForm {m : Mods} {f : Nat} (h : m.atomForm f = true) : m.modF 0 4 = f := by
  simp only [Mods.atomForm, Bool.and_eq_true, beq_iff_eq] at h
  exact h.2

/-- An island command is its two words. -/
theorem rawOf_eng {w : EngWords} {e : Encoded} (he : some (Encoded.eng w.w0 w.w1) = some e) : rawOf e = rawEng w := by
  obtain rfl := Option.some.inj he
  rfl

/-! Configuration commands (Tables 1.1 and 8.1). -/

/-- WRITE and EXTEND have the top two bits as their opcode; the two bits below, which the other commands count to it, are theirs. -/
theorem cfgOpcode_div_four (w : W32) : (w.extractLsb' 28 4).toNat / 4 = (w.extractLsb' 30 2).toNat := by
  simp only [BitVec.extractLsb'_toNat, Nat.shiftRight_eq_div_pow]
  omega

theorem rawCfg_write {w : W32} (h : w.extractLsb' 30 2 = 0#2) :
    rawCfg w = some (.write (w.extractLsb' 16 14) (w.extractLsb' 10 6) (w.extractLsb' 0 10)) := by
  have hop : (w.extractLsb' 28 4).toNat / 4 = 0 := (cfgOpcode_div_four w).trans (congrArg _ h)
  rw [rawCfg]
  generalize (w.extractLsb' 28 4).toNat = n at hop
  have hhi : n < 4 := by omega
  interval_cases n <;> rfl

theorem rawCfg_extend {w : W32} (h : w.extractLsb' 30 2 = 1#2) : rawCfg w = some (.extend (w.extractLsb' 0 30)) := by
  have hop : (w.extractLsb' 28 4).toNat / 4 = 1 := (cfgOpcode_div_four w).trans (congrArg _ h)
  rw [rawCfg]
  generalize (w.extractLsb' 28 4).toNat = n at hop
  obtain ⟨hlo, hhi⟩ : 4 ≤ n ∧ n < 8 := by omega
  interval_cases n <;> rfl

/-! The encoder, format by format. -/

/-- The word of a well-formed step holds that step. -/
theorem rawOf_encode {i : Instr} (hwf : i.wf = true) {e : Encoded} (he : encode i = some e) : rawOf e = some i := by
  cases i with
  | write c f v =>
    obtain rfl := Option.some.inj he
    refine (rawCfg_write ?_).trans ?_ <;> simp
  | extend v =>
    obtain rfl := Option.some.inj he
    refine (rawCfg_extend ?_).trans ?_ <;> simp
  | selectBase b | selectRepeat s n | selectBmask a b c d | token k c p v | start c p | cfgEnd =>
    obtain rfl := Option.some.inj he
    simp [rawOf, rawCfg]
  | cfg k | pcfg k =>
    obtain ⟨w, rfl, hop, hk⟩ := encK_fields he
    simp [rawOf, rawCtl, hop, hk]
  | run r =>
    obtain ⟨w, rfl, hop, hr⟩ := encR_fields he
    simp [rawOf, rawCtl, hop, hr]
  | belay | ret | yieldOp | eret | halt =>
    obtain ⟨w, rfl, hop, hbody⟩ := encCtl_fields he
    simp [rawOf, rawCtl, fmtN, hop, hbody]
  | waitc g | spawn g | grpl g | setstageDecl g | setstageEnter g | setqIn g | setqOut g | saveW g | saveIs g | rstrW g
  | rstrIs g | movw g | movwI g | movwR g | addw g | cmpw g | ldw g | stw g | rdst g | wrst g | rdcyc g | setks g | rdfq g =>
    obtain ⟨w, rfl, hop, hsub, hg⟩ := encG_fields he
    simp [rawOf, rawCtl, bySub, hop, hsub, hg]
  | joinReorder j | joinCheck j | unjoin j =>
    obtain ⟨w, rfl, hop, hreorder, hj⟩ := encJ_fields he
    simp [rawOf, rawCtl, hop, hreorder, hj]
  | br b | brc b | loop b | call b =>
    obtain ⟨w, rfl, hop, hb⟩ := encB_fields he
    simp [rawOf, rawCtl, hop, hb]
  | trapCode code | trapService code =>
    obtain ⟨w, rfl, hop, hzero, hcode⟩ := encT_fields he
    simp only [Instr.wf, decide_eq_true_eq] at hwf
    simp [rawOf, rawCtl, hop, hzero, hcode, hwf]
  | add m | sub m | mul m | mulh m | div m | rem m | and m | or m | xor m | not m | shl m | shr m | sar m | rot m | min m
  | max m | cmp m | sel m | clz m | popc m | addc m | subb m | capofs m | capset m | capnar m | caprgt m | captag m | affine m
  | ctr m | fadd m | fsub m | fmul m | fma m | fmin m | fmax m | fcmp m | fabs m | fneg m | rcpa m | rsqa m | exp2a m | log2a m
  | fclass m | cvt m | qnt m | dqnt m | cbload m | hdrset m | steer m | merge m | amerge m | gate m | repeatOp m | drop m
  | take m | zip m | split m | mark m | strip m | voidOp m | dup m | red m | scan m | tld m | tswap m | tdot m | tbcast m
  | tsto m | rnd m | rndkey m | add128 m | alloc m | free m | lds m | sts m | ldg m | stg m | ldl m | stl m | ldfe m | stfe m
  | pref m | ldacq m | strel m | fence m | monw m | waitw m | futnew m | futres m | futreg m | futget m | cellTrap m | brk m
  | ctlw m | sysrd m | syswr m | perf m | mmaEmit m | mmasEmit m | mloadEmit m | mclaimEmit m | mreleaseEmit m | mdrainEmit m
  | normEmit m | copyEmit m | chainEmit m | stashEmit m | restoreEmit m | convEmit m | fprintEmit m | dedupEmit m | xferEmit m =>
    exact rawOf_encOp he
  | atomAdd m | atomMin m | atomMax m | atomAnd m | atomOr m | atomXor m | atomXchg m | atomCas m =>
    simp [rawOf_encOp (opc := 0x189) he, cellStep, modF_of_atomForm hwf]
  | mclaim w | mrelease w | mload w | mloadAccumulate w | mma w | mmas w | mdrain w | norm w | copy w | chain w | stash w
  | restore w | convToCsr w | convFromCsr w | convToC4 w | fprint w | dedup w | xferPut w | xferGet w =>
    simp only [Instr.wf, EngWords.eop, Bool.and_eq_true, beq_iff_eq, bne_iff_ne] at hwf
    simp [rawOf_eng he, rawEng, hwf]
  | _ => cases he

/-- Settles O58: each format's word holds its fields, and the opcode in it leads back to the step. -/
theorem decodingInvertsEncoding : Obligations.DecodingInvertsEncoding :=
  fun _ hwf _ he => decode_of_rawOf (rawOf_encode hwf he) hwf

end Sys2Proof.Machine
end

section
/-! SUPPORT. Word instructions: the turn that goes on at the next instruction, and the bits of st that CMPW and WRST set. -/

namespace Sys2Proof.Machine

/-- An instruction without accesses changes its region and goes on at the next instruction in the next cycle (R201). -/
theorem simpleCtl_at {s : State} {r : Region} (h : Claims.at_ s r) (f : Region → Region → Region) :
    simpleCtl s f = .next (Claims.goes s r (r.pc + 8) 1 (f r)) :=
  ctlTurn_at h _

/-! The bits of st (R200). -/

theorem getLsbD_ite_zero (c : Prop) [Decidable c] (x : W64) (n : Nat) :
    (if c then x else 0).getLsbD n = (decide c && x.getLsbD n) := by
  split <;> simp_all

/-- A mask taken away leaves the other bits. Beyond the word both sides are false, so n needs no bound. -/
theorem getLsbD_and_not (x m : W64) (n : Nat) : (x &&& ~~~m).getLsbD n = (x.getLsbD n && !m.getLsbD n) := by
  rcases Nat.lt_or_ge n 64 with hn | hn
  · simp [hn]
  · simp [BitVec.getLsbD_of_ge x n hn]

/-- The compare bits of st are bits 5, 6 and 7 (Table 13.2). -/
theorem compareSt_eq (st a b : W64) : compareSt st a b =
    (st &&& ~~~(BitVec.twoPow 64 5 ||| BitVec.twoPow 64 6 ||| BitVec.twoPow 64 7)) ||| (if a = b then BitVec.twoPow 64 5 else 0) |||
      (if a.slt b then BitVec.twoPow 64 6 else 0) ||| (if a.ult b then BitVec.twoPow 64 7 else 0) := rfl

/-- CMPW sets the compare bits and keeps the others. -/
theorem getLsbD_compareSt (st a b : W64) (n : Nat) : (compareSt st a b).getLsbD n =
    if n = 5 then a == b else if n = 6 then decide (a.toInt < b.toInt) else if n = 7 then decide (a.toNat < b.toNat)
    else st.getLsbD n := by
  simp only [compareSt_eq, BitVec.getLsbD_or, getLsbD_and_not, getLsbD_ite_zero, BitVec.getLsbD_twoPow, BitVec.slt_eq_decide,
    BitVec.ult_eq_decide, beq_eq_decide]
  by_cases h5 : n = 5
  · subst h5; simp
  by_cases h6 : n = 6
  · subst h6; simp
  by_cases h7 : n = 7
  · subst h7; simp
  · simp [h5, h6, h7, Ne.symm h5, Ne.symm h6, Ne.symm h7]

theorem getLsbD_stWritable (n : Nat) : stWritable.getLsbD n = decide (n < 8) := by
  rw [show stWritable = BitVec.ofNat 64 (2 ^ 8 - 1) from rfl, BitVec.getLsbD_ofNat, Nat.testBit_two_pow_sub_one,
    ← Bool.decide_and, decide_eq_decide]
  omega

/-- WRST writes the low byte and keeps the rest. -/
theorem getLsbD_writeSt (st v : W64) (n : Nat) : (writeSt st v).getLsbD n = if n < 8 then v.getLsbD n else st.getLsbD n := by
  rw [writeSt, BitVec.getLsbD_or, getLsbD_and_not, BitVec.getLsbD_and, getLsbD_stWritable]
  by_cases h : n < 8 <;> simp [h]

/-- Settles O26: each word instruction is one change of its region; CMPW and WRST are told by the bits of st that they set. -/
theorem wordInstructionsWriteTheirRegister : Obligations.WordInstructionsWriteTheirRegister := by
  intro s r g hat a b setsW
  have goes := simpleCtl_at hat
  exact ⟨goes _, goes _, goes _, goes _, goes _, goes _, ⟨fun st => compareSt st a b, fun st => getLsbD_compareSt st a b, goes _⟩,
    ⟨fun st => writeSt st b, fun st => getLsbD_writeSt st b, goes _⟩⟩

end Sys2Proof.Machine
end

section
/-! SUPPORT. Element-wise forms on ready operands: the firing that takes the operands and delivers the form's value or effect. -/

namespace Sys2Proof.Machine

/-! The operands of a form (R106). -/

/-- The operand at a link is its head's payload. -/
def Cx.operand (cx : Cx) (p : Nat) : Option Operand :=
  if cx.isLink p then (cx.head p).map fun k => ⟨k.pay, p, true⟩ else (cx.regOperand p).map fun v => ⟨v, p, false⟩

theorem Cx.operands_eq_mapM (cx : Cx) (ps : List Nat) : cx.operands ps = ps.mapM cx.operand := rfl

/-- An operand knows its port. -/
theorem Cx.port_of_operand {cx : Cx} {p : Nat} {o : Operand} (h : cx.operand p = some o) : o.port = p := by
  unfold Cx.operand at h
  split at h <;> (obtain ⟨_, _, rfl⟩ := Option.map_eq_some_iff.1 h; rfl)

/-- The operands of a form stand in the order of its ports. -/
theorem Cx.map_port_of_operands {cx : Cx} {ps : List Nat} {os : List Operand} (h : cx.operands ps = some os) :
    os.map (·.port) = ps := by
  rw [Cx.operands_eq_mapM] at h
  induction ps generalizing os with
  | nil =>
    obtain rfl : [] = os := by simpa using h
    rfl
  | cons p ps ih =>
    simp only [List.mapM_cons, Option.bind_eq_bind, Option.bind_eq_some_iff, Option.pure_def, Option.some.injEq] at h
    obtain ⟨o, ho, os', hos, rfl⟩ := h
    rw [List.map_cons, Cx.port_of_operand ho, ih hos]

theorem ElemReady.length_eq {cx : Cx} {ps : List Nat} {os : List Operand} (h : ElemReady cx ps os) : os.length = ps.length := by
  rw [← Cx.map_port_of_operands h.operands, List.length_map]

theorem pay_opAt (os : List Operand) (i : Nat) : (opAt os i).pay = opPay os i := by
  rw [opAt, opPay, List.getD_eq_getElem?_getD]
  cases os[i]? <;> rfl

/-! The firing (R23, R106 to R108). -/

section
variable {s : State} {cx : Cx} {ps : List Nat} {os : List Operand} (hr : CellReady s cx) (ho : ElemReady cx ps os)
include hr ho

/-- A form on ready operands performs what it makes of their values. -/
theorem cellTurn_performs {form : Cx → Turn} {hdrOk : Nat → W64 → Bool} {outHdr : W64} {f : List Operand → Fire}
    (hform : form cx = elemTurn cx ps hdrOk outHdr f) :
    cellTurn s cx.m form = .next (applyTurn cx (cx.valueTurn ps (f os))) := by
  rw [cellTurn_ready hr, hform, elemTurn_ready ho]

/-- A form that gives a value of its ready operands delivers it. -/
theorem cellTurn_delivers {form : Cx → Turn} {hdrOk : Nat → W64 → Bool} {outHdr : W64} {f : List Operand → Fire}
    (hform : form cx = elemTurn cx ps hdrOk outHdr f) {v : W64} {fl : FlagBits} (hv : f os = .value v fl) :
    cellTurn s cx.m form = .next (cx.deliver ps v fl) := by
  rw [cellTurn_performs hr ho hform, hv]
  rfl

end

end Sys2Proof.Machine
end

section
/-! SUPPORT. Integer forms: each value of Table 9.1 as the model computes it, and the firing of DIV, ADDC, SUBB and AFFINE. -/

namespace Sys2Proof.Machine

/-! Values (R109). -/

theorem narrow_eq_wrap (m : Mods) (v : Int) : narrow m v = Claims.wrap m v := by
  simp only [narrow, Claims.wrap, beq_iff_eq]
  split <;> rfl

/-- Counting the members of a list with p one by one. -/
theorem foldl_boolNat {α : Type} (p : α → Bool) (l : List α) (n : Nat) :
    l.foldl (fun n i => n + boolNat (p i)) n = n + (l.filter p).length := by
  induction l generalizing n with
  | nil => rfl
  | cons i l ih =>
    rw [List.foldl_cons, ih]
    cases h : p i <;> simp [h, boolNat, Nat.add_assoc, Nat.add_comm 1]

theorem ofNat_boolNat (b : Bool) : BitVec.ofNat 64 (boolNat b) = if b then 1 else 0 := by
  cases b <;> rfl

theorem remInt_eq (t : Nat) (a b : Int) :
    remInt t a b = if b = 0 then ofInt t a else ofInt t (a - b * Int.tdiv a b) := by
  simp only [remInt, beq_iff_eq, Int.tmod_def]

theorem divInt_eq (t : Nat) (a b : Int) : divInt t a b = if b = 0 then ofInt t (-1) else ofInt t (Int.tdiv a b) := by
  simp only [divInt, beq_iff_eq]

/-! The firing of each kind of form. -/

section
variable {s : State} {cx : Cx} {os : List Operand} (hr : CellReady s cx)
include hr

/-- An integer form delivers its value. -/
theorem intForm_delivers {n : Nat} (ho : ElemReady cx (List.range n) os) {f : List Operand → W64} {v : W64} (hv : f os = v) :
    intForm s cx.m n f = .next (cx.deliver (List.range n) v 0) :=
  cellTurn_delivers hr ho rfl (congrArg (Fire.value · 0) hv)

/-- DIV and REM deliver their value, and hold the cell. -/
theorem slowForm_performs (ho : ElemReady cx [0, 1] os) {f : List Operand → W64} {v : W64} (hv : f os = v) :
    slowForm s cx.m f = .next (commit cx
      { takes := [0, 1].filter cx.isLink, sends := cx.toAll (.plain .val v), val := some v, rdst := cx.m.rdstNat, rdstVal := v
        upd := fun y => { y with busy := cx.t + tyWidth cx.m.tyNat / 2 } }) := by
  subst hv
  rw [slowForm, cellTurn_performs hr ho rfl, Cx.valueTurn, List.append_nil]
  rfl

omit hr in
/-- While an earlier DIV or REM holds the cell, another does nothing. -/
theorem slowForm_held (hawake : CellAwake s cx) (hbusy : cx.t < cx.x.rt.busy) (f : List Operand → W64) :
    slowForm s cx.m f = .next s :=
  cellTurn_busy hawake hbusy _

/-- ADDC and SUBB send a value and what it carries. -/
theorem carryForm_performs (ho : ElemReady cx [0, 1, 2] os) {f : Nat → Nat → Nat → Nat × Nat} {n x : Nat}
    (hf : f (Claims.pat cx.m (opPay os 0)) (Claims.pat cx.m (opPay os 1)) ((opPay os 2).toNat % 2) = (n, x)) :
    carryForm s cx.m f = .next (commit cx
      { takes := [0, 1, 2].filter cx.isLink
        sends := cx.x.cfg.dataOuts.map fun o =>
          (o, Token.plain .val (if o < 2 then extendTy cx.m.tyNat n else extendTy cx.m.tyNat x))
        val := some (extendTy cx.m.tyNat n), rdst := cx.m.rdstNat, rdstVal := extendTy cx.m.tyNat n }) := by
  change f (natArg cx.m os 0) (natArg cx.m os 1) ((opPay os 2).toNat % 2) = (n, x) at hf
  rw [carryForm, cellTurn_performs hr ho rfl, Cx.valueTurn, hf, List.append_nil]
  rfl

end

/-- Settles O1: each form is one of the shared integer form, whose value is that of the table. -/
theorem integerFormsDeliverTableValues : Obligations.IntegerFormsDeliverTableValues := by
  intro e he s cx os hr ho
  simp only [intForms, List.mem_cons, List.not_mem_nil, or_false] at he
  rcases he with rfl | rfl | rfl | rfl | rfl | rfl | rfl | rfl | rfl | rfl | rfl | rfl | rfl | rfl | rfl | rfl | rfl | rfl <;>
    refine intForm_delivers hr ho ?_
  case inl | inr.inl | inr.inr.inl => exact narrow_eq_wrap ..
  · rfl
  · rfl
  · rfl
  · rfl
  · rfl
  · exact congrArg _ (Nat.shiftLeft_eq ..)
  · exact congrArg _ (Nat.shiftRight_eq_div_pow ..)
  · rfl
  · simp only [Nat.shiftLeft_eq, Nat.shiftRight_eq_div_pow]
    rfl
  · rfl
  · rfl
  · exact ofNat_boolNat _
  · simp only [beq_iff_eq]
    rfl
  · simp only [beq_iff_eq]
    rfl
  · simp only [foldl_boolNat, Nat.zero_add]
    rfl

/-! The affine sum (R115). -/

/-- The part that port p has in the affine sum. -/
def affineTerm (cx : Cx) (os : List Operand) (p : Nat) : Int :=
  match os.find? (·.port == p) with
  | some o => Claims.int cx.m o.pay * Claims.int cx.m (cx.x.cfg.const (p + 1))
  | none => 0

theorem find?_port_eq_some {os : List Operand} (h : (os.map (·.port)).Nodup) {o : Operand} (ho : o ∈ os) :
    os.find? (·.port == o.port) = some o := by
  cases hf : os.find? (·.port == o.port) with
  | none => exact absurd (List.find?_eq_none.1 hf o ho) (by simp)
  | some o' =>
    have hport : o'.port = o.port := by simpa using List.find?_some hf
    rw [List.inj_on_of_nodup_map h (List.mem_of_find?_eq_some hf) ho hport]

theorem affineTerm_of_mem {cx : Cx} {os : List Operand} (h : (os.map (·.port)).Nodup) {o : Operand} (ho : o ∈ os) :
    affineTerm cx os o.port = intOf cx.m.tyNat o.pay * intOf cx.m.tyNat (cx.x.cfg.const (o.port + 1)) := by
  rw [affineTerm, find?_port_eq_some h ho]
  rfl

theorem affineTerm_of_not_mem {cx : Cx} {os : List Operand} {p : Nat} (h : p ∉ os.map (·.port)) : affineTerm cx os p = 0 := by
  have hnone : os.find? (·.port == p) = none :=
    List.find?_eq_none.2 fun o ho => by simpa using fun hp => h (List.mem_map.2 ⟨o, ho, hp⟩)
  rw [affineTerm, hnone]

theorem foldl_add_eq_add_sum {α : Type} (f : α → Int) (l : List α) (a : Int) :
    l.foldl (fun a x => a + f x) a = a + (l.map f).sum := by
  induction l generalizing a with
  | nil => simp
  | cons x l ih => rw [List.foldl_cons, ih, List.map_cons, List.sum_cons, add_assoc]

/-- Members whose value is 0 may be left out of a sum. -/
theorem sum_map_filter_eq {α : Type} {p : α → Bool} {f : α → Int} {l : List α} (h : ∀ x ∈ l, p x = false → f x = 0) :
    ((l.filter p).map f).sum = (l.map f).sum := by
  have hrest : ((l.filter fun x => !p x).map f).sum = 0 := by
    refine List.sum_eq_zero fun v hv => ?_
    obtain ⟨x, hx, rfl⟩ := List.mem_map.1 hv
    obtain ⟨hmem, hp⟩ := List.mem_filter.1 hx
    exact h x hmem (by simpa using hp)
  simpa [hrest] using List.sum_map_filter_add_sum_map_filter_not (fun x => p x = true) f l

/-- The sum over the operands of the bound ports is the sum over all four ports, of which the others have no part. -/
theorem affineSum_eq {cx : Cx} {os : List Operand} (h : cx.operands ((List.range 4).filter cx.bound) = some os) (c : Int) :
    os.foldl (fun a o => a + intOf cx.m.tyNat o.pay * intOf cx.m.tyNat (cx.x.cfg.const (o.port + 1))) c =
      c + affineTerm cx os 0 + affineTerm cx os 1 + affineTerm cx os 2 + affineTerm cx os 3 := by
  have hports := Cx.map_port_of_operands h
  have hnodup : (os.map (·.port)).Nodup := hports ▸ List.nodup_range.filter _
  have hterms : os.map (fun o => intOf cx.m.tyNat o.pay * intOf cx.m.tyNat (cx.x.cfg.const (o.port + 1))) =
      ((List.range 4).filter cx.bound).map (affineTerm cx os) := by
    rw [← hports, List.map_map]
    exact List.map_congr_left fun o ho => (affineTerm_of_mem hnodup ho).symm
  have hzero : ∀ p ∈ List.range 4, cx.bound p = false → affineTerm cx os p = 0 := by
    intro p _ hp
    exact affineTerm_of_not_mem (by simp [hports, hp])
  rw [foldl_add_eq_add_sum, hterms, sum_map_filter_eq hzero]
  simp [List.range_succ, add_assoc]

theorem dividersDeliverAndHoldTheirUnit : Claims.DividersDeliverAndHoldTheirUnit := by
  refine ⟨fun s cx hawake hbusy => ⟨slowForm_held hawake hbusy _, slowForm_held hawake hbusy _⟩, fun s cx os hr ho => ?_⟩
  exact ⟨slowForm_performs hr ho (divInt_eq ..), slowForm_performs hr ho (remInt_eq ..)⟩

/-- SUBB's difference modulo 2^w, as the model computes it over naturals. -/
theorem subb_value {a b c w : Nat} (ha : a < 2 ^ w) (hb : b < 2 ^ w) (hc : c < 2) :
    (a + 2 ^ (w + 1) - b - c) % 2 ^ w = (((a : Int) - b - c) % (2 ^ w : Nat)).toNat := by
  have hpow : 2 ^ (w + 1) = 2 * 2 ^ w := by rw [Nat.pow_succ, Nat.mul_comm]
  rw [hpow]
  generalize 2 ^ w = p at *
  have hcast : ((a + 2 * p - b - c : Nat) : Int) = (a : Int) - b - c + p * 2 := by omega
  rw [← Int.add_mul_emod_self_left ((a : Int) - b - c) p 2, ← hcast, ← Int.natCast_mod, Int.toNat_natCast]

/-- SUBB borrows where the difference is negative. -/
theorem subb_borrow (a b c : Nat) : boolNat (decide (a < b + c)) = if (a : Int) - b - c < 0 then 1 else 0 := by
  have hiff : a < b + c ↔ (a : Int) - b - c < 0 := by omega
  simp only [boolNat, decide_eq_true_eq, hiff]

theorem exec_addc (m : Mods) (s : State) : exec (.addc m) s =
    carryForm s m fun a b c => ((a + b + c) % 2 ^ tyWidth m.tyNat, (a + b + c) / 2 ^ tyWidth m.tyNat) := rfl

theorem exec_subb (m : Mods) (s : State) : exec (.subb m) s =
    carryForm s m fun a b c => ((a + 2 ^ (tyWidth m.tyNat + 1) - b - c) % 2 ^ tyWidth m.tyNat, boolNat (a < b + c)) := rfl

theorem carryFormsDeliverSumAndCarry : Claims.CarryFormsDeliverSumAndCarry := by
  intro s cx os hr ho m w a b c d fired
  have hlt (x : W64) : Claims.pat m x < 2 ^ w := Nat.mod_lt _ (Nat.two_pow_pos w)
  refine ⟨(exec_addc m s).trans (carryForm_performs hr ho rfl), (exec_subb m s).trans (carryForm_performs hr ho ?_)⟩
  exact Prod.ext (subb_value (hlt _) (hlt _) (Nat.mod_lt _ Nat.two_pos)) (subb_borrow a b c)

theorem affineDeliversTheAffineSum : Claims.AffineDeliversTheAffineSum := by
  intro s cx os hr ps ho m c term
  change execAffine m s = _
  rw [execAffine]
  exact cellTurn_delivers hr ho rfl (congrArg (Fire.value · 0) (congrArg (ofInt m.tyNat) (affineSum_eq ho.operands _)))

/-- Settles O2: DIV and REM while held and while free, ADDC and SUBB over naturals, and AFFINE port by port. -/
theorem divisionCarryAndAffineForms : Obligations.DivisionCarryAndAffineForms :=
  ⟨dividersDeliverAndHoldTheirUnit, carryFormsDeliverSumAndCarry, affineDeliversTheAffineSum⟩

end Sys2Proof.Machine
end

section
/-! SUPPORT. Capability forms: the fields of a capability after an update of one of them, and the firing that derives one. -/

namespace Sys2Proof.Machine

/-! Fields below and above a field that changes. -/

theorem fieldNat_eq_of_mod_eq {n k lo len : Nat} {x y : BitVec n} (h : x.toNat % 2 ^ k = y.toNat % 2 ^ k) (hk : lo + len ≤ k) :
    fieldNat x lo len = fieldNat y lo len := by
  have hfield (z : BitVec n) : fieldNat z lo len = z.toNat % 2 ^ k / 2 ^ lo % 2 ^ len := by
    obtain ⟨d, rfl⟩ := Nat.exists_eq_add_of_le hk
    rw [fieldNat_eq_div_mod, Nat.add_assoc, Nat.pow_add, Nat.mod_mul_right_div_self, Nat.pow_add, Nat.mod_mul_right_mod]
  rw [hfield, hfield, h]

theorem fieldNat_eq_of_div_eq {n k lo len : Nat} {x y : BitVec n} (h : x.toNat / 2 ^ k = y.toNat / 2 ^ k) (hk : k ≤ lo) :
    fieldNat x lo len = fieldNat y lo len := by
  obtain ⟨d, rfl⟩ := Nat.exists_eq_add_of_le hk
  simp only [fieldNat_eq_div_mod, Nat.pow_add, ← Nat.div_div_eq_div_mul, h]

/-! A capability with another cursor, other rights or other bounds (R111). -/

namespace Cap

theorem toNat_withCursor (c : Cap) (o : Nat) : (c.withCursor o).bits.toNat =
    c.bits.toNat / 2 ^ 88 * 2 ^ 88 + o % 2 ^ 44 * 2 ^ 44 + c.bits.toNat % 2 ^ 44 := by
  have := c.bits.isLt
  simp only [withCursor, cursor, fieldNat_eq_div_mod, Nat.shiftLeft_eq, BitVec.toNat_ofNat]
  omega

theorem toNat_withRights (c : Cap) (r : Nat) : (c.withRights r).bits.toNat =
    c.bits.toNat / 2 ^ 96 * 2 ^ 96 + r % 256 * 2 ^ 88 + c.bits.toNat % 2 ^ 88 := by
  have := c.bits.isLt
  simp only [withRights, rights, fieldNat_eq_div_mod, Nat.shiftLeft_eq, BitVec.toNat_ofNat]
  omega

theorem toNat_withBounds (c : Cap) {e bb bt : Nat} (he : e < 2 ^ 6) (hb : bb < 2 ^ 18) (ht : bt < 2 ^ 18) :
    (c.withBounds e bb bt).bits.toNat = c.bits.toNat / 2 ^ 44 * 2 ^ 44 + e * 2 ^ 38 + bb * 2 ^ 20 + bt * 2 ^ 2 := by
  have := c.bits.isLt
  simp only [withBounds, Nat.shiftLeft_eq, BitVec.toNat_ofNat]
  omega

/-- Capabilities with the same low 44 bits have the same bounds. -/
theorem bounds_eq_of_mod_eq {c c' : Cap} (h : c'.bits.toNat % 2 ^ 44 = c.bits.toNat % 2 ^ 44) :
    c'.base = c.base ∧ c'.top = c.top := by
  simp [base, top, exp, fieldNat_eq_of_mod_eq h]

section
variable (c : Cap) (o : Nat)

theorem withCursor_low : (c.withCursor o).bits.toNat % 2 ^ 44 = c.bits.toNat % 2 ^ 44 := by
  rw [toNat_withCursor]; omega

theorem withCursor_high : (c.withCursor o).bits.toNat / 2 ^ 88 = c.bits.toNat / 2 ^ 88 := by
  rw [toNat_withCursor]; omega

@[simp] theorem tag_withCursor : (c.withCursor o).tag = c.tag := by
  rw [withCursor]

@[simp] theorem oid_withCursor : (c.withCursor o).oid = c.oid := fieldNat_eq_of_div_eq (withCursor_high c o) (by decide)

@[simp] theorem rights_withCursor : (c.withCursor o).rights = c.rights :=
  fieldNat_eq_of_div_eq (withCursor_high c o) (by decide)

@[simp] theorem base_withCursor : (c.withCursor o).base = c.base := (bounds_eq_of_mod_eq (withCursor_low c o)).1

@[simp] theorem top_withCursor : (c.withCursor o).top = c.top := (bounds_eq_of_mod_eq (withCursor_low c o)).2

@[simp] theorem cursor_withCursor : (c.withCursor o).cursor = o % 2 ^ 44 := by
  rw [cursor, fieldNat_eq_div_mod, toNat_withCursor]; omega

end

section
variable (c : Cap) (r : Nat)

theorem withRights_low : (c.withRights r).bits.toNat % 2 ^ 88 = c.bits.toNat % 2 ^ 88 := by
  rw [toNat_withRights]; omega

theorem withRights_high : (c.withRights r).bits.toNat / 2 ^ 96 = c.bits.toNat / 2 ^ 96 := by
  rw [toNat_withRights]; omega

@[simp] theorem tag_withRights : (c.withRights r).tag = c.tag := by
  rw [withRights]

@[simp] theorem oid_withRights : (c.withRights r).oid = c.oid := fieldNat_eq_of_div_eq (withRights_high c r) le_rfl

@[simp] theorem rights_withRights : (c.withRights r).rights = r % 256 := by
  rw [rights, fieldNat_eq_div_mod, toNat_withRights]; omega

@[simp] theorem cursor_withRights : (c.withRights r).cursor = c.cursor :=
  fieldNat_eq_of_mod_eq (withRights_low c r) le_rfl

@[simp] theorem base_withRights : (c.withRights r).base = c.base :=
  (bounds_eq_of_mod_eq (by have := withRights_low c r; omega)).1

@[simp] theorem top_withRights : (c.withRights r).top = c.top :=
  (bounds_eq_of_mod_eq (by have := withRights_low c r; omega)).2

end

section
variable (c : Cap) {e bb bt : Nat} (he : e < 2 ^ 6) (hb : bb < 2 ^ 18) (ht : bt < 2 ^ 18)
include he hb ht

theorem withBounds_high : (c.withBounds e bb bt).bits.toNat / 2 ^ 44 = c.bits.toNat / 2 ^ 44 := by
  rw [toNat_withBounds c he hb ht]; omega

theorem oid_withBounds : (c.withBounds e bb bt).oid = c.oid :=
  fieldNat_eq_of_div_eq (withBounds_high c he hb ht) (by decide)

theorem rights_withBounds : (c.withBounds e bb bt).rights = c.rights :=
  fieldNat_eq_of_div_eq (withBounds_high c he hb ht) (by decide)

theorem cursor_withBounds : (c.withBounds e bb bt).cursor = c.cursor :=
  fieldNat_eq_of_div_eq (withBounds_high c he hb ht) le_rfl

theorem exp_withBounds : (c.withBounds e bb bt).exp = e := by
  rw [exp, fieldNat_eq_div_mod, toNat_withBounds c he hb ht]; omega

theorem base_withBounds : (c.withBounds e bb bt).base = bb * 2 ^ e := by
  have hfield : fieldNat (c.withBounds e bb bt).bits 20 18 = bb := by
    rw [fieldNat_eq_div_mod, toNat_withBounds c he hb ht]; omega
  rw [base, exp_withBounds c he hb ht, hfield]

theorem top_withBounds : (c.withBounds e bb bt).top = bt * 2 ^ e := by
  have hfield : fieldNat (c.withBounds e bb bt).bits 2 18 = bt := by
    rw [fieldNat_eq_div_mod, toNat_withBounds c he hb ht]; omega
  rw [top, exp_withBounds c he hb ht, hfield]

end

/-- The derive right, where it is held. -/
theorem rights_and_derive {c : Cap} (h : c.rights.testBit 5 = true) : c.rights &&& rDerive = rDerive := by
  rw [show rDerive = 2 ^ 5 from rfl, Nat.and_two_pow, h]
  rfl

end Cap

/-! The smallest bounds fit their fields (R156). -/

theorem boundsExp_spec {hi f e r : Nat} (h : boundsExp hi f e = some r) : r < e + f ∧ ceilDiv hi (2 ^ r) ≤ 2 ^ 18 - 1 := by
  induction f generalizing e with
  | zero => cases h
  | succ f ih =>
    unfold boundsExp at h
    split at h
    next hfits =>
      obtain rfl := Option.some.inj h
      exact ⟨by omega, hfits⟩
    next =>
      obtain ⟨hlt, hfits⟩ := ih h
      exact ⟨by omega, hfits⟩

/-- The exponent and both bounds of an interval fit their fields. -/
theorem smallestBounds_fits {lo hi e bb bt : Nat} (h : smallestBounds lo hi = some (e, bb, bt)) (hle : lo ≤ hi) :
    e < 2 ^ 6 ∧ bb < 2 ^ 18 ∧ bt < 2 ^ 18 := by
  obtain ⟨r, hexp, heq⟩ := Option.map_eq_some_iff.1 h
  obtain ⟨rfl, rfl, rfl⟩ : r = e ∧ lo / 2 ^ r = bb ∧ ceilDiv hi (2 ^ r) = bt := by simpa using heq
  obtain ⟨hlt, hfits⟩ := boundsExp_spec hexp
  have hdiv : lo / 2 ^ r ≤ ceilDiv hi (2 ^ r) := Nat.div_le_div_right (by have := Nat.two_pow_pos r; omega)
  exact ⟨by omega, by omega, by omega⟩

/-! The firing that derives a capability (R111, R112). -/

section
variable {s : State} {cx : Cx} {os : List Operand} (hr : CellReady s cx) (ho : ElemReady cx [0] os)
include hr ho

/-- With its registers free and its right held, a capability form derives what its function gives. -/
theorem capFormTurn_derives (hfree : cx.capFree) {need : Nat} {f : Cap → W64 → Option Cap} {k' : Cap}
    (htag : (cx.kreg (cx.m.modF 0 2) [0]).tag = true) (hneed : (cx.kreg (cx.m.modF 0 2) [0]).rights &&& need = need)
    (hf : f (cx.kreg (cx.m.modF 0 2) [0]) (opPay os 0) = some k') :
    capFormTurn s cx.m need f = .next (cx.derive k') := by
  obtain ⟨hread, hwritten⟩ := hfree
  have hpend : (cx.kPending (cx.m.modF 0 2) || (cx.m.rdstNat != 0 && cx.kPending (cx.m.rdstNat - 0x10))) = false := by
    rcases hwritten with h | h <;> simp [hread, h]
  rw [capFormTurn, cellTurn_performs hr ho rfl]
  simp only [hpend, htag, hneed, hf, Bool.not_true, Bool.false_eq_true, if_false, bne_self_eq_false, sendCap, Cx.valueTurn,
    List.append_nil]
  rfl

end

theorem Cap.NoMore.withCursor (k : Cap) (o : Nat) : Cap.NoMore (k.withCursor o) k where
  oid := Cap.oid_withCursor k o
  tag := Cap.tag_withCursor k o
  rights := by rw [Cap.rights_withCursor, Nat.and_self]
  base := (Cap.base_withCursor k o).ge
  top := (Cap.top_withCursor k o).le

theorem Cap.NoMore.withRights {k : Cap} {r : Nat} (h : r % 256 &&& k.rights = r % 256) : Cap.NoMore (k.withRights r) k where
  oid := Cap.oid_withRights k r
  tag := Cap.tag_withRights k r
  rights := by rwa [Cap.rights_withRights]
  base := (Cap.base_withRights k r).ge
  top := (Cap.top_withRights k r).le

theorem Cap.NoMore.withBounds {k : Cap} {e bb bt : Nat} (he : e < 2 ^ 6) (hb : bb < 2 ^ 18) (ht : bt < 2 ^ 18)
    (hbase : k.base ≤ bb * 2 ^ e) (htop : bt * 2 ^ e ≤ k.top) : Cap.NoMore (k.withBounds e bb bt) k where
  oid := Cap.oid_withBounds k he hb ht
  tag := by rw [Cap.withBounds]
  rights := by rw [Cap.rights_withBounds k he hb ht, Nat.and_self]
  base := by rwa [Cap.base_withBounds k he hb ht]
  top := by rwa [Cap.top_withBounds k he hb ht]

/-- A cursor is a number modulo 2^44. -/
theorem cast_cursor_emod (v : Int) : (((v % (2 ^ 44 : Nat)).toNat % 2 ^ 44 : Nat) : Int) = v % (2 ^ 44 : Nat) := by
  omega

/-- CAPNAR inside the bounds of its source narrows them to the smallest. -/
theorem narrowCap_eq_some {k : Cap} {a e bb bt : Nat} {exact : Bool}
    (hsmall : smallestBounds k.cursor (k.cursor + a) = some (e, bb, bt)) (hbase : k.base ≤ bb * 2 ^ e)
    (htop : bt * 2 ^ e ≤ k.top) (hhi : k.cursor + a ≤ 2 ^ 44)
    (hexact : exact = true → bb * 2 ^ e = k.cursor ∧ bt * 2 ^ e = k.cursor + a) :
    narrowCap k a exact = some (k.withBounds e bb bt) := by
  have hloose : ¬(exact && !(bb * 2 ^ e == k.cursor && bt * 2 ^ e == k.cursor + a)) = true := by
    cases exact with
    | false => simp
    | true => simpa using hexact rfl
  simp only [narrowCap, Nat.not_lt.2 hhi, hsmall, Nat.not_lt.2 hbase, Nat.not_lt.2 htop, hloose, decide_false, Bool.or_false,
    Bool.false_eq_true, if_false]

theorem exec_capofs (m : Mods) (s : State) : exec (.capofs m) s = capFormTurn s m 0 fun k a =>
    some (k.withCursor (((k.cursor : Int) + a.toInt * (2 ^ m.modF 2 3 : Nat)) % (2 ^ 44 : Nat)).toNat) := rfl

theorem exec_capset (m : Mods) (s : State) : exec (.capset m) s = capFormTurn s m 0 fun k a =>
    some (k.withCursor (((k.base : Int) + a.toInt) % (2 ^ 44 : Nat)).toNat) := rfl

theorem exec_caprgt (m : Mods) (s : State) : exec (.caprgt m) s = capFormTurn s m rDerive fun k a =>
    some (k.withRights (k.rights &&& m.modF 2 8 &&& a.toNat % 256)) := rfl

theorem exec_capnar (m : Mods) (s : State) : exec (.capnar m) s = capFormTurn s m rDerive fun k a =>
    narrowCap k a.toNat (m.modF 2 1 == 1) := rfl

theorem capabilityFormsDeriveWithoutGain : Claims.CapabilityFormsDeriveWithoutGain := by
  intro s cx os hr ho hfree m k a hi htag hwf
  refine ⟨?_, ?_, fun hderive => ⟨?_, fun e bb bt hsmall hbase htop hhi hexact => ?_⟩⟩
  · refine ⟨_, .withCursor k _, Cap.base_withCursor .., Cap.top_withCursor .., Cap.rights_withCursor .., ?_,
      (exec_capofs ..).trans (capFormTurn_derives hr ho hfree htag (Nat.and_zero _) rfl)⟩
    rw [Cap.cursor_withCursor, cast_cursor_emod]
  · refine ⟨_, .withCursor k _, Cap.base_withCursor .., Cap.top_withCursor .., Cap.rights_withCursor .., ?_,
      (exec_capset ..).trans (capFormTurn_derives hr ho hfree htag (Nat.and_zero _) rfl)⟩
    rw [Cap.cursor_withCursor, cast_cursor_emod]
  · have hfits : (k.rights &&& m.modF 2 8 &&& a.toNat % 256) % 256 = k.rights &&& m.modF 2 8 &&& a.toNat % 256 :=
      Nat.mod_eq_of_lt (Nat.lt_of_le_of_lt Nat.and_le_right (Nat.mod_lt _ (by decide)))
    refine ⟨_, .withRights ?_, Cap.base_withRights .., Cap.top_withRights .., Cap.cursor_withRights .., ?_,
      (exec_caprgt ..).trans (capFormTurn_derives hr ho hfree htag (Cap.rights_and_derive hderive) rfl)⟩
    · rw [hfits, Nat.and_comm, ← Nat.and_assoc, ← Nat.and_assoc, Nat.and_self]
    · rw [Cap.rights_withRights, hfits]
  · obtain ⟨he, hb, ht⟩ := smallestBounds_fits hsmall (Nat.le_add_right _ _)
    have hnarrow : narrowCap k a.toNat (m.modF 2 1 == 1) = some (k.withBounds e bb bt) :=
      narrowCap_eq_some hsmall hbase htop hhi fun h => hexact (eq_of_beq h)
    exact ⟨_, .withBounds he hb ht hbase htop, Cap.base_withBounds k he hb ht, Cap.top_withBounds k he hb ht,
      Cap.cursor_withBounds k he hb ht, Cap.rights_withBounds k he hb ht,
      (exec_capnar ..).trans (capFormTurn_derives hr ho hfree htag (Cap.rights_and_derive hderive) hnarrow)⟩

theorem captagSendsTheChosenField : Claims.CaptagSendsTheChosenField := by
  refine ⟨fun s cx os hr ho hfree => ?_, fun m hsel => ?_⟩
  · intro k sends
    have hsends (v : Nat) (hv : capField k (cx.m.modF 2 3) = v) : sends v := by
      change execCaptag cx.m s = _
      rw [execCaptag]
      exact cellTurn_delivers hr ho rfl (by rw [hfree, ← hv]; rfl)
    refine ⟨fun h => hsends _ ?_, fun h => hsends _ ?_, fun h => hsends _ ?_, fun h => hsends _ ?_, fun h => hsends _ ?_,
      fun h => hsends _ ?_⟩ <;> rw [h] <;> rfl
  · simp [Instr.wf, Nat.not_le.2 hsel]

/-- Settles O3: each form derives its capability field by field, and CAPTAG sends a field. -/
theorem capabilitiesDeriveAndTravel : Obligations.CapabilitiesDeriveAndTravel :=
  ⟨capabilityFormsDeriveWithoutGain, captagSendsTheChosenField⟩

end Sys2Proof.Machine
end

section
/-! SUPPORT. Floating-point forms: their operands as exact values, the order of exact values, and the forms on patterns. -/

namespace Sys2Proof.Machine

/-! Forms that round once (R117). -/

/-- An operand of a floating-point form, as the form lists them. -/
theorem fAt_map_fArg {cx : Cx} {ty i : Nat} {os : List Operand} (h : i < os.length) :
    fAt (os.map (cx.fArg ty)) i = cx.fArg ty (opAt os i) := by
  simp [fAt, opAt, h]

section
variable {s : State} {cx : Cx} {os : List Operand} (hr : CellReady s cx)
include hr

/-- A floating-point form delivers the rounded result of its operands. -/
theorem floatForm_delivers {n : Nat} (ho : ElemReady cx (List.range n) os) (f : RMode → List FVal → Rounded) :
    let r := f (rmodeOf cx.m.rmNat) (os.map (cx.fArg cx.m.tyNat))
    floatForm s cx.m n f = .next (cx.deliver (List.range n) (BitVec.ofNat 64 r.bits) r.flags) :=
  cellTurn_delivers hr ho rfl rfl

theorem floatForm_unary (ho : ElemReady cx (List.range 1) os) (g : RMode → FVal → Rounded) :
    let r := g (rmodeOf cx.m.rmNat) (cx.fArg cx.m.tyNat (opAt os 0))
    floatForm s cx.m 1 (fun mode vs => g mode (fAt vs 0)) =
      .next (cx.deliver (List.range 1) (BitVec.ofNat 64 r.bits) r.flags) := by
  have hlen : os.length = 1 := ho.length_eq
  rw [floatForm_delivers hr ho, fAt_map_fArg (by omega)]

theorem floatForm_binary (ho : ElemReady cx (List.range 2) os) (g : RMode → FVal → FVal → Rounded) :
    let r := g (rmodeOf cx.m.rmNat) (cx.fArg cx.m.tyNat (opAt os 0)) (cx.fArg cx.m.tyNat (opAt os 1))
    floatForm s cx.m 2 (fun mode vs => g mode (fAt vs 0) (fAt vs 1)) =
      .next (cx.deliver (List.range 2) (BitVec.ofNat 64 r.bits) r.flags) := by
  have hlen : os.length = 2 := ho.length_eq
  rw [floatForm_delivers hr ho, fAt_map_fArg (by omega), fAt_map_fArg (by omega)]

theorem floatForm_ternary (ho : ElemReady cx (List.range 3) os) (g : RMode → FVal → FVal → FVal → Rounded) :
    let r := g (rmodeOf cx.m.rmNat) (cx.fArg cx.m.tyNat (opAt os 0)) (cx.fArg cx.m.tyNat (opAt os 1))
      (cx.fArg cx.m.tyNat (opAt os 2))
    floatForm s cx.m 3 (fun mode vs => g mode (fAt vs 0) (fAt vs 1) (fAt vs 2)) =
      .next (cx.deliver (List.range 3) (BitVec.ofNat 64 r.bits) r.flags) := by
  have hlen : os.length = 3 := ho.length_eq
  rw [floatForm_delivers hr ho, fAt_map_fArg (by omega), fAt_map_fArg (by omega), fAt_map_fArg (by omega)]

end

/-- Settles O4: each form is one of the shared floating-point form, on as many operands as it has. -/
theorem floatFormsDeliverOneRounding : Obligations.FloatFormsDeliverOneRounding := by
  intro e he s cx os hr ho x r
  simp only [floatForms, List.mem_cons, List.not_mem_nil, or_false] at he
  rcases he with rfl | rfl | rfl | rfl | rfl | rfl | rfl | rfl | rfl | rfl
  · exact floatForm_binary hr ho fun rm a b => faddOp cx.m.tyNat rm a b
  · exact floatForm_binary hr ho fun rm a b => faddOp cx.m.tyNat rm a (b.flipNum true)
  · exact floatForm_binary hr ho fun rm a b => fmulOp cx.m.tyNat rm a b
  · exact floatForm_ternary hr ho fun rm a b c => fmaOp cx.m.tyNat rm (cx.m.modF 0 1 == 1) (cx.m.modF 1 1 == 1) a b c
  · exact floatForm_binary hr ho fun rm a b => fminmaxOp cx.m.tyNat rm false a b
  · exact floatForm_binary hr ho fun rm a b => fminmaxOp cx.m.tyNat rm true a b
  · exact floatForm_unary hr ho fun rm a => approxOp .rcp cx.m.tyNat rm a
  · exact floatForm_unary hr ho fun rm a => approxOp .rsq cx.m.tyNat rm a
  · exact floatForm_unary hr ho fun rm a => approxOp .exp2 cx.m.tyNat rm a
  · exact floatForm_unary hr ho fun rm a => approxOp .log2 cx.m.tyNat rm a

/-! The order of exact values (R118). -/

/-- The integer multiple of a power of two that a finite value is, on any finer grid. -/
theorem cast_signedM_shift (n : Bool) (m : Nat) {e q : Int} (h : q ≤ e) :
    (signedM n (m <<< (e - q).toNat) : ℚ) * 2 ^ q = Claims.rat (.fin n m e) := by
  have hpow : (2 : ℚ) ^ (e - q).toNat * 2 ^ q = 2 ^ e := by
    rw [← zpow_natCast, ← zpow_add₀ two_ne_zero, Int.toNat_of_nonneg (by omega), sub_add_cancel]
  rw [Claims.rat, ← hpow, ← mul_assoc]
  congr 1
  cases n <;> simp [signedM, Nat.shiftLeft_eq]

theorem ltF_fin_iff (n : Bool) (m : Nat) (e : Int) (n' : Bool) (m' : Nat) (e' : Int) :
    ltF (.fin n m e) (.fin n' m' e') = true ↔ Claims.rat (.fin n m e) < Claims.rat (.fin n' m' e') := by
  have hgrid : (0 : ℚ) < 2 ^ min e e' := zpow_pos two_pos _
  rw [← cast_signedM_shift n m (min_le_left e e'), ← cast_signedM_shift n' m' (min_le_right e e'), mul_lt_mul_iff_left₀ hgrid,
    Int.cast_lt]
  exact decide_eq_true_iff

/-- Where neither is a NaN, the model's order is that of exact values. -/
theorem ltF_iff_less {a b : FVal} (ha : a.isNaN = false) (hb : b.isNaN = false) : ltF a b = true ↔ Claims.less a b := by
  cases a with
  | nan => cases ha
  | inf n => cases b with
    | nan => cases hb
    | inf n' => simp [ltF, Claims.less]
    | fin => rfl
  | fin n m e => cases b with
    | nan => cases hb
    | inf n' => simp [ltF, Claims.less]
    | fin n' m' e' => exact ltF_fin_iff ..

/-! FCMP (R118). -/

/-- The condition of FCMP on two exact values. -/
def Claims.compares (c : Nat) (a b : FVal) : Prop :=
  (c = 0 ∧ ¬Claims.less a b ∧ ¬Claims.less b a) ∨ (c = 1 ∧ (Claims.less a b ∨ Claims.less b a)) ∨
    (c = 2 ∧ Claims.less a b) ∨ (c = 3 ∧ ¬Claims.less b a) ∨ (c = 4 ∧ Claims.less b a) ∨ (c = 5 ∧ ¬Claims.less a b)

theorem fcmpOp_nan {a b : FVal} (h : (a.isNaN || b.isNaN) = true) (c : Nat) : fcmpOp c a b =
    (if c = 1 ∨ c = 6 then 1 else 0, if (a.isSig || b.isSig) = true ∨ (2 ≤ c ∧ c ≤ 5) then flagNV else 0) := by
  simp only [fcmpOp, h, if_true, Bool.or_eq_true, Bool.and_eq_true, beq_iff_eq, decide_eq_true_eq, noFlag]

/-- Where neither is a NaN, FCMP tells whether its condition holds, and raises no flag. -/
theorem fcmpOp_num {a b : FVal} (h : (a.isNaN || b.isNaN) = false) (c : Nat) :
    ∃ r : Bool, fcmpOp c a b = (boolNat r, 0) ∧ (r = true ↔ Claims.compares c a b) := by
  obtain ⟨ha, hb⟩ := Bool.or_eq_false_iff.1 h
  have hab := ltF_iff_less ha hb
  have hba := ltF_iff_less hb ha
  simp only [fcmpOp, h, Bool.false_eq_true, if_false]
  refine ⟨_, rfl, ?_⟩
  match c with
  | 0 | 1 | 2 | 3 | 4 | 5 => simp [Claims.compares, eqF, ← hab, ← hba]
  | c + 6 => simp [Claims.compares]

theorem exec_fcmp {s : State} {cx : Cx} {os : List Operand} (hr : CellReady s cx) (ho : ElemReady cx [0, 1] os) {v : Nat}
    {fl : FlagBits} (h : fcmpOp (cx.m.modF 0 3) (cx.fArg cx.m.tyNat (opAt os 0)) (cx.fArg cx.m.tyNat (opAt os 1)) = (v, fl)) :
    exec (.fcmp cx.m) s = .next (cx.deliver [0, 1] (BitVec.ofNat 64 v) fl) := by
  change execFcmp cx.m s = _
  rw [execFcmp]
  exact cellTurn_delivers hr ho rfl (by rw [h])

theorem fcmpComparesExactValues : Claims.FcmpComparesExactValues := by
  refine ⟨fun s cx os hr ho => ?_, fun m hcond => ?_⟩
  · intro a b c gives
    refine ⟨fun hnan => ?_, fun hnum => ?_⟩
    · have h := exec_fcmp hr ho (fcmpOp_nan hnan c)
      rwa [apply_ite (BitVec.ofNat 64)] at h
    · obtain ⟨r, hvalue, hiff⟩ := fcmpOp_num hnum c
      have h := exec_fcmp hr ho hvalue
      rw [ofNat_boolNat] at h
      cases r with
      | false => exact ⟨fun hc => absurd (hiff.2 hc) Bool.false_ne_true, fun _ => h⟩
      | true => exact ⟨fun _ => h, fun hc => absurd (hiff.1 rfl) hc⟩
  · have hmod : ¬m.modNat ≤ 6 := by
      rw [Mods.modF, fieldNat_eq_div_mod] at hcond
      rw [Mods.modNat]
      omega
    simp [Instr.wf, hmod]

/-! FABS, FNEG and FCLASS (R119). -/

section
variable {s : State} {cx : Cx} {os : List Operand} (hr : CellReady s cx) (ho : ElemReady cx [0] os)
include hr ho

/-- A pattern of TYPE keeps its bits but for the sign. -/
theorem signForm_own {f : Nat → Nat → Nat} {p : Nat} (h : ownPattern cx cx.m.tyNat (opAt os 0) = some p) :
    signForm s cx.m f = .next (cx.deliver [0] (BitVec.ofNat 64 (f (tyWidth cx.m.tyNat) p)) 0) :=
  cellTurn_delivers hr ho rfl (by simp only [h])

/-- Another operand is converted first. -/
theorem signForm_converted {f : Nat → Nat → Nat} (h : ownPattern cx cx.m.tyNat (opAt os 0) = none) :
    let conv := deliver cx.m.tyNat .rne (cx.fArg cx.m.tyNat (opAt os 0))
    signForm s cx.m f = .next (cx.deliver [0] (BitVec.ofNat 64 (f (tyWidth cx.m.tyNat) conv.bits)) conv.flags) :=
  cellTurn_delivers hr ho rfl (by simp only [h])

end

theorem exec_fabs (m : Mods) (s : State) : exec (.fabs m) s = signForm s m fun w p => p % 2 ^ (w - 1) := rfl

theorem exec_fneg (m : Mods) (s : State) : exec (.fneg m) s = signForm s m fun w p => p ^^^ 2 ^ (w - 1) := rfl

theorem signAndClassForms : Claims.SignAndClassForms := by
  intro s cx os hr ho t o top abs neg conv
  refine ⟨fun p hp => ⟨?_, ?_⟩, fun hp => ⟨?_, ?_⟩, ?_⟩
  · exact (exec_fabs ..).trans (signForm_own hr ho hp)
  · exact (exec_fneg ..).trans (signForm_own hr ho hp)
  · exact (exec_fabs ..).trans (signForm_converted hr ho hp)
  · exact (exec_fneg ..).trans (signForm_converted hr ho hp)
  · change execFclass cx.m s = _
    rw [execFclass]
    exact cellTurn_delivers hr ho rfl (by rw [pay_opAt])

/-- Settles O5: FCMP by the order of exact values, FABS and FNEG by whether the operand is a pattern of TYPE. -/
theorem comparisonSignAndClassForms : Obligations.ComparisonSignAndClassForms :=
  ⟨fcmpComparesExactValues, signAndClassForms⟩

end Sys2Proof.Machine
end

section
/-! SUPPORT. Conversions: the value of CVT, and the turn of DQNT, CBLOAD and HDRSET by what stands at in0. -/

namespace Sys2Proof.Machine

/-! CVT and DQNT (R121, R127). -/

section
variable {s : State} {cx : Cx} {os : List Operand} (hr : CellReady s cx) (ho : ElemReady cx [0] os)
include hr ho

/-- CVT under RM 0 to 3 delivers the converted value. -/
theorem exec_cvt_plain (h : cx.m.tyNat < 10 ∨ cx.m.rmNat < 4) : exec (.cvt cx.m) s =
    .next (cx.deliver [0] (Claims.converted cx.m (opPay os 0)).1 (Claims.converted cx.m (opPay os 0)).2) := by
  have hplain : ¬(10 ≤ cx.m.tyNat && 4 ≤ cx.m.rmNat) = true := by simp; omega
  change execCvt cx.m s = _
  simp only [execCvt, if_neg hplain]
  refine cellTurn_delivers hr ho rfl ?_
  by_cases hty : cx.m.tyNat ≤ 8 <;> by_cases hsrc : cx.m.modF 0 5 ≤ 8 <;> simp [Claims.converted, convInt, hty, hsrc]

omit hr in
/-- The one operand of a form on in0 alone is a VAL at a link. -/
theorem ElemReady.any_head_val : (cx.head 0).any (·.kind == .val) = true := by
  have hlink : cx.isLink 0 = true := by
    by_contra h
    exact ho.linked (by simp [h])
  obtain ⟨k, hk, hkind, _⟩ := ho.values 0 (by simp) hlink
  simp [hk, hkind]

/-- DQNT under a header delivers the decoded value, rounded once. -/
theorem exec_dqnt_header {h : W64} (hh : (cx.x.rt.port 0).hdr = some h) :
    let r := deliver cx.m.tyNat (rmodeOf cx.m.rmNat) (decodeUnder cx.book h (opPay os 0))
    exec (.dqnt cx.m) s = .next (cx.deliver [0] (BitVec.ofNat 64 r.bits) r.flags) := by
  change execDqnt cx.m s = _
  rw [execDqnt, cellTurn_ready hr]
  simp only [hh, Option.isNone_some, Bool.false_and, Bool.false_eq_true, if_false]
  rw [elemTurn_ready ho]
  rfl

/-- DQNT refuses a VAL ahead of every header. -/
theorem exec_dqnt_bare (hh : (cx.x.rt.port 0).hdr = none) : exec (.dqnt cx.m) s = .next (rejectAt s cx.r cx.c 0) := by
  change execDqnt cx.m s = _
  rw [execDqnt, cellTurn_ready hr]
  simp only [hh, ho.any_head_val, Option.isNone_none, Bool.and_self, if_true, applyTurn, hr.state]

end

theorem cvtAndDqntDeliverConvertedValues : Claims.CvtAndDqntDeliverConvertedValues := by
  intro s cx os hr ho m a
  exact ⟨exec_cvt_plain hr ho, fun h hh => exec_dqnt_header hr ho hh, exec_dqnt_bare hr ho⟩

/-! CBLOAD and HDRSET (R128, R129). -/

/-- What CBLOAD does with a token that in0 offers. -/
def cbloadEffect (cx : Cx) (k : Token) : Effect :=
  match k.kind with
  | .val =>
    { takes := [0]
      sends := if cx.x.rt.phase = 15 then cx.toAll (.plain .ctl (BitVec.ofNat 64 (cx.m.modF 0 4))) else []
      upd := fun y => { y with phase := (cx.x.rt.phase + 1) % 16 }
      after := fun s => if k.void then s else s.updDie cx.r.die fun d =>
        { d with bookDue := d.bookDue ++ [((cx.blk, cx.m.modF 0 4, cx.x.rt.phase), k.pay.setWidth 16)] } }
  | .eot => { takes := [0] }
  | _ => { takes := [0], upd := fun y => { y with phase := 0 } }

/-- What HDRSET does with a token that in0 offers, before the HDR of its rows and behind it. -/
def hdrsetEffect (cx : Cx) (k : Token) : Effect :=
  match k.kind, cx.x.rt.begun with
  | .hdr, _ => { takes := [0] }
  | .eot, _ => { takes := [0], sends := cx.toAll k, upd := fun y => { y with begun := false } }
  | _, false => { sends := cx.toAll (.plain .hdr (cx.x.cfg.const 0)), upd := fun y => { y with begun := true, phase := 0 } }
  | .val, true => { takes := [0], sends := cx.toAll k, val := if !k.void then some k.pay else none }
  | .eor, true =>
    { takes := [0], sends := cx.toAll k
      upd := fun y => if y.phase = cx.m.modF 0 12 then { y with begun := false, phase := 0 } else { y with phase := y.phase + 1 } }
  | _, true => { takes := [0], sends := cx.toAll k }

section
variable {s : State} {cx : Cx} {k : Token} (hr : CellReady s cx)
include hr

theorem exec_cbload_offered (hk : cx.offers 0 k [.val, .eor, .eot, .hdr] (hdrOnly 11)) :
    exec (.cbload cx.m) s = .next (commit cx (cbloadEffect cx k)) := by
  obtain ⟨hhead, hrefuses⟩ := hk
  change execCbload cx.m s = _
  rw [execCbload, cellTurn_ready hr, cbloadEffect]
  simp only [hhead, hrefuses, Bool.false_eq_true, if_false, beq_iff_eq]
  cases k.kind <;> rfl

theorem exec_hdrset_offered (hk : cx.offers 0 k markKinds hdrMove) :
    exec (.hdrset cx.m) s = .next (commit cx (hdrsetEffect cx k)) := by
  obtain ⟨hhead, hrefuses⟩ := hk
  change execHdrset cx.m s = _
  rw [execHdrset, cellTurn_ready hr, hdrsetEffect]
  simp only [hhead, hrefuses, Bool.false_eq_true, if_false, beq_iff_eq, Nat.add_right_cancel_iff]
  cases k.kind <;> cases cx.x.rt.begun <;> rfl

end

theorem codebookLoadsAndHeadersInPlace : Claims.CodebookLoadsAndHeadersInPlace := by
  intro s cx k hr m y
  refine ⟨fun hk => ?_, fun hk => ?_⟩
  · rw [exec_cbload_offered hr hk, cbloadEffect]
    refine ⟨fun hv => ?_, fun hv => ?_, fun hv => ?_⟩
    · rw [hv]
    · rcases hv with hv | hv <;> rw [hv]
    · rw [hv]
  · rw [exec_hdrset_offered hr hk, hdrsetEffect]
    refine ⟨fun hv => ?_, fun hh ht hb => ?_, fun hv => ?_, fun hv hn hb => ?_, fun hv hb => ?_⟩
    · rw [hv]
    · change cx.x.rt.begun = false at hb
      rw [hb]
      cases hv : k.kind with
      | hdr => exact absurd hv hh
      | eot => exact absurd hv ht
      | val | eor | ctl | swp | rsd | bly => rfl
    · rw [hv]
    · change cx.x.rt.begun = true at hb
      rw [hv, hb, hn]
      rfl
    · change cx.x.rt.begun = true at hb
      rw [hv, hb]

/-- Settles O7: the conversions on ready operands, CBLOAD and HDRSET by the kind of the token at in0. -/
theorem conversionsAndCodebooks : Obligations.ConversionsAndCodebooks :=
  ⟨cvtAndDqntDeliverConvertedValues, codebookLoadsAndHeadersInPlace⟩

end Sys2Proof.Machine
end

section
/-! SUPPORT. Stream control: the turn of STEER, GATE and DUP on what their inputs head, and that of MERGE and AMERGE on their data
inputs. -/

namespace Sys2Proof.Machine

/-! STEER, GATE and DUP (R133, R134, R141). -/

/-- What GATE does with the token k of in0 under the CTL c. -/
def gateEffect (cx : Cx) (k c : Token) : Effect :=
  if cx.m.modF 0 1 = 0 ∨ c.pay.getLsbD 0 = true then moveAll cx (Claims.forwarded k) [0, 1]
  else if cx.m.modF 1 1 = 1 then moveAll cx .voidVal [0, 1]
  else { takes := [0, 1] }

section
variable {s : State} {cx : Cx} {k : Token} (hr : CellReady s cx)
include hr

/-- DUP sends the token at in0 as it is. -/
theorem exec_dup_offered
    (hk : cx.offers 0 k [.val, .eor, .eot, .hdr, .ctl, .swp, .rsd] (fun h => hdrMove h || h == handHdr)) :
    exec (.dup cx.m) s = .next (Claims.move cx [0] k id) := by
  obtain ⟨hhead, hrefuses⟩ := hk
  change execDup cx.m s = _
  rw [execDup, cellTurn_ready hr, hhead, hrefuses]
  rfl

variable (hk : cx.offers 0 k markKinds hdrMove) (hctl : refusesCtl cx 1 = false)
include hk hctl

/-- STEER sends a marker on every destination, and waits for no CTL. -/
theorem exec_steer_marker (hv : k.kind ≠ .val) :
    exec (.steer cx.m) s = .next (Claims.move cx [0] (Claims.forwarded k) id) := by
  obtain ⟨hhead, hrefuses⟩ := hk
  change execSteer cx.m s = _
  rw [execSteer, cellTurn_ready hr, Claims.forwarded, if_neg hv]
  simp only [refusesData, hhead, hrefuses, hctl, Bool.false_eq_true, if_false, bne_iff_ne, ne_eq, hv, not_false_eq_true, if_true]
  rfl

/-- STEER sends a VAL on the destination that its CTL selects, and turns away the CTL that selects none. -/
theorem exec_steer_val {c : Token} (hc : cx.head 1 = some c) (hv : k.kind = .val) :
    exec (.steer cx.m) s = .next (
      if c.pay.toNat % 4 ∈ cx.x.cfg.dataOuts then commit cx
        { takes := [0, 1], sends := [(c.pay.toNat % 4, bareVal k)], val := if k.void then none else some k.pay }
      else rejectAt s cx.r cx.c 1) := by
  obtain ⟨hhead, hrefuses⟩ := hk
  have hsel : fieldNat c.pay 0 2 = c.pay.toNat % 4 := rfl
  change execSteer cx.m s = _
  rw [execSteer, cellTurn_ready hr]
  simp only [refusesData, hhead, hrefuses, hctl, hc, hv, hsel, Bool.false_eq_true, if_false, bne_self_eq_false, List.contains_iff_mem]
  split
  · rfl
  · rw [applyTurn, hr.state]

/-- GATE with FILTER sends a marker, and waits for no CTL. -/
theorem exec_gate_marker (hf : cx.m.modF 0 1 = 1) (hv : k.kind ≠ .val) :
    exec (.gate cx.m) s = .next (Claims.move cx [0] (Claims.forwarded k) id) := by
  obtain ⟨hhead, hrefuses⟩ := hk
  change execGate cx.m s = _
  rw [execGate, cellTurn_ready hr, Claims.forwarded, if_neg hv]
  simp only [refusesData, hhead, hrefuses, hctl, hf, Bool.false_eq_true, if_false, bne_iff_ne, beq_iff_eq, ne_eq, hv, not_false_eq_true,
    if_true, one_ne_zero]
  rfl

/-- GATE without FILTER, or on a VAL, takes a CTL with the token. -/
theorem exec_gate_ctl {c : Token} (hc : cx.head 1 = some c) (h : cx.m.modF 0 1 = 0 ∨ k.kind = .val) :
    exec (.gate cx.m) s = .next (commit cx (gateEffect cx k c)) := by
  obtain ⟨hhead, hrefuses⟩ := hk
  change execGate cx.m s = _
  rw [execGate, cellTurn_ready hr, gateEffect]
  simp only [refusesData, hhead, hrefuses, hctl, hc, Option.isSome_some, Bool.false_eq_true, if_false, if_true, beq_iff_eq, bne_iff_ne,
    ne_eq, Claims.forwarded]
  by_cases hf : cx.m.modF 0 1 = 0
  · simp only [hf, if_true, true_or]
    rfl
  · simp only [hf, h.resolve_left hf, false_or, not_true_eq_false, if_false, if_true]
    split
    · rfl
    · split <;> rfl

end

theorem steerGateAndDupMoveTokens : Claims.SteerGateAndDupMoveTokens := by
  intro s cx k c hr m out moves
  refine ⟨fun hk hctl => ⟨fun hv => ⟨?_, fun hf => ?_⟩, fun hc => ?_⟩, exec_dup_offered hr⟩
  · exact exec_steer_marker hr hk hctl hv
  · exact exec_gate_marker hr hk hctl hf hv
  · refine ⟨fun hv hsel => ?_, fun hv hsel => ?_, fun hf => ?_, fun hf hv => ?_⟩
    · rw [exec_steer_val hr hk hctl hc hv, if_pos hsel]
    · rw [exec_steer_val hr hk hctl hc hv, if_neg hsel]
    · exact (exec_gate_ctl hr hk hctl hc (.inl hf)).trans (by rw [gateEffect, if_pos (.inl hf)]; rfl)
    · have hgate := exec_gate_ctl hr hk hctl hc (.inr hv)
      have hfilter : cx.m.modF 0 1 ≠ 0 := hf.trans_ne one_ne_zero
      refine ⟨fun hb => ?_, fun hb hvoid => ?_, fun hb hvoid => ?_⟩
      · exact hgate.trans (by rw [gateEffect, if_pos (.inr hb)]; rfl)
      · have hdrop := not_or.2 ⟨hfilter, ne_true_of_eq_false hb⟩
        exact hgate.trans (by rw [gateEffect, if_neg hdrop, if_pos hvoid]; rfl)
      · have hdrop := not_or.2 ⟨hfilter, ne_true_of_eq_false hb⟩
        rw [hgate, gateEffect, if_neg hdrop, if_neg (hvoid.trans_ne zero_ne_one)]

/-! MERGE and AMERGE (R135, R136). -/

/-- Data inputs that refuse nothing they head turn none away. -/
theorem find?_refusesData_eq_none {cx : Cx} {ps : List Nat} (h : ∀ p ∈ ps, refusesData cx p = false) :
    (ps.find? fun p => refusesData cx p) = none :=
  List.find?_eq_none.2 fun p hp => by simp [h p hp]

/-- The data inputs stand in ascending order. -/
theorem dataIns_pairwise (cx : Cx) (n : Nat) : (dataIns cx n).Pairwise (· < ·) :=
  List.Pairwise.filter _ (List.Pairwise.filter _ (by decide))

/-- In an ascending list the lowest member that a test passes is found. -/
theorem find?_eq_some_of_lowest {l : List Nat} {f : Nat → Bool} {p : Nat} (hl : l.Pairwise (· < ·)) (hp : p ∈ l) (hf : f p = true)
    (hlow : ∀ q ∈ l, q < p → f q = false) : l.find? f = some p := by
  obtain ⟨as, bs, rfl⟩ := List.append_of_mem hp
  have hbefore : ∀ q ∈ as, q < p := fun q hq => (List.pairwise_append.1 hl).2.2 q hq p List.mem_cons_self
  refine List.find?_eq_some_iff_append.2 ⟨hf, as, bs, rfl, fun q hq => ?_⟩
  simp [hlow q (List.mem_append_left _ hq) (hbefore q hq)]

/-- The marker that closes a run or the tensor has MERGE count anew. -/
def mergeCount (k : Token) (y : CellRt) : CellRt := if k.kind = .eor ∨ k.kind = .eot then { y with outCnt := 0 } else y

section
variable {s : State} {cx : Cx} {k : Token} (hr : CellReady s cx)
include hr

section
variable (hclear : ∀ p ∈ dataIns cx 1, refusesData cx p = false) (hctl : refusesCtl cx 0 = false) (hne : dataIns cx 1 ≠ [])
include hclear hctl hne

/-- MERGE sends the one marker that every data input heads, an EOR where the result order closes a run. -/
theorem exec_merge_marker (hk : oneMarker cx (dataIns cx 1) = some k)
    (hfits : k.kind = .eor → ∀ o, cx.orderOut0 = some o → o.ragged = true ∨ o.runLen ≤ cx.x.rt.outCnt) :
    exec (.merge cx.m) s = .next (Claims.move cx (dataIns cx 1) (markerOf k k.pay) (mergeCount k)) := by
  change execMerge cx.m s = _
  rw [execMerge, cellTurn_ready hr]
  simp only [find?_refusesData_eq_none hclear, hctl, List.isEmpty_eq_false_iff.2 hne, hk, Bool.false_eq_true, if_false, Bool.or_eq_true,
    beq_iff_eq]
  split
  · next o ho =>
    have hfull : (k.kind == .eor && (!o.ragged && decide (cx.x.rt.outCnt < o.runLen))) = false := by
      rw [Bool.eq_false_iff]
      intro hearly
      simp only [Bool.and_eq_true, beq_iff_eq, Bool.not_eq_true', decide_eq_true_eq] at hearly
      obtain ⟨hv, hrag, hn⟩ := hearly
      exact (hfits hv o ho).elim (ne_true_of_eq_false hrag) (Nat.not_le.2 hn)
    simp only [hfull, Bool.false_eq_true, if_false]
    rfl
  · simp only [Bool.and_false, Bool.false_eq_true, if_false]
    rfl

/-- MERGE turns away an EOR inside a run that is not ragged. -/
theorem exec_merge_early {o : OMap} (hk : oneMarker cx (dataIns cx 1) = some k) (hv : k.kind = .eor) (ho : cx.orderOut0 = some o)
    (hrag : o.ragged = false) (hn : cx.x.rt.outCnt < o.runLen) :
    exec (.merge cx.m) s = .next (rejectAt s cx.r cx.c 0) := by
  change execMerge cx.m s = _
  rw [execMerge, cellTurn_ready hr]
  simp only [find?_refusesData_eq_none hclear, hctl, List.isEmpty_eq_false_iff.2 hne, hk, hv, ho, hrag, hn, Bool.false_eq_true, if_false,
    beq_self_eq_true, Bool.not_false, Bool.and_self, decide_true, if_true, applyTurn, hr.state]

/-- MERGE sends the VAL at the input that its CTL selects. -/
theorem exec_merge_val {c : Token} (hnone : oneMarker cx (dataIns cx 1) = none) (hc : cx.head 0 = some c)
    (hsel : c.pay.toNat % 4 ∈ dataIns cx 1) (hk : cx.head (c.pay.toNat % 4) = some k) (hv : k.kind = .val)
    (hn : cx.x.rt.outCnt < runBound cx.orderOut0) :
    exec (.merge cx.m) s =
      .next (Claims.move cx [0, c.pay.toNat % 4] (bareVal k) fun y => { y with outCnt := y.outCnt + 1 }) := by
  have hfield : fieldNat c.pay 0 2 = c.pay.toNat % 4 := rfl
  change execMerge cx.m s = _
  rw [execMerge, cellTurn_ready hr]
  simp only [find?_refusesData_eq_none hclear, hctl, List.isEmpty_eq_false_iff.2 hne, hnone, hc, hfield,
    List.contains_iff_mem.2 hsel, hk, hv, Nat.not_le.2 hn, Bool.not_true, Bool.false_eq_true, beq_self_eq_true, if_false, if_true]
  rfl

end

section
variable (hclear : ∀ p ∈ dataIns cx 0, refusesData cx p = false)
include hclear

/-- AMERGE sends the one marker that every data input heads. -/
theorem exec_amerge_marker (hk : oneMarker cx (dataIns cx 0) = some k) :
    exec (.amerge cx.m) s = .next (Claims.move cx (dataIns cx 0) (markerOf k k.pay) id) := by
  change execAmerge cx.m s = _
  rw [execAmerge, cellTurn_ready hr]
  simp only [find?_refusesData_eq_none hclear, hk]
  rfl

/-- AMERGE sends the VAL of its lowest input that heads one. -/
theorem exec_amerge_val {p : Nat} (hp : p ∈ dataIns cx 0) (hnone : oneMarker cx (dataIns cx 0) = none) (hk : cx.head p = some k)
    (hv : k.kind = .val) (hlow : ∀ q ∈ dataIns cx 0, q < p → ∀ x, cx.head q = some x → x.kind ≠ .val) :
    exec (.amerge cx.m) s = .next (Claims.move cx [p] (bareVal k) id) := by
  change execAmerge cx.m s = _
  rw [execAmerge, cellTurn_ready hr]
  simp only [find?_refusesData_eq_none hclear, hnone]
  rw [find?_eq_some_of_lowest (p := p) (dataIns_pairwise cx 0) hp]
  · simp only [hk]
    rfl
  · simp only [hk, hv, beq_self_eq_true]
  · intro q hq hlt
    cases hx : cx.head q with
    | none => rfl
    | some x => exact beq_false_of_ne (hlow q hq hlt x hx)

end

end

theorem mergesSendSelectedAndArrivingValues : Claims.MergesSendSelectedAndArrivingValues := by
  intro s cx k c hr m merged any clear
  refine ⟨fun hclear hctl hne => ⟨fun hnone hc hsel hk hv hn => ?_, fun hk heor heot => ?_, fun hk heot => ?_,
    fun o hk hv ho => ⟨fun hfits => ?_, fun hrag hn => ?_⟩⟩, fun hclear => ⟨fun hk => ?_, fun p hp hnone hk hv hlow => ?_⟩⟩
  · exact exec_merge_val hr hclear hctl hne hnone hc hsel hk hv hn
  · have hcount : mergeCount k = id := funext fun y => if_neg (not_or.2 ⟨heor, heot⟩)
    rw [exec_merge_marker hr hclear hctl hne hk fun hv => absurd hv heor, hcount]
  · have hcount : mergeCount k = fun y => { y with outCnt := 0 } := funext fun y => if_pos (.inr heot)
    rw [exec_merge_marker hr hclear hctl hne hk fun hv => by simp [heot] at hv, hcount]
  · have hcount : mergeCount k = fun y => { y with outCnt := 0 } := funext fun y => if_pos (.inl hv)
    rw [exec_merge_marker hr hclear hctl hne hk fun _ x hx => Option.some.inj (ho.symm.trans hx) ▸ hfits, hcount]
  · exact exec_merge_early hr hclear hctl hne hk hv ho hrag hn
  · exact exec_amerge_marker hr hclear hk
  · exact exec_amerge_val hr hclear hp hnone hk hv hlow

/-- Settles O8: STEER, GATE and DUP by the token at in0 and the CTL beside it, the merges by what their data inputs head. -/
theorem routingFormsMoveTokens : Obligations.RoutingFormsMoveTokens :=
  ⟨steerGateAndDupMoveTokens, mergesSendSelectedAndArrivingValues⟩

end Sys2Proof.Machine
end

section
/-! SUPPORT. Stream shaping: the turn that the remarking forms share on each token of in0, what each form does with a VAL, and the turn
of ZIP. -/

namespace Sys2Proof.Machine

/-! The turn on in0 (R41, R42, R131). -/

section
variable {cx : Cx} {k : Token} (hk : cx.offers 0 k markKinds hdrMove)
include hk

/-- A VAL inside a run of the input order is the form's to send or to drop. -/
theorem remarkTurn_val (hv : k.kind = .val) (hpos : cx.x.rt.runPos < (inOrder cx).runLen) (hrun : cx.x.rt.runIdx < (inOrder cx).runs)
    (pad : Option Effect) (f : Token → Nat → Turn) : remarkTurn cx pad f = f k cx.x.rt.runPos := by
  obtain ⟨hhead, hrefuses⟩ := hk
  simp [remarkTurn, refusesData, hhead, hrefuses, hv, hpos, hrun]

/-- A VAL where the input order has none is turned away. -/
theorem remarkTurn_val_beyond (hv : k.kind = .val) (h : (inOrder cx).runLen ≤ cx.x.rt.runPos ∨ (inOrder cx).runs ≤ cx.x.rt.runIdx)
    (pad : Option Effect) (f : Token → Nat → Turn) : remarkTurn cx pad f = .reject 0 := by
  obtain ⟨hhead, hrefuses⟩ := hk
  simp [remarkTurn, refusesData, hhead, hrefuses, hv, h]

/-- An EOR where the input order has none is turned away. -/
theorem remarkTurn_eor_misplaced (hv : k.kind = .eor) (h : misplaced (inOrder cx) cx.x.rt.runIdx cx.x.rt.runPos = true)
    (pad : Option Effect) (f : Token → Nat → Turn) : remarkTurn cx pad f = .reject 0 := by
  obtain ⟨hhead, hrefuses⟩ := hk
  simp [remarkTurn, refusesData, hhead, hrefuses, hv, h]

/-- An EOR in its place closes the run, at the run's bound or where the form does not pad. -/
theorem remarkTurn_eor_closes (hv : k.kind = .eor) (h : misplaced (inOrder cx) cx.x.rt.runIdx cx.x.rt.runPos = false)
    {pad : Option Effect} (hpad : pad = none ∨ (inOrder cx).runLen ≤ cx.x.rt.runPos) (f : Token → Nat → Turn) :
    remarkTurn cx pad f = .act { takes := [0], upd := closeIn cx } := by
  obtain ⟨hhead, hrefuses⟩ := hk
  cases pad with
  | none => simp [remarkTurn, refusesData, hhead, hrefuses, hv, h]
  | some e => simp [remarkTurn, refusesData, hhead, hrefuses, hv, h, hpad.resolve_left (Option.some_ne_none e)]

/-- An EOR that closes a run early is left at the head while the form pads the run. -/
theorem remarkTurn_eor_pads (hv : k.kind = .eor) (h : misplaced (inOrder cx) cx.x.rt.runIdx cx.x.rt.runPos = false)
    (hpos : cx.x.rt.runPos < (inOrder cx).runLen) (e : Effect) (f : Token → Nat → Turn) : remarkTurn cx (some e) f = .act e := by
  obtain ⟨hhead, hrefuses⟩ := hk
  simp [remarkTurn, refusesData, hhead, hrefuses, hv, h, hpos]

/-- Every other marker is moved. -/
theorem remarkTurn_marker (hv : k.kind ≠ .val) (heor : k.kind ≠ .eor) (pad : Option Effect) (f : Token → Nat → Turn) :
    remarkTurn cx pad f = remarkOther cx k [0] := by
  obtain ⟨hhead, hrefuses⟩ := hk
  simp only [remarkTurn, refusesData, hhead, hrefuses, Bool.false_eq_true, if_false]

end

/-- An EOR is out of place past the last run, and ahead of the bound of a run that is not ragged. -/
theorem misplaced_eq_true_iff (o : OMap) (run n : Nat) :
    misplaced o run n = true ↔ o.runs ≤ run ∨ (n < o.runLen ∧ o.ragged = false) := by
  simp [misplaced, or_comm]

/-- It is in its place where a run may close. -/
theorem misplaced_eq_false_iff (o : OMap) (run n : Nat) :
    misplaced o run n = false ↔ run < o.runs ∧ (o.runLen ≤ n ∨ o.ragged = true) := by
  rw [← Bool.not_eq_true, misplaced_eq_true_iff, not_or, Nat.not_le, not_and_or, Nat.not_lt, Bool.not_eq_false]

/-- A marker other than an EOT is moved and changes no count. -/
theorem remarkOther_moves (cx : Cx) {k : Token} (ht : k.kind ≠ .eot) (ps : List Nat) :
    applyTurn cx (remarkOther cx k ps) = Claims.move cx ps (markerOf k k.pay) id := by
  have hupd : (fun y : CellRt => if k.kind == .eot then { y with runPos := 0, runIdx := 0, outCnt := 0, phase := 0 } else y) = id :=
    funext fun y => if_neg (by simp [ht])
  simp only [remarkOther, hupd]
  rfl

/-- An EOT is moved and has every count start anew. -/
theorem remarkOther_ends (cx : Cx) {k : Token} (ht : k.kind = .eot) (ps : List Nat) :
    applyTurn cx (remarkOther cx k ps) = Claims.move cx ps (markerOf k k.pay) fun y =>
      { y with runPos := 0, runIdx := 0, outCnt := 0, phase := 0 } := by
  simp only [remarkOther, ht, beq_self_eq_true, if_true]
  rfl

/-! The forms on in0 (R138, R140). -/

/-- The remarking forms that send a VAL of in0 or drop it. -/
def Remarks (m : Mods) (i : Instr) : Prop :=
  i = .drop m ∨ i = .take m ∨ i = .mark m ∨ i = .strip m ∨ i = .voidOp m

/-- No other form has a fate for a VAL in `Claims.sends`. -/
theorem remarks_of_sends {m : Mods} {i : Instr} {n : Nat} {k : Token} {sent : Bool} (hs : Claims.sends m i n k = some sent) :
    Remarks m i := by
  unfold Claims.sends at hs
  split at hs <;> simp_all [Remarks]

/-- What VOID sends ahead of an EOR that closes a run early. -/
def voidPad (cx : Cx) : Effect :=
  { sends := cx.toAll .voidVal, upd := fun y => let z := countOut cx y; { z with runPos := z.runPos + 1 } }

/-- What a remarking form sends ahead of an EOR that closes a run early: VOID alone has something. -/
def remarkPad (cx : Cx) : Instr → Option Effect
  | .voidOp _ => some (voidPad cx)
  | _ => none

/-- What a remarking form with modifiers m does with the VAL at position n of its run. -/
def remarkVal (m : Mods) (i : Instr) (cx : Cx) (k : Token) (n : Nat) : Turn :=
  if (Claims.sends m i n k).getD false then sendElem cx k true else dropElem

section
variable (m : Mods)

/-- DROP drops the VALs before its count. -/
theorem remarkVal_drop :
    remarkVal m (.drop m) = fun cx k n => if n < m.modF 0 16 then dropElem else sendElem cx k true := by
  funext cx k n
  by_cases h : n < m.modF 0 16
  · simp [remarkVal, Claims.sends, h]
  · simp [remarkVal, Claims.sends, h, Nat.not_lt.1 h]

/-- TAKE drops those after its count. -/
theorem remarkVal_take :
    remarkVal m (.take m) = fun cx k n => if n < m.modF 0 16 then sendElem cx k true else dropElem := by
  funext cx k n
  simp [remarkVal, Claims.sends]

/-- MARK drops none. -/
theorem remarkVal_mark : remarkVal m (.mark m) = fun cx k _ => sendElem cx k true := by
  funext cx k n
  simp [remarkVal, Claims.sends]

/-- STRIP drops the void ones. -/
theorem remarkVal_strip :
    remarkVal m (.strip m) = fun cx k _ => if k.void then dropElem else sendElem cx k true := by
  funext cx k n
  cases h : k.void <;> simp [remarkVal, Claims.sends, h]

/-- VOID drops none. -/
theorem remarkVal_voidOp : remarkVal m (.voidOp m) = fun cx k _ => sendElem cx k true := by
  funext cx k n
  simp [remarkVal, Claims.sends]

end

/-- Each remarking form takes the one turn. -/
theorem exec_remarking {m : Mods} {i : Instr} (hi : Remarks m i) (s : State) :
    exec i s = cellTurn s m fun cx => remarkTurn cx (remarkPad cx i) (remarkVal m i cx) := by
  rcases hi with rfl | rfl | rfl | rfl | rfl
  · rw [remarkVal_drop]
    rfl
  · rw [remarkVal_take]
    rfl
  · rw [remarkVal_mark]
    rfl
  · rw [remarkVal_strip]
    rfl
  · rw [remarkVal_voidOp]
    rfl

/-- VOID alone pads. -/
theorem remarkPad_eq_none {m : Mods} {i : Instr} (hi : Remarks m i) (hne : i ≠ .voidOp m) (cx : Cx) : remarkPad cx i = none := by
  rcases hi with rfl | rfl | rfl | rfl | rfl
  case inr.inr.inr.inr => exact absurd rfl hne
  all_goals rfl

theorem remarkingFormsSendOrDropEachElement : Claims.RemarkingFormsSendOrDropEachElement := by
  intro s cx k i sent hr m y o hs hk
  have hform := remarks_of_sends hs
  rw [(exec_remarking hform s).trans (cellTurn_ready hr _)]
  refine ⟨fun hv hpos hrun => ?_, fun hv hout => ?_, fun hv hrun hend => ?_, fun hv hout => ?_, fun hv hpos hrun hrag hi => ?_,
    fun hv => ?_, fun hv => ?_⟩
  · rw [remarkTurn_val hk hv hpos hrun, remarkVal, hs, Option.getD_some]
    cases sent <;> rfl
  · rw [remarkTurn_val_beyond hk hv hout, applyTurn, hr.state]
  · have hplace := (misplaced_eq_false_iff o y.runIdx y.runPos).2 ⟨hrun, hend.imp_right And.left⟩
    rw [remarkTurn_eor_closes hk hv hplace (hend.symm.imp_left fun h => remarkPad_eq_none hform h.2 cx)]
    rfl
  · rw [remarkTurn_eor_misplaced hk hv ((misplaced_eq_true_iff o y.runIdx y.runPos).2 hout), applyTurn, hr.state]
  · have hplace := (misplaced_eq_false_iff o y.runIdx y.runPos).2 ⟨hrun, .inr hrag⟩
    rw [hi, remarkPad, remarkTurn_eor_pads hk hv hplace hpos]
    rfl
  · have hmarker : k.kind ≠ .val ∧ k.kind ≠ .eor ∧ k.kind ≠ .eot := by rcases hv with hv | hv | hv <;> simp [hv]
    obtain ⟨hval, heor, heot⟩ := hmarker
    rw [remarkTurn_marker hk hval heor, remarkOther_moves cx heot]
  · rw [remarkTurn_marker hk (by simp [hv]) (by simp [hv]), remarkOther_ends cx hv]

/-! REPEAT, SPLIT and ZIP (R138, R139). -/

/-- Inputs of ZIP that refuse no head and have none out of its place turn none away. -/
theorem find?_zipWrong_eq_none {cx : Cx} {o : OMap} {j : Nat} {ps : List Nat}
    (h : ∀ i p, ps[i]? = some p → refusesData cx p = false ∧ zipWrong cx o p (if i < j then 1 else 0) = false) :
    ((ps.zip (List.range 4)).find? fun pi => refusesData cx pi.1 || zipWrong cx o pi.1 (if pi.2 < j then 1 else 0)) = none := by
  rw [List.find?_eq_none]
  rintro ⟨p, i⟩ hpi
  obtain ⟨n, hn⟩ := List.getElem?_of_mem hpi
  obtain ⟨hp, hi⟩ := List.getElem?_zip_eq_some.1 hn
  have hin : n = i := by
    rw [List.getElem?_eq_some_iff] at hi
    simpa using hi.2
  subst hin
  simp [h n p hp]

section
variable {s : State} {cx : Cx} {k : Token} (hr : CellReady s cx) (hv : k.kind = .val) (hpos : cx.x.rt.runPos < (inOrder cx).runLen)
  (hrun : cx.x.rt.runIdx < (inOrder cx).runs)
include hr hv

section
variable (hk : cx.offers 0 k markKinds hdrMove)
include hpos hrun hk

/-- REPEAT sends a copy of its VAL, the last one where the appended level ends. -/
theorem exec_repeat_val : exec (.repeatOp cx.m) s =
    .next (applyTurn cx (sendElem cx k ((outOrder cx).runLen ≤ cx.x.rt.phase + 1))) := by
  change execRepeatOp cx.m s = _
  rw [execRepeatOp, cellTurn_ready hr, remarkTurn_val hk hv hpos hrun]

/-- SPLIT sends the element at a position of the removed level on the destination of that number. -/
theorem exec_split_val : exec (.split cx.m) s = .next (commit cx
    { takes := [0]
      sends := if cx.x.rt.runPos ∈ cx.x.cfg.dataOuts then [(cx.x.rt.runPos, bareVal k)] else []
      val := if k.void then none else some k.pay
      upd := fun z =>
        let z := if cx.x.rt.runPos + 1 = (inOrder cx).runLen then Claims.countsOut cx z else z
        { z with runPos := z.runPos + 1 } }) := by
  change execSplit cx.m s = _
  rw [execSplit, cellTurn_ready hr, remarkTurn_val hk hv hpos hrun]
  simp only [List.contains_iff_mem, beq_iff_eq]
  rfl

end

/-- ZIP sends the VAL of the input whose turn it is, and takes it. -/
theorem exec_zip_val {ks : List Token}
    (hclear : ∀ i p, (dataIns cx 0)[i]? = some p →
      refusesData cx p = false ∧ zipWrong cx (inOrder cx) p (if i < cx.x.rt.phase then 1 else 0) = false)
    (hheads : cx.heads ((dataIns cx 0).drop cx.x.rt.phase) = some (k :: ks))
    (hsame : cx.x.rt.phase = 0 → ∀ x ∈ ks, x.kind = .val) :
    exec (.zip cx.m) s = .next (Claims.move cx [(dataIns cx 0).getD cx.x.rt.phase 0] (bareVal k) fun z =>
      let z := Claims.countsOut cx z
      if cx.x.rt.phase + 1 = (dataIns cx 0).length then { z with phase := 0, runPos := z.runPos + 1 }
      else { z with phase := cx.x.rt.phase + 1 }) := by
  have hkinds : (cx.x.rt.phase == 0 && ks.any fun x => x.kind != .val) = false := by
    by_cases hj : cx.x.rt.phase = 0
    · simpa [hj] using hsame hj
    · simp [hj]
  change execZip cx.m s = _
  rw [execZip, cellTurn_ready hr]
  simp only [find?_zipWrong_eq_none hclear, hheads, hv, hkinds, Bool.false_eq_true, if_false, beq_iff_eq]
  rfl

end

theorem repeatZipAndSplitElements : Claims.RepeatZipAndSplitElements := by
  intro s cx k hr m y o hv hpos hrun
  refine ⟨fun hk => ⟨fun hn => ?_, fun hn => ?_, ?_⟩, fun ps ks hps hclear hheads hsame _ => ?_⟩
  · rw [exec_repeat_val hr hv hpos hrun hk, decide_eq_false (Nat.not_le.2 hn)]
    rfl
  · rw [exec_repeat_val hr hv hpos hrun hk, decide_eq_true hn]
    rfl
  · exact exec_split_val hr hv hpos hrun hk
  · subst hps
    exact exec_zip_val hr hv hclear hheads hsame

/-- Settles O9: the remarking forms by the token at in0 and its place in the input order, REPEAT, ZIP and SPLIT on a VAL in its place. -/
theorem streamShapingForms : Obligations.StreamShapingForms :=
  ⟨remarkingFormsSendOrDropEachElement, repeatZipAndSplitElements⟩

end Sys2Proof.Machine
end

section
/-! SUPPORT. Translations beside what earlier ones have cached: the table entries behind a translation, and an access that its cached
translation serves. -/

namespace Sys2Proof.Machine

/-! Entries of tables of this module (R164). -/

/-- The n bytes at physical address a lie on this module, can be read, and are v. -/
structure State.HoldsEntry (s : State) (a n : Nat) {k : Nat} (v : BitVec k) : Prop where
  here : s.isLocal a = true
  sound : s.failing a n = false
  value : BitVec.ofNat k (physNat s a n) = v

/-- The extent list at a has the entries ys and behind them x. -/
def State.HoldsExtents (s : State) (a : Nat) : List (BitVec 128) → BitVec 128 → Prop
  | [], x => s.HoldsEntry a 16 x
  | y :: ys, x => s.HoldsEntry a 16 y ∧ s.HoldsExtents (a + 16) ys x

/-- The tables of this module give what a cached translation holds. -/
structure Xlate.Sound (e : Xlate) (s : State) : Prop where
  desc : s.HoldsEntry (s.module.otb.toNat + 32 * e.oid) 32 e.desc
  valid : descValid e.desc = true
  direct : e.desc.getLsbD 11 = false
  extents : s.HoldsExtents (fieldNat e.desc 200 56) e.prior e.ext
  within : e.prior.length < fieldNat e.desc 184 16
  clean : (descClean e.desc && extClean e.ext) = true
  page : s.HoldsEntry (fieldNat e.ext 8 56 + 16 * e.page) 16 e.pdesc

/-- What a translation of offset o comes to by a cached one that serves it. -/
def Xlate.comesTo (e : Xlate) (s : State) (o : Nat) (writes stash : Bool) : Xres :=
  if fieldNat e.desc 140 44 ≤ o then .bad fcBounds else pageCheck s e.desc e.ext e.pdesc o writes stash

theorem Xlate.serves_iff (e : Xlate) (blk oid o : Nat) : e.serves blk oid o = true ↔
    e.blk = blk ∧ e.oid = oid ∧ extHas e.ext o = true ∧ (∀ y ∈ e.prior, extHas y o = false) ∧
      (o - extXofs e.ext) / pageSize (fieldNat e.ext 6 2) = e.page := by
  simp [Xlate.serves, and_assoc]

/-- An offset that may be written may be read, at the same place: a read makes fewer of the checks. -/
theorem Xlate.comesTo_reads {e : Xlate} {s : State} {o pa : Nat} {st : Bool} (h : e.comesTo s o true st = .ok pa) (w : Bool) :
    e.comesTo s o w st = .ok pa := by
  cases w with
  | true => exact h
  | false =>
    unfold Xlate.comesTo pageCheck at h ⊢
    grind

/-- The tables of this module, and the errors of its memory, are the same. -/
structure SameTables (s t : State) : Prop where
  module : t.module = s.module
  mem : t.mem = s.mem
  bad : t.bad = s.bad

namespace SameTables

variable {s t : State} (h : SameTables s t)
include h

theorem isLocal (a : Nat) : t.isLocal a = s.isLocal a := by rw [State.isLocal, State.isLocal, h.module]

theorem entry {a n k : Nat} {v : BitVec k} (hv : s.HoldsEntry a n v) : t.HoldsEntry a n v := by
  obtain ⟨hhere, hsound, hvalue⟩ := hv
  refine ⟨(h.isLocal a).trans hhere, ?_, ?_⟩
  · rw [← hsound, State.failing, State.failing, h.isLocal, h.bad]
  · rw [← hvalue, physNat, physNat, physBytes, physBytes, h.isLocal, h.mem, if_pos hhere, if_pos hhere]

theorem extents {a : Nat} {ys : List (BitVec 128)} {x : BitVec 128} (hx : s.HoldsExtents a ys x) : t.HoldsExtents a ys x := by
  induction ys generalizing a with
  | nil => exact h.entry hx
  | cons y ys ih => exact ⟨h.entry hx.1, ih hx.2⟩

theorem xlate {e : Xlate} (he : e.Sound s) : e.Sound t :=
  ⟨h.module ▸ h.entry he.desc, he.valid, he.direct, h.extents he.extents, he.within, he.clean, h.entry he.page⟩

end SameTables

theorem pageCheck_module {s t : State} (h : t.module = s.module) (d : BitVec 256) (x g : BitVec 128) (o : Nat) (w st : Bool) :
    pageCheck t d x g o w st = pageCheck s d x g o w st := by
  have hbacked (a : Nat) : t.isBacked a = s.isBacked a := by
    unfold State.isBacked State.isLocal
    rw [h]
  simp only [pageCheck, hbacked]

theorem Xlate.comesTo_module {s t : State} (h : t.module = s.module) (e : Xlate) (o : Nat) (w st : Bool) :
    e.comesTo t o w st = e.comesTo s o w st := by
  rw [comesTo, comesTo, pageCheck_module h]

/-! The walk of the tables (R164). -/

theorem findExtent_eq {s : State} (hwants : s.wants = []) {o : Nat} {x : BitVec 128} (hx : extHas x o = true) {ys : List (BitVec 128)}
    (hys : ∀ y ∈ ys, extHas y o = false) {a n : Nat} (h : s.HoldsExtents a ys x) (hn : ys.length < n) (seen : List (BitVec 128)) :
    findExtent a o n seen s = (.inr (x, seen ++ ys), s) := by
  induction ys generalizing a n seen with
  | nil =>
    obtain ⟨n, rfl⟩ := Nat.exists_eq_succ_of_ne_zero (Nat.ne_zero_of_lt hn)
    have h : s.HoldsEntry a 16 x := h
    simp [findExtent, needPhys_local h.here, h.sound, h.value, hwants, hx]
  | cons y ys ih =>
    obtain ⟨n, rfl⟩ := Nat.exists_eq_succ_of_ne_zero (Nat.ne_zero_of_lt hn)
    obtain ⟨hy, h⟩ := h
    have hrest := ih (fun z hz => hys z (List.mem_cons_of_mem _ hz)) h (Nat.lt_of_succ_lt_succ hn) (seen ++ [y])
    rw [findExtent, needPhys_local hy.here, if_neg (by simp [hy.sound]), if_neg (by simp [hwants]), hy.value,
      if_neg (by simp [hys y List.mem_cons_self]), hrest, List.append_assoc]
    rfl

/-- An extent that is found stands in the list, behind entries that do not map the offset. -/
theorem findExtent_holds {s : State} (h : s.Unanswered) {a o n : Nat} {seen ys : List (BitVec 128)} {x : BitVec 128}
    (hx : (findExtent a o n seen s).1 = .inr (x, ys)) : ∃ zs, ys = seen ++ zs ∧ s.HoldsExtents a zs x ∧ zs.length < n ∧
      (∀ z ∈ zs, extHas z o = false) ∧ extHas x o = true := by
  induction n generalizing a seen with
  | zero => exact absurd hx (by simp [findExtent])
  | succ n ih =>
    rw [findExtent] at hx
    split at hx
    · exact absurd hx (by simp)
    · next hsound =>
      split at hx
      · exact absurd hx (by simp)
      · next hwants =>
        have hl : s.isLocal a = true := isLocal_of_needPhys h (n := 16) (by omega) (by simpa using hwants)
        rw [needPhys_local hl] at hx hsound
        have hentry : s.HoldsEntry a 16 (BitVec.ofNat 128 (physNat s a 16)) := ⟨hl, by simpa using hsound, rfl⟩
        split at hx
        · next hhas =>
          obtain ⟨rfl, rfl⟩ : BitVec.ofNat 128 (physNat s a 16) = x ∧ seen = ys := by simpa using hx
          exact ⟨[], by simp, hentry, by simp, by simp, hhas⟩
        · next hhas =>
          obtain ⟨zs, rfl, hzs, hlen, hmiss, hx⟩ := ih hx
          refine ⟨_ :: zs, by simp, ⟨hentry, hzs⟩, Nat.succ_lt_succ hlen, ?_, hx⟩
          simpa using ⟨Bool.eq_false_iff.2 hhas, hmiss⟩

/-- s with the translation cached that has come to x. -/
def State.cacheIf (s : State) (d : Nat) (e : Xlate) (x : Xres) : State :=
  match x with
  | .ok _ => s.updDie d fun y => { y with xlates := y.xlates ++ [e] }
  | _ => s

theorem translateWalk_eq {s : State} (hwants : s.wants = []) {e : Xlate} (he : e.Sound s) {blk oid o : Nat}
    (hs : e.serves blk oid o = true) (d : Nat) (w st : Bool) : translateWalk s d blk oid o w st e.desc =
      (pageCheck s e.desc e.ext e.pdesc o w st, s.cacheIf d e (pageCheck s e.desc e.ext e.pdesc o w st)) := by
  obtain ⟨rfl, rfl, hhas, hprior, hpage⟩ := (e.serves_iff _ _ _).1 hs
  rw [translateWalk, findExtent_eq hwants hhas hprior he.extents he.within]
  dsimp only
  have hclean : (!descClean e.desc || !extClean e.ext) = false := by rw [← Bool.not_and, he.clean]; rfl
  rw [if_neg (by simp [hclean]), hpage, needPhys_local he.page.here, if_neg (by simp [he.page.sound]), he.page.value]
  generalize pageCheck s e.desc e.ext e.pdesc o w st = r
  cases r <;> rfl

theorem translate_hit {s : State} {d blk oid : Nat} (hl : ¬ s.module.otlen.toNat ≤ oid) {o : Nat} {e : Xlate}
    (h : (s.die d).xlates.find? (·.serves blk oid o) = some e) (w st : Bool) :
    translate s d blk oid o w st = (e.comesTo s o w st, s) := by
  rw [translate, if_neg hl, h]
  rfl

/-- A translation that no cached one serves comes to what the tables give, and is cached where it comes out. -/
theorem translate_miss {s : State} (hwants : s.wants = []) {d blk oid : Nat} (hl : ¬ s.module.otlen.toNat ≤ oid) {o : Nat}
    (h : (s.die d).xlates.find? (·.serves blk oid o) = none) {e : Xlate} (he : e.Sound s) (hs : e.serves blk oid o = true) (w st : Bool) :
    translate s d blk oid o w st = (e.comesTo s o w st, s.cacheIf d e (e.comesTo s o w st)) := by
  obtain ⟨-, rfl, -, -, -⟩ := (e.serves_iff _ _ _).1 hs
  rw [translate, if_neg hl, h]
  dsimp only
  rw [needPhys_local he.desc.here, if_neg (by simp [he.desc.sound]), he.desc.value, if_neg (by simp [he.valid]), Xlate.comesTo]
  split
  · rfl
  · rw [if_neg (by rw [he.direct]; exact Bool.false_ne_true), translateWalk_eq hwants he hs]

theorem translate_ok_listed {s : State} {d blk oid o pa : Nat} {w st : Bool} (h : (translate s d blk oid o w st).1 = .ok pa) :
    ¬ s.module.otlen.toNat ≤ oid := by
  intro hl
  rw [translate, if_pos hl] at h
  exact absurd h (by simp)

theorem translateWalk_sound {s : State} (h : s.Unanswered) {d blk oid o pa : Nat} {w st : Bool} {dsc : BitVec 256}
    (hdesc : s.HoldsEntry (s.module.otb.toNat + 32 * oid) 32 dsc) (hvalid : descValid dsc = true) (hdirect : dsc.getLsbD 11 = false)
    (hok : (translateWalk s d blk oid o w st dsc).1 = .ok pa) : ∃ e : Xlate, e.Sound s ∧ e.serves blk oid o = true := by
  have hstay (x) := findExtent_found h (a := fieldNat dsc 200 56) (o := o) (n := fieldNat dsc 184 16) (seen := []) (x := x)
  have hfound (x) (ys) :=
    findExtent_holds h (a := fieldNat dsc 200 56) (o := o) (n := fieldNat dsc 184 16) (seen := []) (x := x) (ys := ys)
  unfold translateWalk at hok
  generalize findExtent (fieldNat dsc 200 56) o (fieldNat dsc 184 16) [] s = r at hstay hfound hok
  obtain ⟨code | ⟨x, ys⟩, u⟩ := r
  · exact absurd hok (by simp)
  · obtain rfl : u = s := hstay _ rfl
    obtain ⟨_, rfl, hys, hlen, hmiss, hx⟩ := hfound x ys rfl
    dsimp only at hok
    split at hok
    · exact absurd hok (by simp)
    · next hclean =>
      generalize hb : (o - extXofs x) / pageSize (fieldNat x 6 2) = page at hok
      cases hl : u.isLocal (fieldNat x 8 56 + 16 * page) with
      | false =>
        rw [physNat_unanswered h hl, pageCheck_zero] at hok
        exact absurd hok (by split <;> simp)
      | true =>
        rw [needPhys_local hl] at hok
        split at hok
        · exact absurd hok (by simp)
        · next hsound =>
          refine ⟨⟨blk, oid, dsc, x, page, BitVec.ofNat 128 (physNat u (fieldNat x 8 56 + 16 * page) 16), ys⟩,
            ⟨hdesc, hvalid, hdirect, hys, hlen, by simpa using hclean, hl, by simpa using hsound, rfl⟩, ?_⟩
          exact (Xlate.serves_iff _ _ _ _).2 ⟨rfl, rfl, hx, hmiss, hb⟩

/-- Behind a translation that comes out without a cached one stand entries of the tables. -/
theorem translate_sound {s : State} (h : s.Unanswered) {d blk oid o pa : Nat} {w st : Bool}
    (hmiss : (s.die d).xlates.find? (·.serves blk oid o) = none) (hok : (translate s d blk oid o w st).1 = .ok pa) :
    ∃ e : Xlate, e.Sound s ∧ e.serves blk oid o = true := by
  rw [translate, if_neg (translate_ok_listed hok), hmiss] at hok
  dsimp only at hok
  cases hl : s.isLocal (s.module.otb.toNat + 32 * oid) with
  | false =>
    rw [physNat_unanswered h hl] at hok
    exact absurd hok (by split <;> simp [descValid])
  | true =>
    rw [needPhys_local hl] at hok
    split at hok
    · exact absurd hok (by simp)
    · next hsound =>
      split at hok
      · exact absurd hok (by simp)
      · next hvalid =>
        split at hok
        · exact absurd hok (by simp)
        · split at hok
          · exact absurd hok (by simp)
          · next hdirect =>
            exact translateWalk_sound h ⟨hl, by simpa using hsound, rfl⟩ (by simpa using hvalid) (by simpa using hdirect) hok

/-- A translation that comes out is a cached one's or the tables', and caches that one. -/
theorem translate_cases {s : State} (h : s.Unanswered) (hwants : s.wants = []) {d blk oid o pa : Nat} {w st : Bool}
    (hok : (translate s d blk oid o w st).1 = .ok pa) : ∃ e : Xlate, e.serves blk oid o = true ∧ e.comesTo s o w st = .ok pa ∧
      (((s.die d).xlates.find? (·.serves blk oid o) = some e ∧ translate s d blk oid o w st = (.ok pa, s)) ∨
        ((s.die d).xlates.find? (·.serves blk oid o) = none ∧ e.Sound s ∧
          translate s d blk oid o w st = (.ok pa, s.updDie d fun y => { y with xlates := y.xlates ++ [e] }))) := by
  have hl := translate_ok_listed hok
  cases hfind : (s.die d).xlates.find? (·.serves blk oid o) with
  | some e =>
    rw [translate_hit hl hfind] at hok ⊢
    have hok : e.comesTo s o w st = .ok pa := hok
    exact ⟨e, by simpa using List.find?_some hfind, hok, .inl ⟨rfl, by rw [hok]⟩⟩
  | none =>
    obtain ⟨e, he, hs⟩ := translate_sound h hfind hok
    rw [translate_miss hwants hl hfind he hs] at hok ⊢
    have hok : e.comesTo s o w st = .ok pa := hok
    exact ⟨e, hs, hok, .inr ⟨rfl, he, by rw [hok]; rfl⟩⟩

end Sys2Proof.Machine
end

section
/-! SUPPORT. Synchronising accesses at home: what one reads and writes, and the accesses of a step that an earlier one of it leaves at
their places. -/

namespace Sys2Proof.Machine

/-! What an access leaves of translations (R164, R165). -/

/-- Cached translations stay, and what they are checked against. -/
structure KeepsXlates (s t : State) : Prop where
  module : t.module = s.module
  xlates : ∀ d, ∃ l, (t.die d).xlates = (s.die d).xlates ++ l

theorem KeepsXlates.trans {s t u : State} (h : KeepsXlates s t) (k : KeepsXlates t u) : KeepsXlates s u := by
  refine ⟨k.module.trans h.module, fun d => ?_⟩
  obtain ⟨l, hl⟩ := h.xlates d
  obtain ⟨l', hk⟩ := k.xlates d
  exact ⟨l ++ l', by rw [hk, hl, List.append_assoc]⟩

theorem KeepsXlates.of_same {s t : State} (hm : t.module = s.module) (hx : ∀ d, (t.die d).xlates = (s.die d).xlates) :
    KeepsXlates s t := ⟨hm, fun d => ⟨[], by rw [hx, List.append_nil]⟩⟩

/-- Regions stand where they stood, with the traps of their cells. -/
def KeepsTraps (s t : State) : Prop :=
  ∀ d b r, s.region d b = some r → ∃ r', t.region d b = some r' ∧ r'.cellTraps = r.cellTraps

/-- An update of every region that keeps its place and its traps. -/
theorem KeepsTraps.of_map {s t : State} {f : Region → Region}
    (hf : ∀ r, (f r).die = r.die ∧ (f r).rblk = r.rblk ∧ (f r).cellTraps = r.cellTraps) (h : t.regions = s.regions.map f) :
    KeepsTraps s t := by
  intro d b r hr
  refine ⟨f r, ?_, (hf r).2.2⟩
  have hcomp : (fun r : Region => r.die == d && r.rblk == b) ∘ f = fun r => r.die == d && r.rblk == b := by
    funext x
    simp [hf x]
  rw [State.region, h, List.find?_map, hcomp]
  exact congrArg (Option.map f) hr

/-- What a synchronising read leaves alone: all but lines, and translations newly cached, which the tables give. -/
structure Reads (s t : State) : Prop where
  requests : SameRequests s t
  tables : SameTables s t
  dies : t.dies.length = s.dies.length
  xlates : ∀ d, ∃ l, (t.die d).xlates = (s.die d).xlates ++ l ∧ ∀ e ∈ l, e.Sound s
  traps : KeepsTraps s t

theorem SameRequests.unanswered {s t : State} (h : SameRequests s t) (hs : s.Unanswered) : t.Unanswered :=
  ⟨by rw [h.words, h.focus]; exact hs.told, h.puts.trans hs.puts⟩

namespace Reads

variable {s t u : State}

theorem refl (s : State) : Reads s s :=
  ⟨⟨rfl, rfl, rfl, rfl, rfl, rfl⟩, ⟨rfl, rfl, rfl⟩, rfl, fun _ => ⟨[], by simp, by simp⟩, fun _ _ r h => ⟨r, h, rfl⟩⟩

theorem keeps (h : Reads s t) : KeepsXlates s t :=
  ⟨h.tables.module, fun d => (h.xlates d).imp fun _ => And.left⟩

theorem trans (h : Reads s t) (k : Reads t u) : Reads s u := by
  refine ⟨h.requests.trans k.requests, ⟨?_, ?_, ?_⟩, k.dies.trans h.dies, fun d => ?_, fun d b r hr => ?_⟩
  · exact k.tables.module.trans h.tables.module
  · exact k.tables.mem.trans h.tables.mem
  · exact k.tables.bad.trans h.tables.bad
  · obtain ⟨l, hl, hsound⟩ := h.xlates d
    obtain ⟨l', hk, hsound'⟩ := k.xlates d
    have hback : SameTables t s := ⟨h.tables.module.symm, h.tables.mem.symm, h.tables.bad.symm⟩
    refine ⟨l ++ l', by rw [hk, hl, List.append_assoc], fun e he => ?_⟩
    exact (List.mem_append.1 he).elim (hsound e) fun he => hback.xlate (hsound' e he)
  · obtain ⟨r', hr', ht⟩ := h.traps d b r hr
    obtain ⟨r'', hr'', ht'⟩ := k.traps d b r' hr'
    exact ⟨r'', hr'', ht'.trans ht⟩

/-- A sound translation newly cached. -/
theorem cached {d : Nat} {e : Xlate} (he : e.Sound s) : Reads s (s.updDie d fun y => { y with xlates := y.xlates ++ [e] }) := by
  refine ⟨⟨rfl, rfl, rfl, rfl, rfl, rfl⟩, ⟨rfl, rfl, rfl⟩, length_modNth _ _ _, fun j => ?_, fun _ _ r h => ⟨r, h, rfl⟩⟩
  by_cases hj : j = d
  · subst hj
    by_cases hd : j < s.dies.length
    · exact ⟨[e], by rw [State.die_updDie_same hd], by simpa using he⟩
    · exact ⟨[], by rw [State.die, State.updDie_dies, modNth_of_length_le (Nat.not_lt.1 hd), List.append_nil]; rfl, by simp⟩
  · exact ⟨[], by rw [State.die_updDie_other s d j _ hj, List.append_nil], by simp⟩

/-- A line dropped from a tile's L1 and its line buffers. -/
theorem dropLine (s : State) (d blk line : Nat) : Reads s (dropLine s d blk line) := by
  refine ⟨⟨rfl, rfl, rfl, rfl, rfl, rfl⟩, ⟨rfl, rfl, rfl⟩, length_modNth _ _ _, fun j => ⟨[], ?_, by simp⟩,
    .of_map (fun r => ?_) rfl⟩
  · rw [List.append_nil]
    exact getD_modNth_map Die.xlates (fun x => { x with lines := x.lines.filter fun l => !(l.blk == blk && l.line == line) })
      (fun _ => rfl) s.dies d j .reset
  · dsimp only
    split <;> exact ⟨rfl, rfl, rfl⟩

theorem bypass (s : State) (md : Mode) (cs : List Chunk) : Reads s (bypass s md cs) := by
  cases cs with
  | nil => exact refl s
  | cons c cs => exact dropLine s _ _ _

/-- A translation that comes out still does so, at the same place, after a read: one cached meanwhile gives what the tables give. -/
theorem translate_ok (h : Reads s t) (hs : s.Unanswered) (hwants : s.wants = []) {d blk oid o pa : Nat} {w st : Bool}
    (hok : (translate s d blk oid o w st).1 = .ok pa) : (translate t d blk oid o w st).1 = .ok pa := by
  have hl := translate_ok_listed hok
  have hlt : ¬ t.module.otlen.toNat ≤ oid := by rwa [h.tables.module]
  have hwants' : t.wants = [] := h.requests.wants.trans hwants
  obtain ⟨l, hxl, hsound⟩ := h.xlates d
  have happend : (t.die d).xlates.find? (·.serves blk oid o) =
      ((s.die d).xlates.find? (·.serves blk oid o)).or (l.find? (·.serves blk oid o)) := by rw [hxl, List.find?_append]
  obtain ⟨e, hserves, hcomes, ⟨hfind, -⟩ | ⟨hfind, he, -⟩⟩ := translate_cases hs hwants hok
  · rw [hfind] at happend
    rw [translate_hit hlt happend, Xlate.comesTo_module h.tables.module]
    exact hcomes
  · rw [hfind, Option.none_or] at happend
    cases hnew : l.find? (·.serves blk oid o) with
    | none =>
      rw [translate_miss hwants' hlt (happend.trans hnew) (h.tables.xlate he) hserves, Xlate.comesTo_module h.tables.module]
      exact hcomes
    | some e' =>
      have hserves' : e'.serves blk oid o = true := by simpa using List.find?_some hnew
      rw [translate_hit hlt (happend.trans hnew), Xlate.comesTo_module h.tables.module, ← hok,
        translate_miss hwants hl hfind (hsound e' (List.mem_of_find?_eq_some hnew)) hserves']

end Reads

/-! Accesses that stay at their places (R164). -/

/-- An access at home whose translation is cached. -/
structure CachedHome (s : State) (md : Mode) (oid o n a : Nat) (writes : Bool) : Prop extends AtHome s md oid o n a writes where
  hit : ((s.die md.die).xlates.find? (·.serves md.blk oid o)).isSome

theorem CachedHome.translate_eq {s : State} {md : Mode} {oid o n a : Nat} {w : Bool} (h : CachedHome s md oid o n a w) :
    (translate s md.die md.blk oid o w md.stash).2 = s := by
  obtain ⟨pa, hok, -, -⟩ := h.placed
  obtain ⟨e, he⟩ := Option.isSome_iff_exists.1 h.hit
  rw [translate_hit (translate_ok_listed hok) he]

/-- An access whose translation is cached stays where it is while cached translations stay. -/
theorem CachedHome.mono {s t : State} {md : Mode} {oid o n a : Nat} {w : Bool} (h : CachedHome s md oid o n a w)
    (k : KeepsXlates s t) : CachedHome t md oid o n a w := by
  obtain ⟨pa, hok, hlocal, ha⟩ := h.placed
  obtain ⟨e, he⟩ := Option.isSome_iff_exists.1 h.hit
  obtain ⟨l, hl⟩ := k.xlates md.die
  have hfind : (t.die md.die).xlates.find? (·.serves md.blk oid o) = some e := by rw [hl, List.find?_append, he, Option.some_or]
  have hlisted := translate_ok_listed hok
  refine ⟨⟨h.some_, h.inOffset, h.inGranule, pa, ?_, ?_, ha⟩, by rw [hfind]; rfl⟩
  · rw [translate_hit (by rwa [k.module]) hfind, Xlate.comesTo_module k.module, ← hok, translate_hit hlisted he]
  · rwa [State.isLocal, k.module]

/-- The first n bytes of an access whose translation is cached. -/
theorem CachedHome.shorter {s : State} {md : Mode} {oid o m n a : Nat} {w : Bool} (h : CachedHome s md oid o m a w)
    (hn : 0 < n) (hnm : n ≤ m) : CachedHome s md oid o n a w :=
  ⟨⟨hn, (Nat.add_le_add_left hnm _).trans h.inOffset, (Nat.add_le_add_left hnm _).trans h.inGranule, h.placed⟩, h.hit⟩

section
variable {s : State} {md : Mode} {oid o n a : Nat} {w : Bool}

/-- An access that may write may be made as one that reads. -/
theorem AtHome.reads (h : AtHome s md oid o n a true) (hs : s.Unanswered) (hwants : s.wants = []) (w : Bool) :
    AtHome s md oid o n a w := by
  obtain ⟨pa, hok, hlocal, ha⟩ := h.placed
  refine ⟨h.some_, h.inOffset, h.inGranule, pa, ?_, hlocal, ha⟩
  have hl := translate_ok_listed hok
  obtain ⟨e, hserves, hcomes, ⟨hfind, -⟩ | ⟨hfind, he, -⟩⟩ := translate_cases hs hwants hok
  · rw [translate_hit hl hfind]
    exact e.comesTo_reads hcomes w
  · rw [translate_miss hwants hl hfind he hserves]
    exact e.comesTo_reads hcomes w

/-- An access at home is at the same place after a read. -/
theorem AtHome.after_reads {t : State} (h : AtHome s md oid o n a w) (hs : s.Unanswered) (hwants : s.wants = []) (k : Reads s t) :
    AtHome t md oid o n a w := by
  obtain ⟨pa, hok, hlocal, ha⟩ := h.placed
  exact ⟨h.some_, h.inOffset, h.inGranule, pa, k.translate_ok hs hwants hok, by rwa [k.tables.isLocal], ha⟩

/-- Translating an access at home caches its translation, if it is not cached yet. -/
theorem AtHome.translated (h : AtHome s md oid o n a w) (hs : s.Unanswered) (hwants : s.wants = []) (hd : md.die < s.dies.length) :
    Reads s (translate s md.die md.blk oid o w md.stash).2 ∧
      CachedHome (translate s md.die md.blk oid o w md.stash).2 md oid o n a w := by
  obtain ⟨pa, hok, -, -⟩ := h.placed
  obtain ⟨e, hserves, -, ⟨hfind, htr⟩ | ⟨hfind, he, htr⟩⟩ := translate_cases hs hwants hok
  · rw [htr]
    exact ⟨.refl s, h, by rw [hfind]; rfl⟩
  · rw [htr]
    refine ⟨.cached he, h.after_reads hs hwants (.cached he), ?_⟩
    rw [State.die_updDie_same hd]
    simp [hserves]

/-- An access at home is planned as its bytes, in the state that its translation leaves. -/
theorem AtHome.plan_translated (h : AtHome s md oid o n a w) (hs : s.Unanswered) :
    plan s md oid w (pieces o n) = (.bytes (homeChunks a n), (translate s md.die md.blk oid o w md.stash).2) := by
  obtain ⟨u, -, hplan⟩ := h.plan_eq hs
  obtain ⟨pa, hok, -, -⟩ := h.placed
  have hstate : (plan s md oid w (pieces o n)).2 = (translate s md.die md.blk oid o w md.stash).2 := by
    rw [pieces_one h.some_ h.inOffset, plan]
    generalize translate s md.die md.blk oid o w md.stash = x at hok
    obtain ⟨x, v⟩ := x
    obtain rfl : x = .ok pa := hok
    rfl
  rw [hplan] at hstate ⊢
  rw [← hstate]

/-! Reading (R166, R169). -/

/-- Bytes at home that bypass the L1 are read from memory. -/
theorem readChunks_bypassing (s : State) {md : Mode} (hl1 : md.l1 = false) (a n : Nat) :
    readChunks s md (homeChunks a n) = (memReadN s.mem a n, s) := by
  induction n generalizing a with
  | zero => rfl
  | succ n ih =>
    have hread : readChunk s md (.at a) = (memRead s.mem a, s) := by simp [readChunk, heldLine, hl1]
    rw [homeChunks_succ, readChunks, hread, memReadN]
    dsimp only
    rw [ih]

theorem AtHome.no_bad_chunk (h : AtHome s md oid o n a w) {u : State} (hbad : a / 64 ∉ u.bad) :
    (homeChunks a n).findIdx? (chunkFails u) = none := by
  rw [List.findIdx?_eq_none_iff]
  intro c hc
  obtain ⟨i, hi, rfl⟩ := List.mem_map.1 hc
  simp [chunkFails, h.same_granule (List.mem_range.1 hi), hbad]

/-- A synchronising read at home gives the bytes of memory, and leaves its translation cached. -/
theorem AtHome.syncRead_eq (h : AtHome s md oid o n a w) (hs : s.Unanswered) (hwants : s.wants = []) (hd : md.die < s.dies.length)
    (hbad : a / 64 ∉ s.bad) : ∃ u, syncRead s md oid o n w = (0, leNat (memReadN s.mem a n), u) ∧ Reads s u ∧
      CachedHome u md oid o n a w := by
  obtain ⟨hreads, hcached⟩ := h.translated hs hwants hd
  have hplan := h.plan_translated hs
  generalize (translate s md.die md.blk oid o w md.stash).2 = v at hreads hcached hplan
  have hdrop := Reads.bypass v { md with l1 := false } (homeChunks a n)
  refine ⟨_, ?_, hreads.trans hdrop, hcached.mono hdrop.keeps⟩
  rw [← hreads.tables.bad] at hbad
  rw [syncRead, rmwAt, hplan]
  dsimp only
  rw [needChunks_home, h.no_bad_chunk hbad, readChunks_bypassing _ rfl, hreads.tables.mem]

/-! Writing (R166, R169). -/

theorem xlates_of_sameDies {s t : State} (h : SameDies s t) (d : Nat) : (t.die d).xlates = (s.die d).xlates := by
  obtain ⟨l, q, hl⟩ := h d
  rw [hl]

/-- A byte written past the L1 leaves translations alone. -/
theorem writeChunk_keepsXlates (s : State) {md : Mode} (hl1 : md.l1 = false) (a : Nat) (b : Byte) :
    KeepsXlates s (writeChunk s md (.at a) b) := by
  have hwake (u : State) (hu : u.module = s.module) (hdies : u.dies = s.dies) : KeepsXlates s (wake u (a / 64)) := by
    refine .of_same ((tellPeers_same _ _).module.trans hu) fun d => ?_
    rw [xlates_of_sameDies (sameDies_wake u _), State.die, State.die, hdies]
  simp only [writeChunk, hl1, Bool.false_eq_true, if_false]
  split
  · exact hwake _ rfl rfl
  · exact hwake _ rfl rfl

theorem writeChunks_keepsXlates (s : State) {md : Mode} (hl1 : md.l1 = false) (a : Nat) (bs : List Byte) :
    KeepsXlates s (writeChunks s md (homeChunks a bs.length) bs) := by
  induction bs generalizing s a with
  | nil => exact .of_same rfl fun _ => rfl
  | cons b bs ih =>
    rw [List.length_cons, homeChunks_succ, writeChunks]
    exact (writeChunk_keepsXlates s hl1 a b).trans (ih _ _)

/-- A synchronising write at home whose translation is cached writes its bytes. -/
theorem CachedHome.syncWrite_eq (h : CachedHome s md oid o n a true) (hs : s.Unanswered) (task v : Nat) :
    (syncWrite s md task oid o n v).mem = memWriteN s.mem a (natLe n v) ∧ SameRequests s (syncWrite s md task oid o n v) ∧
      KeepsXlates s (syncWrite s md task oid o n v) := by
  generalize hbs : natLe n v = bs
  have hlen : bs.length = n := by rw [← hbs, natLe_length]
  have hplan := h.plan_translated hs
  rw [h.translate_eq, ← hlen] at hplan
  obtain ⟨hsame, -, hmem⟩ := writeChunks_home s { md with l1 := false } a bs
  have hkeeps := writeChunks_keepsXlates s (md := { md with l1 := false }) rfl a bs
  generalize hw : writeChunks s { md with l1 := false } (homeChunks a bs.length) bs = x at hsame hmem hkeeps
  have htagged : SameRequests x (syncTags x task (homeChunks a bs.length)) := ⟨rfl, rfl, rfl, rfl, rfl, rfl⟩
  have htables : KeepsXlates x (syncTags x task (homeChunks a bs.length)) := .of_same rfl fun _ => rfl
  have hdrop := Reads.bypass (syncTags x task (homeChunks a bs.length)) { md with l1 := false } (homeChunks a bs.length)
  have heq : syncWrite s md task oid o n v =
      bypass (syncTags x task (homeChunks a bs.length)) { md with l1 := false } (homeChunks a bs.length) := by
    rw [syncWrite, syncStoreAt, hbs, hplan]
    dsimp only
    rw [hw]
  rw [heq]
  exact ⟨hdrop.tables.mem.trans hmem, (hsame.trans htagged).trans hdrop.requests, (hkeeps.trans htables).trans hdrop.keeps⟩

end

/-! Numbers in memory (R62). -/

/-- A number written is read back. -/
theorem leNat_memReadN_written {m : List Host.Cell} (hm : Memory.wf m = true) (a n : Nat) {v : Nat} (hv : v < 256 ^ n) :
    leNat (memReadN (memWriteN m a (natLe n v)) a n) = v := by
  have hread := memReadN_memWriteN hm a (natLe n v)
  rw [natLe_length] at hread
  rw [hread, leNat_natLe, Nat.mod_eq_of_lt hv]

/-- Bytes beside those written read as before. -/
theorem memReadN_memWriteN_apart (m : List Host.Cell) {a b n : Nat} {bs : List Byte} (h : b + n ≤ a ∨ a + bs.length ≤ b) :
    memReadN (memWriteN m a bs) b n = memReadN m b n := by
  rw [memReadN_eq_map, memReadN_eq_map]
  refine List.map_congr_left fun i hi => ?_
  have := List.mem_range.1 hi
  exact memRead_memWriteN_other _ _ _ _ (by omega)

end Sys2Proof.Machine
end

section
/-! SUPPORT. Future forms at home: what each does behind the read of its word, and the faults of a request found at its tile. -/

namespace Sys2Proof.Machine

/-! Fields of a future word (Table 12.2). -/

theorem mkFuture_lt {st : Nat} (h : st < 4) (wait cur : Nat) : mkFuture st wait cur < 256 ^ 8 := by
  unfold mkFuture
  have := Nat.min_le_right wait (2 ^ 22 - 1)
  have := Nat.mod_lt cur (show 0 < 2 ^ 40 by decide)
  omega

theorem futCursor_lt (w : Nat) : futCursor w < 256 ^ 8 :=
  (Nat.mod_lt _ (by decide)).trans (by decide)

/-! Faults of a request (R292, R300). -/

theorem flush_reqs (s : State) (who : Focus) : (s.flush who).reqs = s.reqs := by
  have hsend (p : Put) (t : State) : (t.sendPut who p).reqs = t.reqs := (sendFlits_same _ _).reqs
  have hfold (ps : List Put) (t : State) : (ps.foldl (State.sendPut who) t).reqs = t.reqs := by
    induction ps generalizing t with
    | nil => rfl
    | cons p ps ih => exact (ih _).trans (hsend p t)
  exact hfold _ _

theorem settle_reqs {s t : State} (hs : s.asking s.focus = false) (ht : t.wants = []) : (settle s t).reqs = t.reqs := by
  unfold settle
  rw [if_neg (by simp [hs]), if_neg (by simp [ht])]
  split
  · rfl
  · exact flush_reqs t s.focus

theorem awaitWrites_regions (n : Nat) (s : State) : (awaitWrites n s).regions = s.regions := by
  unfold awaitWrites
  split <;> rfl

theorem awaitWrites_req_none {n : Nat} {s : State} (m : Nat) (h : s.req n = none) : (awaitWrites m s).req n = none := by
  have hids : ∀ x ∈ s.reqs, x.id ≠ n := by simpa [State.req] using h
  unfold awaitWrites
  split
  · rw [State.req, List.find?_eq_none]
    intro y hy
    obtain ⟨x, hx, rfl⟩ := List.mem_map.1 hy
    have := hids x hx
    dsimp only
    split
    · split <;> simpa using this
    · simpa using this
  · exact h

/-- Whatever a request's performing comes to, if it lacks nothing, stands in regions and requests. -/
theorem RequestReady.exec_stands {s : State} {q : Req} (h : RequestReady s q) (hw : (performReq s q).wants = []) :
    ∃ t, exec .memoryTileRequest s = .next t ∧ t.regions = (performReq s q).regions ∧
      ∀ n, (performReq s q).req n = none → t.req n = none := by
  refine ⟨_, h.exec_eq, ?_, fun n hn => awaitWrites_req_none _ ?_⟩
  · rw [awaitWrites_regions, (settle_sameButTraffic h.alone.asked hw).regions]
  · rw [State.req, settle_reqs h.alone.asked hw]
    exact hn

/-- A region, after an update at its place. -/
theorem region_updRegion_at {s : State} {d b : Nat} {r : Region} (h : s.region d b = some r) {f : Region → Region}
    (hf : KeepsPlace f) : (s.updRegion d b f).region d b = some (f r) := by
  rw [State.region_updRegion_same hf, h]
  rfl

section
variable {s : State} {q : Req} (hscout : q.scout = false) (hkind : q.kind ≠ .prefetch) (ofs : Nat) (tag : W32)
include hscout hkind

/-- A failed check of a request freezes its region. -/
theorem reqFault_bounds : (reqFault s q fcBounds ofs tag).wants = s.wants ∧
    ∀ r, s.region q.die q.rblk = some r → ∃ r', (reqFault s q fcBounds ofs tag).region q.die q.rblk = some r' ∧
      r'.frozen = .violation := by
  have hvoid : (q.scout || q.kind == .prefetch) = false := by simp [hscout, hkind]
  unfold reqFault
  cases hr : s.region q.die q.rblk with
  | none => exact ⟨rfl, by simp⟩
  | some r =>
    have hbounds : (pageCode fcBounds || fcBounds == fcRace || fcBounds == fcTwice || fcBounds == fcLasting) = false := by decide
    simp only [Bool.or_eq_false_iff] at hbounds
    obtain ⟨⟨⟨hpage, hrace⟩, htwice⟩, hlasting⟩ := hbounds
    simp only [hvoid, hpage, hrace, htwice, hlasting, Bool.or_self, Bool.false_eq_true, if_false]
    refine ⟨(post_same ..).wants, fun r' hr' => ⟨{ r with frozen := .violation }, ?_, rfl⟩⟩
    exact region_updRegion_found (f := fun r => { r with frozen := .violation }) ((post_region ..).trans hr) fun _ => ⟨rfl, rfl⟩

/-- A request that finds its future resolved goes, and traps its cell. -/
theorem reqFault_twice : (reqFault s q fcTwice ofs tag).wants = s.wants ∧ (reqFault s q fcTwice ofs tag).req q.id = none ∧
    ∀ r, s.region q.die q.rblk = some r → ∃ r', (reqFault s q fcTwice ofs tag).region q.die q.rblk = some r' ∧
      r'.cellTraps = r.cellTraps ++ [⟨q.cell, 0xFF00 + fcTwice, none⟩] ∧ (r'.cell q.cell).rt.stopped = true := by
  have hvoid : (q.scout || q.kind == .prefetch) = false := by simp [hscout, hkind]
  have hgone (t : State) : (t.dropReq q.id).req q.id = none := by
    rw [State.req, State.dropReq_reqs, List.find?_eq_none]
    intro x hx
    simpa using (List.mem_filter.1 hx).2
  unfold reqFault
  cases hr : s.region q.die q.rblk with
  | none => exact ⟨rfl, hgone _, by simp⟩
  | some r =>
    have hpage : pageCode fcTwice = false := by decide
    simp only [hvoid, hpage, beq_self_eq_true, Bool.or_true, Bool.false_eq_true, if_false, if_true]
    refine ⟨(post_same ..).wants, hgone _, fun r' hr' => ?_⟩
    obtain rfl : r = r' := by simpa using hr'
    refine ⟨_, region_updRegion_at ((post_region ..).trans hr) fun _ => ⟨rfl, rfl⟩, rfl, ?_⟩
    simp only [Region.cell, Region.updRt_cells, lookD_putAsc_same]

end

/-! A future form behind the read of its word (R196). -/

/-- The kinds of request that the future forms make. -/
def futureKinds : List ReqKind := [.futnew, .futget, .futreg, .futres]

/-- A future form whose word is w and stands in u ends in t: it returns w. -/
def returned (t : State) (q : Req) (w : Nat) : State := performed t q fun x => { x with value := BitVec.ofNat 64 w }

/-- A form that ends in t, whose requests are those of s, stands performed with its word. -/
theorem RequestReady.returns {s t : State} {q : Req} {w : Nat} (hr : RequestReady s q) (ht : SameRequests s t)
    (hp : performReq s q = returned t q w) : ∃ t', (exec .memoryTileRequest s = .next t' ∧
      t'.req q.id = some { q with stage := .performed, value := BitVec.ofNat 64 w }) ∧ t'.mem = t.mem := by
  obtain ⟨t', hexec, hmem, -, hreq⟩ := hr.performs ht rfl hp
  exact ⟨t', ⟨hexec, hreq⟩, hmem⟩

/-- A resolution without consumers writes its word, and leaves a release record. -/
theorem resolveFuture_nil (s : State) (md : Mode) (task oid o w x : Nat) (faulted : Bool) :
    SameRequests (syncWrite s md task oid o 8 (mkFuture (if faulted then 3 else 2) (futWait w) x))
        (resolveFuture s md task oid o w x faulted []) ∧
      (resolveFuture s md task oid o w x faulted []).mem =
        (syncWrite s md task oid o 8 (mkFuture (if faulted then 3 else 2) (futWait w) x)).mem := by
  rw [resolveFuture]
  generalize syncWrite s md task oid o 8 (mkFuture (if faulted then 3 else 2) (futWait w) x) = v
  rw [List.foldl_nil]
  split <;> exact ⟨⟨rfl, rfl, rfl, rfl, rfl, rfl⟩, rfl⟩

/-- An acquire changes its task alone. -/
theorem acquireEdge_same (s : State) (d g q scope die : Nat) :
    SameRequests s (acquireEdge s d g q scope die) ∧ (acquireEdge s d g q scope die).mem = s.mem := by
  unfold acquireEdge
  split
  · split <;> exact ⟨⟨rfl, rfl, rfl, rfl, rfl, rfl⟩, rfl⟩
  · exact ⟨⟨rfl, rfl, rfl, rfl, rfl, rfl⟩, rfl⟩

section
variable {s u : State} {q : Req} {w : Nat} (hread : syncRead s (q.mode s) q.cap.oid q.ofs 8 (q.kind != .futget) = (0, w, u))
include hread

theorem futureHere_futnew (hk : q.kind = .futnew) : futureHere s q =
    returned (if futState w = 1 then u else syncWrite u (q.mode s) (q.seq s) q.cap.oid q.ofs 8 0) q w := by
  rw [futureHere, hread]
  simp [hk, returned]

theorem futureHere_futget (hk : q.kind = .futget) :
    ∃ t, futureHere s q = returned t q w ∧ SameRequests u t ∧ t.mem = u.mem := by
  rw [futureHere, hread]
  simp only [hk]
  cases addrOf u (q.mode s) q.cap.oid q.ofs false with
  | none => exact ⟨u, rfl, ⟨rfl, rfl, rfl, rfl, rfl, rfl⟩, rfl⟩
  | some a => exact ⟨_, rfl, acquireEdge_same _ _ _ _ _ _⟩

theorem futureHere_futreg (hk : q.kind = .futreg) : futureHere s q = futRegister u q (q.mode s) (q.seq s) w := by
  rw [futureHere, hread]
  simp [hk]

theorem futureHere_futres_twice (hk : q.kind = .futres) (hw : 2 ≤ futState w) :
    futureHere s q = reqFault u { q with acc := { q.acc with base := w } } fcTwice q.ofs 0 := by
  rw [futureHere, hread]
  simp [hk, hw]

theorem futureHere_futres_empty (hk : q.kind = .futres) (hwants : u.wants = []) (hw : futState w = 0) : futureHere s q =
    returned (resolveFuture u (q.mode s) (q.seq s) q.cap.oid q.ofs w q.data.toNat (q.form == 1) []) q w := by
  have hjoins : joinWaits u (q.mode s) q.cap.oid [] = none := by simp [joinWaits, joinsOf, hwants]
  rw [futureHere, hread]
  simp [hk, hw, futResolve, futRecords, recordFault, hjoins, returned]

end

section
variable {u v : State} {q : Req} {md : Mode} {task w n : Nat}
  (hread : syncRead u md q.cap.oid q.data.toNat 16 true = (0, n, v))
include hread

/-- A registration on a word without a value links its record in front of the list, if the list's head is a sound offset. -/
theorem futRegister_empty (hw : futState w < 2) (hok : futState w = 1 → futOffsetOk q.cap (futCursor w) = true) :
    futRegister u q md task w = returned
      (syncWrite (syncWrite v md task q.cap.oid q.data.toNat 8 (if futState w = 1 then futCursor w else 0)) md task q.cap.oid q.ofs 8
        (mkFuture 1 (futWait w + 1) q.data.toNat)) q w := by
  have hsound : ¬ (futState w = 1 ∧ futOffsetOk q.cap (futCursor w) = false) := fun h => by simp [hok h.1] at h
  simp [futRegister, hread, Nat.not_le.2 hw, hsound, returned]

theorem futRegister_unsound (hw : futState w = 1) (hbad : futOffsetOk q.cap (futCursor w) = false) :
    futRegister u q md task w = reqFault v q fcBounds q.ofs 0 := by
  simp [futRegister, hread, hw, hbad]

end

/-! Future forms at home (R194 to R197). -/

theorem performReq_future {s : State} {q : Req} {a : Nat} (hk : q.kind ∈ futureKinds)
    (h : AtHome s (q.mode s) q.cap.oid q.ofs 8 a (q.kind != .futget)) : performReq s q = futureHere s q := by
  have hremote : remoteOf s (q.mode s) q.cap.oid q.ofs (q.kind != .futget) = none := by rw [remoteOf, h.spotOf_eq]
  have hperform : performReq s q = performFuture s q := by
    simp only [futureKinds, List.mem_cons, List.not_mem_nil, or_false] at hk
    rw [performReq]
    rcases hk with hk | hk | hk | hk <;> rw [hk]
  rw [hperform, performFuture, hremote]

section
variable {s : State} {q : Req} {a w : Nat} (hr : RequestReady s q) (h : q.homeAt s true 8 a) (hd : q.die < s.dies.length)
  (hw : leNat (memReadN s.mem a 8) = w)
include hr h hd hw

/-- A future form at home reads its word first. -/
theorem future_reads (hk : q.kind ∈ futureKinds) : performReq s q = futureHere s q ∧
    ∃ u, syncRead s (q.mode s) q.cap.oid q.ofs 8 (q.kind != .futget) = (0, w, u) ∧ Reads s u ∧ u.Unanswered ∧
      CachedHome u (q.mode s) q.cap.oid q.ofs 8 a (q.kind != .futget) := by
  have hs := hr.alone.unanswered
  have hat := h.atHome.reads hs hr.alone.wants (q.kind != .futget)
  obtain ⟨-, -, -, hbad, -⟩ := h
  obtain ⟨u, hread, hu, hcached⟩ := hat.syncRead_eq hs hr.alone.wants hd hbad
  exact ⟨performReq_future hk hat, u, by rw [hread, hw], hu, hu.requests.unanswered hs, hcached⟩

/-- FUTREG at home reads its record as well; its word and its record are then where they were. -/
theorem futreg_reads (hk : q.kind = .futreg) {b : Nat} (hb : Req.homeAt s { q with ofs := q.data.toNat } true 16 b) :
    ∃ u n v, performReq s q = futRegister u q (q.mode s) (q.seq s) w ∧
      syncRead u (q.mode s) q.cap.oid q.data.toNat 16 true = (0, n, v) ∧ Reads s v ∧ v.Unanswered ∧
      CachedHome v (q.mode s) q.cap.oid q.ofs 8 a true ∧ CachedHome v (q.mode s) q.cap.oid q.data.toNat 16 b true := by
  have hs := hr.alone.unanswered
  obtain ⟨hp, u, hread, hu, hus, hcached⟩ := future_reads hr h hd hw (by simp [hk, futureKinds])
  rw [hk] at hcached
  have hrec := hb.atHome.after_reads hs hr.alone.wants hu
  obtain ⟨-, -, -, hbad, -⟩ := hb
  obtain ⟨v, hread', hv, hcached'⟩ :=
    hrec.syncRead_eq hus (hu.requests.wants.trans hr.alone.wants) (hu.dies ▸ hd) (by rwa [hu.tables.bad])
  exact ⟨u, _, v, hp.trans (futureHere_futreg hread hk), hread', hu.trans hv, hv.requests.unanswered hus, hcached.mono hv.keeps,
    hcached'⟩

theorem futnew_answers (hm : s.memOk) (hk : q.kind = .futnew) : ∃ t, (exec .memoryTileRequest s = .next t ∧
    t.req q.id = some { q with stage := .performed, value := BitVec.ofNat 64 w }) ∧
    leNat (memReadN t.mem a 8) = if futState w = 1 then w else 0 := by
  obtain ⟨hp, u, hread, hu, hus, hcached⟩ := future_reads hr h hd hw (by simp [hk, futureKinds])
  rw [futureHere_futnew hread hk] at hp
  split at hp
  · next hwaits =>
    obtain ⟨t, ht, hmem⟩ := hr.returns hu.requests hp
    exact ⟨t, ht, by rw [hmem, hu.tables.mem, hw, if_pos hwaits]⟩
  · next hwaits =>
    rw [hk] at hcached
    obtain ⟨hwritten, hsame, -⟩ := hcached.syncWrite_eq hus (q.seq s) 0
    obtain ⟨t, ht, hmem⟩ := hr.returns (hu.requests.trans hsame) hp
    refine ⟨t, ht, ?_⟩
    rw [hmem, hwritten, hu.tables.mem, leNat_memReadN_written hm _ _ (by decide), if_neg hwaits]

theorem futget_answers (hk : q.kind = .futget) : ∃ t, (exec .memoryTileRequest s = .next t ∧
    t.req q.id = some { q with stage := .performed, value := BitVec.ofNat 64 w }) ∧ t.mem = s.mem := by
  obtain ⟨hp, u, hread, hu, -, -⟩ := future_reads hr h hd hw (by simp [hk, futureKinds])
  obtain ⟨v, hv, hsame, hvmem⟩ := futureHere_futget hread hk
  obtain ⟨t, ht, hmem⟩ := hr.returns (hu.requests.trans hsame) (hp.trans hv)
  exact ⟨t, ht, by rw [hmem, hvmem, hu.tables.mem]⟩

/-- FUTREG writes the old head of the list into its record, then the word, at places that the two reads have cached. -/
theorem futreg_answers (hm : s.memOk) (hk : q.kind = .futreg) (hst : futState w < 2) {b : Nat}
    (hb : Req.homeAt s { q with ofs := q.data.toNat } true 16 b) (hok : futState w = 1 → futOffsetOk q.cap (futCursor w) = true)
    (hapart : a + 8 ≤ b ∨ b + 16 ≤ a) : ∃ t, (exec .memoryTileRequest s = .next t ∧
      t.req q.id = some { q with stage := .performed, value := BitVec.ofNat 64 w }) ∧
      leNat (memReadN t.mem a 8) = mkFuture 1 (futWait w + 1) q.data.toNat ∧
      leNat (memReadN t.mem b 8) = if futState w = 1 then futCursor w else 0 := by
  obtain ⟨u, n, v, hp, hread, hv, hvs, hword, hrecord⟩ := futreg_reads hr h hd hw hk hb
  rw [futRegister_empty hread hst hok] at hp
  have hlink : (if futState w = 1 then futCursor w else 0) < 256 ^ 8 := by
    split
    · exact futCursor_lt w
    · decide
  generalize (if futState w = 1 then futCursor w else 0) = link at hp hlink
  obtain ⟨hmem₁, hsame₁, hkeeps₁⟩ := (hrecord.shorter (n := 8) (by decide) (by decide)).syncWrite_eq hvs (q.seq s) link
  obtain ⟨hmem₂, hsame₂, -⟩ := (hword.mono hkeeps₁).syncWrite_eq (hsame₁.unanswered hvs) (q.seq s)
    (mkFuture 1 (futWait w + 1) q.data.toNat)
  obtain ⟨t, ht, hmem⟩ := hr.returns ((hv.requests.trans hsame₁).trans hsame₂) hp
  rw [hmem₁, hv.tables.mem] at hmem₂
  refine ⟨t, ht, ?_, ?_⟩
  · rw [hmem, hmem₂, leNat_memReadN_written (Memory.wf_memWriteN hm _ _) _ _ (mkFuture_lt (by decide) _ _)]
  · rw [hmem, hmem₂, memReadN_memWriteN_apart _ (by rw [natLe_length]; omega), leNat_memReadN_written hm _ _ hlink]

theorem futreg_unsound (hq : q.scout = false) (hk : q.kind = .futreg) (hst : futState w = 1) {b : Nat}
    (hb : Req.homeAt s { q with ofs := q.data.toNat } true 16 b) (hbad : futOffsetOk q.cap (futCursor w) = false) :
    ∃ t, exec .memoryTileRequest s = .next t ∧ ∀ r, s.region q.die q.rblk = some r → ∃ r', t.region q.die q.rblk = some r' ∧
      r'.frozen = .violation := by
  obtain ⟨u, n, v, hp, hread, hv, -, -, -⟩ := futreg_reads hr h hd hw hk hb
  rw [futRegister_unsound hread hst hbad] at hp
  obtain ⟨hwants, hfrozen⟩ := reqFault_bounds (s := v) hq (by simp [hk]) q.ofs 0
  obtain ⟨t, ht, hregions, -⟩ := hr.exec_stands (by rw [hp, hwants, hv.requests.wants, hr.alone.wants])
  refine ⟨t, ht, fun r hreg => ?_⟩
  obtain ⟨r', hreg', -⟩ := hv.traps _ _ r hreg
  rw [State.region, hregions, hp]
  exact hfrozen r' hreg'

theorem futres_answers (hm : s.memOk) (hk : q.kind = .futres) (hst : futState w = 0) : ∃ t, (exec .memoryTileRequest s = .next t ∧
    t.req q.id = some { q with stage := .performed, value := BitVec.ofNat 64 w }) ∧
    leNat (memReadN t.mem a 8) = mkFuture (if q.form = 1 then 3 else 2) (futWait w) q.data.toNat := by
  obtain ⟨hp, u, hread, hu, hus, hcached⟩ := future_reads hr h hd hw (by simp [hk, futureKinds])
  rw [hk] at hcached
  rw [futureHere_futres_empty hread hk (hu.requests.wants.trans hr.alone.wants) hst] at hp
  obtain ⟨hsame, hresolved⟩ := resolveFuture_nil u (q.mode s) (q.seq s) q.cap.oid q.ofs w q.data.toNat (q.form == 1)
  have hstate : (if q.form == 1 then 3 else 2) < 4 := by split <;> decide
  obtain ⟨hwritten, hsame', -⟩ := hcached.syncWrite_eq hus (q.seq s)
    (mkFuture (if q.form == 1 then 3 else 2) (futWait w) q.data.toNat)
  obtain ⟨t, ht, hmem⟩ := hr.returns ((hu.requests.trans hsame').trans hsame) hp
  refine ⟨t, ht, ?_⟩
  rw [hmem, hresolved, hwritten, hu.tables.mem, leNat_memReadN_written hm _ _ (mkFuture_lt hstate _ _)]
  simp only [beq_iff_eq]

theorem futres_twice (hq : q.scout = false) (hk : q.kind = .futres) (hst : 2 ≤ futState w) :
    ∃ t, exec .memoryTileRequest s = .next t ∧ t.req q.id = none ∧
      ∀ r, s.region q.die q.rblk = some r → ∃ r', t.region q.die q.rblk = some r' ∧
        r'.cellTraps = r.cellTraps ++ [⟨q.cell, 0xFF00 + fcTwice, none⟩] ∧ (r'.cell q.cell).rt.stopped = true := by
  obtain ⟨hp, u, hread, hu, -, -⟩ := future_reads hr h hd hw (by simp [hk, futureKinds])
  rw [futureHere_futres_twice hread hk hst] at hp
  obtain ⟨hwants, hgone, htrapped⟩ :=
    reqFault_twice (s := u) (q := { q with acc := { q.acc with base := w } }) hq (by simp [hk]) q.ofs 0
  obtain ⟨t, ht, hregions, hreqs⟩ := hr.exec_stands (by rw [hp, hwants, hu.requests.wants, hr.alone.wants])
  refine ⟨t, ht, hreqs _ (by rw [hp]; exact hgone), fun r hreg => ?_⟩
  obtain ⟨r', hreg', htraps⟩ := hu.traps _ _ r hreg
  rw [State.region, hregions, hp, ← htraps]
  exact htrapped r' hreg'

end

/-- Settles O16: a future form reads its word first, and that leaves its translation cached; what it writes then stands where it has
read, and its faults are those of a request at its tile. -/
theorem futureFormsMakeTheirTransitions : Obligations.FutureFormsMakeTheirTransitions := by
  intro s q a hm hr h hd hq w st word answers
  refine ⟨fun hk => futnew_answers hr h hd rfl hm hk, fun hk => futget_answers hr h hd rfl hk,
    fun hk hst b _ _ hb hok hapart => futreg_answers hr h hd rfl hm hk hst hb hok hapart,
    fun hk hst _ _ ⟨b, hb⟩ hbad => futreg_unsound hr h hd rfl hq hk hst hb hbad,
    fun hk hst => futres_answers hr h hd rfl hm hk hst, fun hk hst => futres_twice hr h hd rfl hq hk hst⟩

end Sys2Proof.Machine
end

section
/-! SUPPORT. Controller instructions that may need other modules, and the words that a controller reads and writes at home. -/

namespace Sys2Proof.Machine

/-! Instructions with memory accesses (R201, R315). -/

theorem ctlMem_at {s : State} {r : Region} (h : Claims.at_ s r) (f : Region → Out) : ctlMem s f = settleOut s (f r) := by
  rw [ctlMem, ctlTurn_at h]

/-- A step that leaves requests and traffic as they are stands, where its actor is alone. -/
theorem State.Alone.settle_same {s t : State} (h : s.Alone) (ht : SameRequests s t) : settle s t = t :=
  h.settle_eq ht.focus ht.asks ht.words ht.wants ht.puts

/-- An instruction that leaves requests and traffic as they are stands. -/
theorem ctlMem_stands {s t : State} {r : Region} (hat : Claims.at_ s r) (halone : s.Alone) {f : Region → Out} (hf : f r = .next t)
    (ht : SameRequests s t) : ctlMem s f = .next t := by
  rw [ctlMem_at hat, hf, settleOut, halone.settle_same ht]

/-! Words at home (R158, R164, R173, R201). -/

theorem capCheck_lets {k : Cap} {need : Nat} {b : Int} {z align : Nat} (h : k.lets need b z align) : capCheck k need b z = none := by
  have hc := capCheckAt_lets h
  rw [capCheckAt] at hc
  cases hk : capCheck k need b z with
  | none => rfl
  | some c => rw [hk] at hc; cases hc

/-- What an access of a controller at home leaves alone: requests, traffic, regions and clocks. -/
structure SameControl (s t : State) : Prop where
  requests : SameRequests s t
  regions : t.regions = s.regions
  now : ∀ d, t.now d = s.now d

theorem SameControl.trans {s t u : State} (h : SameControl s t) (k : SameControl t u) : SameControl s u :=
  ⟨h.requests.trans k.requests, k.regions.trans h.regions, fun d => (k.now d).trans (h.now d)⟩

theorem SameControl.region {s t : State} (h : SameControl s t) (d b : Nat) : t.region d b = s.region d b := by
  rw [State.region, State.region, h.regions]

theorem SameButXlates.control {s t : State} (h : SameButXlates s t) : SameControl s t := by
  refine ⟨h.requests, ?_, fun d => ?_⟩
  · obtain ⟨ds, rfl, -⟩ := h
    rfl
  · obtain ⟨ds, rfl, -, hds⟩ := h
    obtain ⟨l, hl⟩ := hds d
    change (ds.getD d .reset).cycle.toNat = _
    rw [hl]
    rfl

theorem SameButXlates.bad {s t : State} (h : SameButXlates s t) : t.bad = s.bad := by
  obtain ⟨ds, rfl, -⟩ := h
  rfl

/-- A byte written at home past the L1. -/
theorem writeChunk_control (s : State) {md : Mode} (hl1 : md.l1 = false) (a : Nat) (b : Byte) :
    SameControl s (writeChunk s md (.at a) b) := by
  refine ⟨(writeChunk_home_same s md a b).1, ?_, fun d => ?_⟩
  all_goals simp only [writeChunk, hl1, Bool.false_eq_true, if_false]
  · exact (tellPeers_same _ _).regions.trans (by split <;> rfl)
  · exact (now_wake _ _ _).trans (by split <;> rfl)

theorem writeChunks_control (s : State) {md : Mode} (hl1 : md.l1 = false) (a : Nat) (bs : List Byte) :
    SameControl s (writeChunks s md (homeChunks a bs.length) bs) := by
  induction bs generalizing s a with
  | nil => exact ⟨⟨rfl, rfl, rfl, rfl, rfl, rfl⟩, rfl, fun _ => rfl⟩
  | cons b bs ih =>
    rw [List.length_cons, homeChunks_succ, writeChunks]
    exact (writeChunk_control s hl1 a b).trans (ih _ _)

theorem applyTags_control (s : State) (l : List (Nat × W32)) : SameControl s (applyTags s l) :=
  ⟨⟨rfl, rfl, rfl, rfl, rfl, rfl⟩, rfl, fun _ => rfl⟩

section
variable {s : State} {r : Region} {k : Cap} {o a : Nat} {nt : W32} (hs : s.Unanswered)

/-- A word of this module is an access at home. -/
theorem Claims.word.atHome {store : Bool} (h : Claims.word s r k o store a nt) : AtHome s (ctlMode s r) k.oid o 8 a store := by
  obtain ⟨hlets, hgranule, -, hplaced, -⟩ := h
  have haligned := hlets.aligned
  exact ⟨by omega, by omega, hgranule, hplaced⟩

include hs

/-- A word written at home. -/
theorem ctlWrite_home (h : Claims.word s r k o true a nt) (v : W64) : ∃ u, SameControl s u ∧
    u.mem = memWriteN s.mem a (natLe 8 v.toNat) ∧ ctlWrite s r k o 8 v rWrite = .ok v u := by
  generalize hbs : natLe 8 v.toNat = bs
  have hlen : bs.length = 8 := by rw [← hbs, natLe_length]
  have hhome := h.atHome
  rw [← hlen] at hhome
  obtain ⟨u, hu, hstore⟩ := hhome.storeAt_eq hs false
  have htag : tagCheck (s.racer r.seq) (getTag u.accTags (a / 64)) true = some nt := by rw [hu.accTags]; exact h.tag
  have hpass : plainTags u (ctlMode s r) true (homeChunks a bs.length) = (some [(a / 64, nt)], 0, 0) :=
    hhome.plainTags_passes rfl htag
  have hmem := (writeChunks_home (applyTags u [(a / 64, nt)]) (ctlMode s r) a bs).2.2
  refine ⟨writeChunks (applyTags u [(a / 64, nt)]) (ctlMode s r) (homeChunks a bs.length) bs,
    hu.control.trans ((applyTags_control u _).trans (writeChunks_control _ rfl a bs)), ?_, ?_⟩
  · rw [hmem, applyTags_mem, hu.mem]
  · have hcheck : capCheck k rWrite o 8 = none := capCheck_lets h.lets
    rw [ctlWrite, hcheck, Int.toNat_natCast, hbs, hstore, storeChunks, hpass]

/-- A word read at home. -/
theorem ctlRead_home (h : Claims.word s r k o false a nt) : ∃ u, SameControl s u ∧ u.mem = s.mem ∧
    ctlRead s r k o 8 rRead = .ok (Claims.wordAt s a) u := by
  have hhome := h.atHome
  obtain ⟨u, hu, hplan⟩ := hhome.plan_eq hs
  have htag : tagCheck (s.racer r.seq) (getTag u.accTags (a / 64)) false = some nt := by rw [hu.accTags]; exact h.tag
  have hpass : plainTags u (ctlMode s r) false (homeChunks a 8) = (some [(a / 64, nt)], 0, 0) := hhome.plainTags_passes rfl htag
  have hbad : a / 64 ∉ u.bad := by rw [hu.bad]; exact h.sound
  have hall : (homeChunks a 8).filter (reachesHome u (ctlMode s r)) = homeChunks a 8 :=
    List.filter_eq_self.2 fun c hc => hhome.reachesHome_eq u hc
  have hload : loadAt s (ctlMode s r) k.oid o 8 false = .ok (memReadN s.mem a 8) (applyTags u [(a / 64, nt)]) := by
    rw [loadAt, hhome.aperOf_eq]
    dsimp only
    rw [hplan]
    dsimp only
    rw [loadChunks, needChunks_home]
    dsimp only
    rw [hhome.no_chunkFails hbad, hall, hpass]
    dsimp only
    rw [readChunks_bypassing _ rfl, applyTags_mem, hu.mem]
  refine ⟨applyTags u [(a / 64, nt)], hu.control.trans (applyTags_control u _), hu.mem, ?_⟩
  have hcheck : capCheck k rRead o 8 = none := capCheck_lets h.lets
  rw [ctlRead, hcheck, Int.toNat_natCast, hload]
  rfl

end

end Sys2Proof.Machine
end

section
/-! SUPPORT. Branches, calls and traps: frames that are spilled, and the entry to the vector and the return from it. -/

namespace Sys2Proof.Machine

/-! Branches (R214). -/

/-- The conditions of BRC, by the compare bit and the sense that CC names (R214). -/
theorem condHolds_eq (st : W64) {c : Nat} (h : c < 6) :
    condHolds st c = if c % 2 = 0 then st.getLsbD (5 + c / 2) else !st.getLsbD (5 + c / 2) := by
  have hc : c = 0 ∨ c = 1 ∨ c = 2 ∨ c = 3 ∨ c = 4 ∨ c = 5 := by omega
  rcases hc with rfl | rfl | rfl | rfl | rfl | rfl <;> rfl

section
variable {s : State} {r : Region} (hat : Claims.at_ s r) (b : FmtB)
include hat

theorem exec_brc_eq (h : b.cc.toNat < 6) : exec (.brc b) s = .next
    (if (if b.cc.toNat % 2 = 0 then r.st.getLsbD (5 + b.cc.toNat / 2) else !r.st.getLsbD (5 + b.cc.toNat / 2)) = true then
      Claims.goes s r (branchTarget r.pc b) 2 id else Claims.goes s r (r.pc + 8) 1 id) := by
  change execBrc b s = _
  rw [execBrc, ctlTurn_at hat, condHolds_eq _ h]
  rfl

theorem exec_loop_eq : exec (.loop b) s = .next
    (if r.wreg b.cc - 1 = 0 then Claims.goes s r (r.pc + 8) 1 (Region.setW b.cc (r.wreg b.cc - 1))
      else Claims.goes s r (branchTarget r.pc b) 2 (Region.setW b.cc (r.wreg b.cc - 1))) := by
  change execLoop b s = _
  rw [execLoop, ctlTurn_at hat]
  dsimp only
  rw [ite_not]
  rfl

end

/-! Calls (R215). -/

/-- CALL pushes the address behind it. -/
def pushFrame (r : Region) : Region := { r with depth := r.depth + 1, frames := (BitVec.ofNat 64 (r.pc + 8) :: r.frames).take 8 }

/-- RET pops the innermost frame; those that come from the spill area stand behind the others. -/
def popFrame (more : List W64) (r : Region) : Region := { r with depth := r.depth - 1, frames := r.frames.drop 1 ++ more }

/-- An instruction that goes on in state u, which an access of its controller has left, stands. -/
theorem goes_requests {s u : State} (hu : SameRequests s u) (r : Region) (pc n : Nat) (f : Region → Region) :
    SameRequests s (ctlGo u r.die r.rblk pc n f) :=
  hu.trans ⟨rfl, rfl, rfl, rfl, rfl, rfl⟩

section
variable {s : State} {r : Region} (hat : Claims.at_ s r) (halone : s.Alone)
include hat halone

theorem exec_call_onChip (b : FmtB) (h : r.depth < 8) :
    exec (.call b) s = .next (Claims.goes s r (branchTarget r.pc b) 2 pushFrame) := by
  refine ctlMem_stands hat halone ?_ (goes_requests ⟨rfl, rfl, rfl, rfl, rfl, rfl⟩ r _ _ pushFrame)
  rw [if_pos h]
  rfl

theorem exec_ret_onChip (h0 : 0 < r.depth) (h : r.depth ≤ 8) :
    exec .ret s = .next (Claims.goes s r (r.frames.getD 0 0).toNat 2 (popFrame [])) := by
  refine ctlMem_stands hat halone ?_ (goes_requests ⟨rfl, rfl, rfl, rfl, rfl, rfl⟩ r _ _ (popFrame []))
  rw [if_neg h0.ne', if_pos h]
  rfl

/-- With eight frames on chip the outermost of them goes to the spill area. -/
theorem exec_call_spills (b : FmtB) {a : Nat} {nt : W32} (h : 8 ≤ r.depth)
    (hword : Claims.word s r r.ks (r.ks.cursor + 8 * (r.depth - 8)) true a nt) : ∃ t, exec (.call b) s = .next t ∧
      t.region s.focus.die s.focus.rblk =
        some { pushFrame r with pc := branchTarget r.pc b, ctl := .ready (s.now r.die + 3) } ∧
      t.mem = memWriteN s.mem a (natLe 8 (r.frames.getD 7 0).toNat) := by
  obtain ⟨u, hu, hmem, hwrite⟩ := ctlWrite_home halone.unanswered hword (r.frames.getD 7 0)
  refine ⟨ctlGo u r.die r.rblk (branchTarget r.pc b) 3 pushFrame, ctlMem_stands hat halone ?_ (goes_requests hu.requests ..), ?_, hmem⟩
  · have hcheck : capCheck r.ks rWrite (spillOfs r (r.depth - 8)) 8 = none := capCheck_lets hword.lets
    change ctlWrite s r r.ks (spillOfs r (r.depth - 8)) 8 _ rWrite = _ at hwrite
    rw [if_neg (Nat.not_lt.2 h)]
    dsimp only
    rw [hcheck, hwrite]
    rfl
  · rw [← hu.now]
    exact region_ctlGo ((hu.region _ _).trans hat) _ _ fun _ => ⟨rfl, rfl⟩

/-- With more than eight frames the ninth comes back from the spill area. -/
theorem exec_ret_fills {a : Nat} {nt : W32} (h : 8 < r.depth)
    (hword : Claims.word s r r.ks (r.ks.cursor + 8 * (r.depth - 9)) false a nt) : ∃ t, exec .ret s = .next t ∧
      t.region s.focus.die s.focus.rblk =
        some { popFrame [Claims.wordAt s a] r with pc := (r.frames.getD 0 0).toNat, ctl := .ready (s.now r.die + 3) } ∧
      t.mem = s.mem := by
  obtain ⟨u, hu, hmem, hread⟩ := ctlRead_home halone.unanswered hword
  refine ⟨ctlGo u r.die r.rblk (r.frames.getD 0 0).toNat 3 (popFrame [Claims.wordAt s a]),
    ctlMem_stands hat halone ?_ (goes_requests hu.requests ..), ?_, hmem⟩
  · have hcheck : capCheck r.ks rRead (spillOfs r (r.depth - 9)) 8 = none := capCheck_lets hword.lets
    change ctlRead s r r.ks (spillOfs r (r.depth - 9)) 8 rRead = _ at hread
    rw [if_neg (Nat.ne_zero_of_lt h), if_neg (Nat.not_le.2 h)]
    dsimp only
    rw [hcheck, hread]
    rfl
  · rw [← hu.now]
    exact region_ctlGo ((hu.region _ _).trans hat) _ _ fun _ => ⟨rfl, rfl⟩

end

theorem branchesLoopsAndCalls : Claims.BranchesLoopsAndCalls := by
  intro s r b hat dest jump next c holds v loops push pop
  refine ⟨ctlTurn_at hat _, fun hc => ?_, ?_, fun halone hd => exec_call_onChip hat halone b hd,
    fun halone h0 hd => exec_ret_onChip hat halone h0 hd, fun a nt halone hm hd hword => ?_, fun a nt halone hd hword => ?_⟩
  · rw [exec_brc_eq hat b hc]
    rfl
  · exact exec_loop_eq hat b
  · obtain ⟨t, ht, hreg, hmem⟩ := exec_call_spills hat halone b hd hword
    exact ⟨t, _, ht, hreg, rfl, fun x => by rw [hmem, memRead_memWriteN_natLe hm]⟩
  · obtain ⟨t, ht, hreg, hmem⟩ := exec_ret_fills hat halone hd hword
    exact ⟨t, _, ht, hreg, hmem, rfl⟩

/-! Traps (R219 to R221, R224). -/

/-- The trap of a cell is taken from those recorded. -/
def takeTrap (s : State) (r : Region) (k : CellTrap) : State :=
  s.updRegion r.die r.rblk fun x => { x with cellTraps := x.cellTraps.erase k }

section
variable {s : State} {r : Region} (hat : Claims.at_ s r)
include hat

/-- TRAP outside a handler enters the vector behind itself. -/
theorem exec_trapCode_enters (code : BitVec 16) (h : r.trapd = false) : exec (.trapCode code) s =
    .next (s.updRegion r.die r.rblk fun x => enterVector x (s.tvecOf x) code.toNat (x.pc + 8) (s.now r.die)) := by
  change execTrapCode code s = _
  rw [execTrapCode, ctlTurn_at hat, h]
  rfl

/-- TRAP in a handler goes to the system fault queue and freezes the region. -/
theorem exec_trapCode_freezes (code : BitVec 16) (h : r.trapd = true) : exec (.trapCode code) s =
    .next ((postService s r r.pc).updRegion r.die r.rblk fun x => { stopAt x (x.pc + 8) (s.now r.die) with frozen := .violation }) := by
  change execTrapCode code s = _
  rw [execTrapCode, ctlTurn_at hat, h]
  rfl

/-- A cell's trap for the vector, the only one recorded, enters it at the instruction not yet issued; the cells stop. -/
theorem exec_trapEntry_enters {k : CellTrap} (hk : r.cellTraps = [k]) (hi : k.illegal = none) (h : r.trapd = false) :
    exec .trapEntry s = .next ((takeTrap s r k).updRegion r.die r.rblk fun x =>
      { enterVector x (s.tvecOf x) k.code x.pc (s.now r.die) with cellsHeld := true }) := by
  change execTrapEntry s = _
  have hdue : trapDue r = some k := by simp [trapDue, hk, h]
  rw [execTrapEntry, ctlTurn_at hat, hdue]
  dsimp only
  rw [hi]
  rfl

/-- A cell's trap for the system fault queue, the only one recorded, stops the controller, in a handler too. -/
theorem exec_trapEntry_stops {k : CellTrap} {p : Nat} (hk : r.cellTraps = [k]) (hi : k.illegal = some p) :
    exec .trapEntry s = .next ((postCtl (takeTrap s r k) r fcIllegal srcCell k.cell p ((takeTrap s r k).wordAt r r.pc) r.pc false).updRegion
      r.die r.rblk fun x => stopAt x x.pc (s.now r.die)) := by
  change execTrapEntry s = _
  have hdue : trapDue r = some k := by simp [trapDue, hk, hi]
  rw [execTrapEntry, ctlTurn_at hat, hdue]
  dsimp only
  rw [hi]
  rfl

/-- The only trap recorded, taken. -/
theorem region_takeTrap {k : CellTrap} (hk : r.cellTraps = [k]) :
    (takeTrap s r k).region s.focus.die s.focus.rblk = some { r with cellTraps := [] } := by
  have h := region_updRegion_found hat (f := fun x => { x with cellTraps := x.cellTraps.erase k }) fun _ => ⟨rfl, rfl⟩
  rwa [hk, List.erase_cons_head] at h

/-- ERET in a handler. -/
theorem exec_eret_returns (h : r.trapd = true) :
    exec .eret s = .next (s.updRegion r.die r.rblk fun x => returnFromTrap x (s.now x.die)) := by
  change execEret s = _
  rw [execEret, ctlTurn_at hat, h]
  rfl

/-- A region whose controller posts a record, after an update of it. -/
theorem region_postCtl_updRegion {p : Region} {code src cell port word pc : Nat} {vec : Bool} {f : Region → Region}
    (hf : KeepsPlace f) :
    ((postCtl s p code src cell port word pc vec).updRegion r.die r.rblk f).region s.focus.die s.focus.rblk = some (f r) :=
  region_updRegion_found ((post_region ..).trans hat) hf

end

/-- TRAPD alone goes from st at a return. -/
theorem getLsbD_returnFromTrap (r : Region) (now n : Nat) : (returnFromTrap r now).st.getLsbD n = (r.st.getLsbD n && n != 35) := by
  change (r.st &&& ~~~(1#64 <<< 35)).getLsbD n = _
  rw [getLsbD_and_not, show 1#64 <<< 35 = BitVec.twoPow 64 35 from rfl, BitVec.getLsbD_twoPow]
  congr 1
  by_cases hn : n = 35
  · subst hn; rfl
  · simp [hn, Ne.symm hn]

theorem trapsSaveAndReturnsRestore : Claims.TrapsSaveAndReturnsRestore := by
  intro s r code hat now
  refine ⟨fun h => ?_, fun k hk hi h => ?_, fun k p hk hi => ?_, fun h => ?_, fun h => ?_⟩
  · exact ⟨_, _, exec_trapCode_enters hat code h, region_updRegion_found hat fun _ => ⟨rfl, rfl⟩, entered_stEntry _ _ _,
      rfl, rfl, rfl⟩
  · exact ⟨_, _, exec_trapEntry_enters hat hk hi h, region_updRegion_found (region_takeTrap hat hk) fun _ => ⟨rfl, rfl⟩,
      entered_stEntry _ _ _, rfl, rfl, rfl⟩
  · exact ⟨_, _, exec_trapEntry_stops hat hk hi, region_postCtl_updRegion (region_takeTrap hat hk) fun _ => ⟨rfl, rfl⟩, rfl⟩
  · exact ⟨_, _, exec_eret_returns hat h, region_updRegion_found hat fun _ => ⟨rfl, rfl⟩, rfl, getLsbD_returnFromTrap r _, rfl⟩
  · exact ⟨_, _, exec_trapCode_freezes hat code h, region_postCtl_updRegion hat fun _ => ⟨rfl, rfl⟩, rfl⟩

/-- Settles O28: each branch, call and return by what its condition or its depth says, with the ninth frame written and read as a word at
home; and each trap by where it goes. -/
theorem branchesCallsTrapsAndReturns : Obligations.BranchesCallsTrapsAndReturns :=
  ⟨branchesLoopsAndCalls, trapsSaveAndReturnsRestore⟩

end Sys2Proof.Machine
end

section
/-! SUPPORT. Controller instructions that complete: the region that each leaves, ready at its next instruction. -/

namespace Sys2Proof.Machine

/-! Instructions that lack nothing of other modules (R315). -/

/-- Outcome o leaves region x in focus, ready at pc. -/
def ReadyAt (s : State) (o : Out) (x : Region) (pc : Nat) : Prop :=
  ∃ t n, o = .next t ∧ t.region s.focus.die s.focus.rblk = some { x with pc := pc, ctl := .ready n }

/-- What does not rest on the cycle of the next instruction is told by the region x. -/
theorem ReadyAt.region {s : State} {o : Out} {x : Region} {pc : Nat} (h : ReadyAt s o x pc) {P : Region → Prop}
    (hP : ∀ n, P { x with pc := pc, ctl := .ready n }) :
    ∃ t r', o = .next t ∧ t.region s.focus.die s.focus.rblk = some r' ∧ r'.pc = pc ∧ P r' := by
  obtain ⟨t, n, ht, hreg⟩ := h
  exact ⟨t, _, ht, hreg, rfl, hP n⟩

/-- What the accesses of an instruction of region r leave, where they lack nothing. -/
structure Arrives (s u : State) (r : Region) : Prop where
  wants : u.wants = []
  region : u.region s.focus.die s.focus.rblk = some r

theorem Arrives.of_at {s u : State} {r : Region} (hwants : u.wants = []) (hat : Claims.at_ u r) (hfocus : u.focus = s.focus) :
    Arrives s u r :=
  ⟨hwants, hfocus ▸ hat⟩

/-- An instruction without accesses, which goes on in state u. -/
theorem readyAt_ctlTurn {s u : State} {r : Region} (hat : Claims.at_ s r) (hreg : u.region s.focus.die s.focus.rblk = some r)
    {f : Region → Out} {pc n : Nat} {g : Region → Region} (hg : KeepsPlace g) (hf : f r = .next (ctlGo u r.die r.rblk pc n g)) :
    ReadyAt s (ctlTurn s f) (g r) pc :=
  ⟨_, _, (ctlTurn_at hat f).trans hf, region_ctlGo hreg pc n hg⟩

/-- An instruction whose accesses lack nothing. -/
theorem Arrives.readyAt {s u : State} {r : Region} (h : Arrives s u r) (hat : Claims.at_ s r) (halone : s.Alone) {f : Region → Out}
    {pc n : Nat} {g : Region → Region} (hg : KeepsPlace g) (hf : f r = .next (ctlGo u r.die r.rblk pc n g)) :
    ReadyAt s (ctlMem s f) (g r) pc := by
  refine ⟨settle s (ctlGo u r.die r.rblk pc n g), u.now r.die + n, by rw [ctlMem_at hat, hf, settleOut], ?_⟩
  have hwants : (ctlGo u r.die r.rblk pc n g).wants = [] := h.wants
  rw [(settle_sameButTraffic halone.asked hwants).region]
  exact region_ctlGo h.region pc n hg

/-! Words stored and loaded (R216). -/

section
variable {s u : State} {r : Region} {g : FmtG} (hat : Claims.at_ s r) (halone : s.Alone) (h : Arrives s u r)
include hat halone h

theorem storeWords_readyAt {vs : Region → List W64} (hlets : (slotOf s r g).lets rWrite (wordOfs r g) (8 * (vs r).length) 8)
    (hwrite : ctlWrites s r (slotOf s r g) (wordOfs r g) rWrite (vs r) = (some (), u)) :
    ReadyAt s (storeWords g s vs) r (r.pc + 8) := by
  refine h.readyAt hat halone (g := id) (fun _ => ⟨rfl, rfl⟩) (n := 2) ?_
  simp only [wordAccess, if_true, capCheckAt_lets hlets, hwrite]

theorem loadWords_readyAt {n : Nat} {f : List W64 → Region → Region} {vs : List W64} (hf : KeepsPlace (f vs))
    (hlets : (slotOf s r g).lets rRead (wordOfs r g) (8 * n : Nat) 8)
    (hread : ctlReads s r (slotOf s r g) (wordOfs r g) rRead n = (some vs, u)) :
    ReadyAt s (loadWords g s n f) (f vs r) (r.pc + 8) := by
  refine h.readyAt hat halone hf (n := 2) ?_
  simp only [wordAccess, Bool.false_eq_true, if_false, capCheckAt_lets hlets, hread]

end

/-! Instructions of a region that runs no pitch (R203, R213, R217, R282). -/

/-- SETQ gives a stage its queue on one side. -/
def bindQueue (input : Bool) (slot ofs : Nat) (x : Stage) : Stage :=
  if input then { x with inq := some (slot, ofs) } else { x with outq := some (slot, ofs) }

section
variable {s : State} {r : Region} {t0 : Task} {g : FmtG} (hat : Claims.at_ s r) (hrun : r.running = false)
include hat hrun

/-- CFG goes on to its commands. -/
theorem exec_cfg_begins (k : FmtK) : ∃ t r' c, exec (.cfg k) s = .next t ∧ t.region s.focus.die s.focus.rblk = some r' ∧
    r'.ctl = .cfg ∧ r'.cfg = some c ∧ c.off = k.off.toNat ∧ c.count = k.cnt.toNat ∧ c.at_ = s.now r.die + 1 := by
  have hexec : exec (.cfg k) s = _ := ctlTurn_at hat _
  rw [if_neg (by rw [hrun]; exact Bool.false_ne_true)] at hexec
  exact ⟨_, _, _, hexec, region_updRegion_found hat fun _ => ⟨rfl, rfl⟩, rfl, rfl, rfl, rfl, rfl⟩

variable (htask : s.task r.seq = some t0)
include htask

/-- YIELD goes on behind itself, whether or not it asks for a freeze. -/
theorem exec_yieldOp_readyAt : ReadyAt s (exec .yieldOp s) r (r.pc + 8) := by
  change ReadyAt s (execYieldOp s) r _
  rw [execYieldOp, ctlTurn_at hat, if_neg (by rw [hrun]; exact Bool.false_ne_true), htask]
  have hnext := region_ctlGo hat (r.pc + 8) 1 (f := id) fun _ => ⟨rfl, rfl⟩
  dsimp only
  split
  · exact ⟨_, _, rfl, hnext⟩
  · exact ⟨_, _, rfl, hnext⟩

variable (hnum : r.num = 0) (hentered : t0.entered = false) (hb : (r.opB g).toNat < 256)
include hnum hentered

omit hat in
theorem declares_eq_true : declares s r = true := by
  simp [declares, hrun, hnum, htask, hentered]

include hb

/-- SETSTAGE.DECL in its place. -/
theorem exec_setstageDecl_readyAt (he : (r.wreg g.wa).toNat % 8 = 0) : ReadyAt s (exec (.setstageDecl g) s) r (r.pc + 8) := by
  refine readyAt_ctlTurn hat (u := s.updTask r.seq fun t => { t with stages := putStage t.stages (r.opB g).toNat fun x =>
    { x with entry := some (r.wreg g.wa).toNat } }) hat (g := id) (fun _ => ⟨rfl, rfl⟩) (n := 1) ?_
  have hdecl := declares_eq_true hrun htask hnum hentered
  rw [if_neg (by simp [hdecl, hb, he])]
  rfl

/-- SETQ in its place, of a queue whose header is sound. -/
theorem setQueue_readyAt {u : State} {ws : List W64} {input : Bool} (halone : s.Alone) (h : Arrives s u r)
    (hclash : bindingClash s t0 (r.opB g).toNat g.slot.toNat (r.wreg g.wa).toNat input = false)
    (hread : ctlReads s r (taskSlot s r g.slot.toNat) (r.wreg g.wa).toNat rRead 8 = (some ws, u)) (hok : queueOk r ws = true) :
    ReadyAt s (setQueue g s input) r (r.pc + 8) := by
  have hbound : Arrives s (u.updTask r.seq fun t =>
      { t with stages := putStage t.stages (r.opB g).toNat (bindQueue input g.slot.toNat (r.wreg g.wa).toNat) }) r :=
    ⟨h.wants, h.region⟩
  refine hbound.readyAt hat halone (g := id) (fun _ => ⟨rfl, rfl⟩) (n := 1) ?_
  have hdecl := declares_eq_true hrun htask hnum hentered
  simp only [htask, hdecl, hclash, hread, hok, Nat.not_le.2 hb, decide_false, Bool.not_true, Bool.or_self, Bool.false_eq_true, if_false]
  rfl

end

/-! The start of a stage (R213, R283 to R285). -/

/-- The edges that a stage's offer takes change tasks alone. -/
theorem takeEdges_keeps (s : State) (r : Region) (q : QHead) (n : Nat) :
    (takeEdges s r q n).regions = s.regions ∧ (takeEdges s r q n).wants = s.wants := by
  unfold takeEdges
  induction List.range n generalizing s with
  | nil => exact ⟨rfl, rfl⟩
  | cons i l ih =>
    rw [List.foldl_cons]
    refine ⟨(ih _).1.trans ?_, (ih _).2.trans ?_⟩
    all_goals
      split
      · split <;> rfl
      · rfl

/-- The state in which a stage starts: the edges of the records offered are taken, and the cursors of its slots moved. -/
def offerState (s : State) (r : Region) (iq : Option (QHead × Nat)) (oq : Option QHead) : State :=
  let s := match iq with | some (q, d) => moveSlot (takeEdges s r q d) r.seq q.slot (q.rec_ q.head + 8) | none => s
  match oq with | some q => moveSlot s r.seq q.slot (q.rec_ q.tail + 8) | none => s

/-- The region that starts a stage: its offer stands in i0 and i1. -/
def offered (v : StageView) (iq : Option (QHead × Nat)) (oq : Option QHead) (r : Region) : Region :=
  { r with
    i := (r.i.set 0 (BitVec.ofNat 32 (match iq with | some (_, d) => d | none => 0))).set 1
      (BitVec.ofNat 32 (match oq with | some q => q.room | none => 0))
    stage := some v.stage.num }

theorem offerState_arrives {s u : State} {r : Region} (h : Arrives s u r) (iq : Option (QHead × Nat)) (oq : Option QHead) :
    Arrives s (offerState u r iq oq) r := by
  have hkeeps : (offerState u r iq oq).regions = u.regions ∧ (offerState u r iq oq).wants = u.wants := by
    cases iq with
    | none => cases oq <;> exact ⟨rfl, rfl⟩
    | some p => cases oq <;> exact takeEdges_keeps u r p.1 p.2
  exact ⟨hkeeps.2.trans h.wants, by rw [State.region, hkeeps.1]; exact h.region⟩

/-- A stage that opens its queues starts at its entry. -/
theorem enterStage_eq {s1 s2 : State} {r : Region} {v : StageView} {iq : Option (QHead × Nat)} {oq : Option QHead}
    (hopen : openQueues s1 r v = (some (iq, oq), s2)) :
    enterStage s1 r v = ctlGo (offerState s2 r iq oq) r.die r.rblk (v.stage.entry.getD 0) 1 (offered v iq oq) := by
  rw [enterStage, hopen]
  rfl

section
variable {s s1 s2 : State} {r : Region} {t0 : Task} {vs : List StageView} {v : StageView} {iq : Option (QHead × Nat)} {oq : Option QHead}
  (hat : Claims.at_ s r) (halone : s.Alone) (htask : s.task r.seq = some t0) (hdecl : ∀ x ∈ t0.stages, x.entry ≠ none)
  (hview : viewStages (if r.num = 0 then s.updTask r.seq fun t => { t with entered := true } else s) r t0.stages = (some vs, s1))
  (hchoose : chooseStage vs r.stage = some v) (hopen : openQueues s1 r v = (some (iq, oq), s2)) (h : Arrives s s2 r)
include hdecl hview hchoose hopen

/-- ENTER with a stage to start comes to the start of that stage. -/
theorem enterStages_eq : enterStages s r t0 =
    ctlGo (offerState s2 r iq oq) r.die r.rblk (v.stage.entry.getD 0) 1 (offered v iq oq) := by
  have hany : ¬ t0.stages.any (·.entry.isNone) = true := by simpa [Option.isSome_iff_ne_none] using hdecl
  rw [enterStages, if_neg hany, scheduleStage]
  simp only [beq_iff_eq]
  rw [hview]
  dsimp only
  rw [hchoose]
  exact enterStage_eq hopen

include hat halone htask h

/-- SETSTAGE.ENTER, of region 0 or behind it, goes to the entry of the stage chosen. -/
theorem exec_setstageEnter_readyAt (g : FmtG) (hrun : r.running = false) (hfirst : r.num = 0 ∨ t0.entered = true) :
    ReadyAt s (exec (.setstageEnter g) s) (offered v iq oq r) (v.stage.entry.getD 0) := by
  refine (offerState_arrives h iq oq).readyAt hat halone (fun _ => ⟨rfl, rfl⟩) (n := 1) ?_
  rw [← enterStages_eq hdecl hview hchoose hopen]
  have hnow : (r.num == 0 || t0.entered) = true := by simpa using hfirst
  simp only [htask, hrun, hnow, Bool.false_eq_true, if_false, if_true]

/-- A region that waits at its ENTER does so too. -/
theorem exec_stageResume_readyAt (hctl : r.ctl = .stage) (hentered : t0.entered = true) :
    ReadyAt s (exec .stageResume s) (offered v iq oq r) (v.stage.entry.getD 0) := by
  refine (offerState_arrives h iq oq).readyAt hat halone (fun _ => ⟨rfl, rfl⟩) (n := 1) ?_
  rw [← enterStages_eq hdecl hview hchoose hopen]
  simp only [htask, hctl, hentered, if_true]

end

/-! Packets (R211, R212). -/

/-- An accepted task changes neither regions nor what the step wants. -/
theorem enqueue_keeps (s : State) (t : Task) (n : Nat) (us : List Chunk) :
    (enqueue s t n us).regions = s.regions ∧ (enqueue s t n us).wants = s.wants := by
  change (us.foldl (fun s c => setUnitTag s (launchMode t.die) c true) s).regions = _ ∧
    (us.foldl (fun s c => setUnitTag s (launchMode t.die) c true) s).wants = _
  induction us generalizing s with
  | nil => exact ⟨rfl, rfl⟩
  | cons c us ih =>
    obtain ⟨hregions, hwants⟩ := ih (setUnitTag s (launchMode t.die) c true)
    cases c <;> exact ⟨hregions, hwants⟩

/-- SPAWN of a packet whose checks pass, with a number and an entry free, enqueues it and answers its number. -/
theorem spawnStep_accepts {s : State} {r : Region} {x : SpawnRun} {p : BitVec 2048} {t : Task} {us : List Chunk} (count : Nat)
    (hseq : seqFree s = true) (hroom : queueRoom s r.die x.queue = true)
    (hcheck : checkPacket s r.die (spawnHeld s r p x.tags x.queue) = .good t us) :
    spawnStep s r x true count [p] = spawnDone (takeSeq (enqueue s t s.module.nextSeq us)) r x.wd s.module.nextSeq := by
  have haccept : acceptAs s r.die (spawnHeld s r p x.tags x.queue) s.module.nextSeq = .done (enqueue s t s.module.nextSeq us) true := by
    have hroom' : queueRoom s r.die (spawnHeld s r p x.tags x.queue).queue = true := hroom
    rw [acceptAs, hcheck]
    simp only [hroom']
    rfl
  rw [spawnStep, hseq, hroom]
  simp only [haccept]
  rfl

/-- An instruction that reads its packet goes on with it. -/
theorem withPacket_eq {s u : State} {r : Region} {g : FmtG} {vs : List W64}
    (hcheck : capCheck (slotOf s r g) rRead (r.wreg g.wa).toNat 256 = none)
    (hread : ctlReads s r (slotOf s r g) (r.wreg g.wa).toNat rRead 32 = (some vs, u)) (f : BitVec 2048 → State → State) :
    withPacket s r g f = f (BitVec.ofNat 2048 (vs.foldr (fun v n => v.toNat + n * 2 ^ 64) 0)) u := by
  simp only [withPacket, hcheck, hread]

/-- The answer of a SPAWN or GRPL goes into the register that it names. -/
theorem spawnDone_eq (s : State) (r : Region) (g : FmtG) (v : Nat) :
    spawnDone s r g.wd.toNat v = ctlNext s r (Region.setW g.wd (BitVec.ofNat 64 v)) := by
  rw [spawnDone, BitVec.ofNat_toNat, BitVec.setWidth_eq]

section
variable {s s1 : State} {r : Region} {g : FmtG} {vs : List W64} (hat : Claims.at_ s r) (halone : s.Alone)
  (hctl : ∀ x, r.ctl ≠ .spawn x) (hcheck : capCheck (slotOf s r g) rRead (r.wreg g.wa).toNat 256 = none)
  (hread : ctlReads s r (slotOf s r g) (r.wreg g.wa).toNat rRead 32 = (some vs, s1))
include hat halone hctl hcheck hread

/-- SPAWN answers the number of the task that it enqueues. -/
theorem exec_spawn_readyAt (h : Arrives s s1 r) (hseq : seqFree s1 = true) {t : Task} {us : List Chunk} (hb : (r.opB g).toNat < 256)
    (hroom : queueRoom s1 r.die (r.opB g).toNat = true)
    (hpacket : let p := BitVec.ofNat 2048 (vs.foldr (fun v n => v.toNat + n * 2 ^ 64) 0)
      checkPacket s1 r.die (spawnHeld s1 r p (spawnRun s1 r g (r.opB g).toNat [p]).tags (r.opB g).toNat) = .good t us) :
    ReadyAt s (exec (.spawn g) s) (Region.setW g.wd (BitVec.ofNat 64 s1.module.nextSeq) r) (r.pc + 8) := by
  obtain ⟨hregions, hwants⟩ := enqueue_keeps s1 t s1.module.nextSeq us
  have henqueued : Arrives s (takeSeq (enqueue s1 t s1.module.nextSeq us)) r := by
    refine ⟨hwants.trans h.wants, ?_⟩
    rw [← h.region, State.region, State.region, ← hregions]
    rfl
  refine henqueued.readyAt hat halone (fun _ => ⟨rfl, rfl⟩) (n := 1) ?_
  dsimp only
  split
  · next x hx => exact absurd hx (hctl x)
  · rw [if_neg (Nat.not_le.2 hb), withPacket_eq hcheck hread, spawnStep_accepts 0 hseq hroom hpacket]
    exact congrArg _ (spawnDone_eq _ _ _ _)

/-- GRPL of no groups answers that it has enqueued none. -/
theorem exec_grpl_readyAt_empty {s3 : State} (hcount : readN32 s1 r (slotOf s1 r g) (r.opB g).toNat 1 = (some [0], s3))
    (h : Arrives s s3 r) : ReadyAt s (exec (.grpl g) s) (Region.setW g.wd 0 r) (r.pc + 8) := by
  refine h.readyAt hat halone (fun _ => ⟨rfl, rfl⟩) (n := 1) ?_
  dsimp only
  split
  · next x hx => exact absurd hx (hctl x)
  · rw [withPacket_eq hcheck hread, hcount]
    exact congrArg _ (spawnDone_eq _ _ _ _)

end

/-! Service requests and the system region (R219, R222). -/

section
variable {s : State} {r : Region} (hat : Claims.at_ s r)
include hat

/-- A service request goes on behind itself, frozen. -/
theorem exec_trapService_readyAt (code : BitVec 16) : ReadyAt s (exec (.trapService code) s) { r with frozen := .service } (r.pc + 8) :=
  readyAt_ctlTurn hat (u := postService s r r.pc) ((post_region ..).trans hat) (g := fun x => { x with frozen := .service })
    (fun _ => ⟨rfl, rfl⟩) rfl

/-- SETKS of a region that does not exist answers 0. -/
theorem exec_setks_readyAt_none {g : FmtG} (hsys : r.rblk = (s.die r.die).sysBlock)
    (hnone : s.region r.die ((r.wreg g.wa).toNat % 256) = none) : ReadyAt s (exec (.setks g) s) (Region.setW g.wd 0 r) (r.pc + 8) := by
  refine readyAt_ctlTurn hat hat (fun _ => ⟨rfl, rfl⟩) (n := 1) ?_
  have hsystem : r.isSystem s = true := beq_iff_eq.2 hsys
  simp only [hsystem, hnone, Bool.not_true, Bool.false_eq_true, if_false]
  rfl

/-- RDFQ of an empty queue answers 0. -/
theorem exec_rdfq_readyAt_empty (halone : s.Alone) {g : FmtG} (hsys : r.rblk = (s.die r.die).sysBlock)
    (hnone : (s.die r.die).faults.recs = []) : ReadyAt s (exec (.rdfq g) s) (Region.setW g.wd 0 r) (r.pc + 8) := by
  have harrives : Arrives s s r := ⟨halone.wants, hat⟩
  refine harrives.readyAt hat halone (fun _ => ⟨rfl, rfl⟩) (n := 1) ?_
  have hsystem : r.isSystem s = true := beq_iff_eq.2 hsys
  simp only [hsystem, hnone, Bool.not_true, Bool.false_eq_true, if_false]
  rfl

end

/-- Settles O52: each instruction leaves its region ready at the next one, with what it writes; where it has accesses, in the state that
they leave. -/
theorem controllerInstructionsComplete : Obligations.ControllerInstructionsComplete := by
  intro s s1 s2 r t0 k g code hat halone htask hrun now cap o b e behind sets stay there
  have arrives (h : there) : Arrives s s1 r := .of_at h.1 h.2.1 h.2.2.1
  have stays {i : Instr} (h : ReadyAt s (exec i s) r (r.pc + 8)) : stay i := h.region fun _ => ⟨rfl, rfl, rfl⟩
  have answers {i : Instr} {v : W64} (h : ReadyAt s (exec i s) (Region.setW g.wd v r) (r.pc + 8)) : sets i v := h.region fun _ => rfl
  refine ⟨exec_cfg_begins hat hrun k, stays (readyAt_ctlTurn hat hat (g := id) (fun _ => ⟨rfl, rfl⟩) (n := 1) rfl),
    stays (exec_yieldOp_readyAt hat hrun htask), (exec_trapService_readyAt hat code).region fun _ => ⟨rfl, rfl⟩,
    fun hnum hentered hb he => stays (exec_setstageDecl_readyAt hat hrun htask hnum hentered hb he), ?_, ?_, ?_, ?_, ?_, ?_, ?_, ?_⟩
  · intro ws hnum hentered hb hread h _ hok
    have binds {input : Bool} (hclash : bindingClash s t0 b g.slot.toNat e input = false) :=
      setQueue_readyAt hat hrun htask hnum hentered hb halone (arrives h) hclash hread hok
    exact ⟨fun hclash => stays (binds hclash), fun hclash => stays (binds hclash)⟩
  · intro vs v q hdecl hview _ hchoose hopen hwants hat2 hfocus goes
    have harrives : Arrives s s2 r := .of_at hwants hat2 hfocus
    have enters := exec_setstageEnter_readyAt hat halone htask hdecl hview hchoose hopen harrives g hrun
    have resumes := exec_stageResume_readyAt hat halone htask hdecl hview hchoose hopen harrives
    exact ⟨fun hfirst => (enters hfirst).region fun _ => rfl, fun hctl hentered => (resumes hctl hentered).region fun _ => rfl⟩
  · intro hlets hlen hwrite h
    exact stays (storeWords_readyAt hat halone (arrives h) (by rw [hlen]; exact hlets) hwrite)
  · intro hlets hlen hwrite h
    refine stays (storeWords_readyAt (g := g) hat halone (arrives h) ?_ hwrite)
    rw [List.length_append, List.length_map, hlen]
    exact hlets
  · intro vs hlets hread h
    have hloads : ReadyAt s (exec (.rstrW g) s) { r with w := vs } (r.pc + 8) :=
      loadWords_readyAt (f := fun vs x => { x with w := vs }) hat halone (arrives h) (fun _ => ⟨rfl, rfl⟩) hlets hread
    exact hloads.region fun _ => rfl
  · intro vs hlets hread h
    have hloads : ReadyAt s (exec (.rstrIs g) s) (Region.setSt (vs.getD 4 0) { r with i := (vs.take 4).map (·.setWidth 32) }) (r.pc + 8) :=
      loadWords_readyAt (f := fun vs x => Region.setSt (vs.getD 4 0) { x with i := (vs.take 4).map (·.setWidth 32) }) hat halone
        (arrives h) (fun _ => ⟨rfl, rfl⟩) hlets hread
    exact hloads.region fun _ => ⟨rfl, rfl⟩
  · exact fun hsys hrecs => ⟨answers (exec_rdfq_readyAt_empty hat halone hsys hrecs),
      fun hnone => answers (exec_setks_readyAt_none hat hsys hnone)⟩
  · intro vs p hctl hcheck hread h hseq
    refine ⟨fun t us hb hroom hpacket => ?_, fun s3 hcount hwants hat3 hfocus => ?_⟩
    · exact answers (exec_spawn_readyAt hat halone hctl hcheck hread (arrives h) hseq hb hroom hpacket)
    · exact answers (exec_grpl_readyAt_empty hat halone hctl hcheck hread hcount (.of_at hwants hat3 hfocus))

end Sys2Proof.Machine
end

section
/-! SUPPORT. A region whose block number is wider than its place in a record: the statements about ILLEGAL_OP that ask for the pc there. -/

namespace Sys2Proof.Machine

/-- A region at pc 64, its pitch running, whose controller block has the number 2^236. No field bounds that number; the header of a record
has eight bits for it, from bit 20 on (Table 22.2), and this one runs on to bit 256, where word 4 begins. -/
def wideRegion : Region := { freshRegion placedTask 0 (2 ^ 236) 0 with running := true }

/-- The module with that region in focus and nothing else under way. -/
def wideState : State :=
  { State.reset with regions := [wideRegion], tasks := [placedTask], focus := { Focus.none with rblk := 2 ^ 236 } }

theorem wide_at : Claims.at_ wideState wideRegion := rfl

theorem wide_alone : wideState.Alone := ⟨rfl, fun _ h => absurd h List.not_mem_nil, rfl, rfl⟩

/-- The record of an ILLEGAL_OP of that region holds 65 where its pc, 64, should stand (Table 22.4). -/
theorem wide_record : ((trapIllegal wideState wideRegion).die wideRegion.die).faults.recs.map (fieldNat · 256 64) = [65] := by
  decide +kernel

/-- So no instruction that traps there with ILLEGAL_OP leaves a record of its pc. -/
theorem not_illegal_of_trap {i : Instr} (h : exec i wideState = .next (trapIllegal wideState wideRegion)) :
    ¬ Claims.illegal wideState wideRegion i := by
  intro hclaim
  obtain ⟨t, r', x, ht, -, -, hrecs, -, hpc⟩ := hclaim wide_alone (by decide) (by decide)
  obtain rfl := Host.Outcome.next.inj (h.symm.trans ht)
  have hrecord := wide_record
  rw [hrecs, show (wideState.die wideRegion.die).faults.recs = [] from rfl, addRecord, List.map_singleton, hpc] at hrecord
  exact absurd hrecord (by decide)

/-- Refutes O29: ERET outside a handler is no `Claims.illegal` in `wideState`, whose block number runs into the pc of the record. -/
theorem not_savesServicesAndSystemInstructions : ¬ Obligations.SavesServicesAndSystemInstructions := by
  intro h
  obtain ⟨-, -, -, -, -, -, heret⟩ := h.2 wideState wideRegion ⟨0, 0, 0, 0, 0, 0⟩ 0 wide_at
  exact not_illegal_of_trap rfl (heret rfl)

/-- Refutes O32: CFG under a running pitch is no `Claims.illegal` in `wideState`, whose block number runs into the pc of the record. -/
theorem not_pitchExcludesConfiguring : ¬ Obligations.PitchExcludesConfiguring := by
  intro h
  obtain ⟨-, hrunning, -⟩ := h wideState wideRegion ⟨0, 0⟩ ⟨0⟩ ⟨0, 0, 0, 0, 0⟩ ⟨0, 0, 0, 0, 0, 0⟩ wide_at wide_alone
  exact not_illegal_of_trap rfl ((hrunning rfl).1 (.cfg ⟨0, 0⟩) List.mem_cons_self)

/-- Refutes O38: SETSTAGE.DECL under a running pitch is no `Claims.illegal` in `wideState`, whose block number runs into the pc of the
record. -/
theorem not_stagesAreDeclaredAndEntered : ¬ Obligations.StagesAreDeclaredAndEntered := by
  intro h
  obtain ⟨-, hdecl, -⟩ := h.1 wideState wideRegion ⟨0, 0, 0, 0, 0, 0⟩ placedTask wide_at wide_alone rfl
  have hmay : ¬(wideRegion.running = false ∧ wideRegion.num = 0 ∧ placedTask.entered = false) := fun hm => Bool.noConfusion hm.1
  exact not_illegal_of_trap rfl (hdecl (.inl hmay))

end Sys2Proof.Machine
end

section
/-! SUPPORT. A kick whose packet is lost while the descriptor of the page over it lies in two units of another module. -/

namespace Sys2Proof.Machine

/-- Die 0 has a kick for a packet whose granule cannot be read. The page over it has its descriptor on another module, at an address that
is no multiple of 16: the launch unit has been told the unit with the descriptor's first byte, and not yet the one behind it. -/
def straddleState : State :=
  { State.reset with
    module := { Module.reset with otb := 4096, otlen := 1 }
    dies := State.reset.dies.set 0 { Die.reset with launch := { Launch.reset with kicks := [0], lqn := 1 } }
    mem := memWriteN (memWriteN [] 4096 (natLe 32 (2 ^ 6 + 2 ^ 184 + 8192 * 2 ^ 200))) 8192 (natLe 16 (2 ^ 64 + (2 ^ 44 + 8) * 2 ^ 8))
    bad := [0]
    words := [⟨.none, .unit (2 ^ 40), natLe 16 (2 ^ 71), 0, 0⟩]
    agenda := [] }

/-- The retirement of that page lacks the descriptor's other unit. -/
theorem straddle_wants : (readHead straddleState 0 0).wants = [.unit (2 ^ 40 + 1)] := by decide +kernel

theorem straddle_failing : straddleState.failing (headAt (straddleState.die 0).launch) 256 = true := by decide +kernel

/-- So the unit is asked for, and the kick has not been taken (R315). -/
theorem exec_kick_straddle : exec .kick straddleState = .next (straddleState.ask .none (.unit (2 ^ 40 + 1))) := by
  have hread : exec .kick straddleState = .next (settle straddleState (readHead straddleState 0 0)) := rfl
  rw [hread, settle_lacks rfl (by rw [straddle_wants]; exact List.cons_ne_nil _ _), straddle_wants]
  rfl

/-- A kick that another module's answer holds back stands in the FIFO still. -/
theorem kicks_straddle : ((straddleState.ask .none (.unit (2 ^ 40 + 1))).die 0).launch.kicks = [0] := by
  obtain ⟨l, q, hdie⟩ := (ask_sameButTraffic .none straddleState (.unit (2 ^ 40 + 1))).dies 0
  rw [hdie]
  rfl

/-- Refutes O43: in `straddleState` a packet that no retry mends does not use its kick up, for the step that retires its page first asks
another module for the rest of the page's descriptor. -/
theorem not_kicksAndLaunchRegisters : ¬ Obligations.KicksAndLaunchRegisters := by
  rintro ⟨hkicks, -⟩
  obtain ⟨-, hreads, -⟩ := hkicks straddleState 0 [] (by decide) rfl rfl rfl rfl (needPhys_local (by decide +kernel) 256)
  have hlost := (hreads rfl (by decide)).1 (by rw [Bool.not_eq_false]; exact straddle_failing)
  obtain ⟨t, ht, hlaunch, -⟩ := hlost
  obtain rfl := Host.Outcome.next.inj (exec_kick_straddle.symm.trans ht)
  have hused := congrArg Launch.kicks hlaunch
  rw [show straddleState.focus.die = 0 from rfl, kicks_straddle] at hused
  exact absurd hused (List.cons_ne_nil _ _)

end Sys2Proof.Machine
end

section
/-! SUPPORT. The start and the completion of island commands: what each of their conditions says, and the done token. -/

namespace Sys2Proof.Machine

/-! The order of commands (R235, R249). -/

theorem Cmd.finished_iff {s : State} {c : Cmd} {t : Nat} :
    c.finished s t = true ↔ c.stage = .complete ∧ c.due < t ∧ s.asking (cmdFocus c.id) = false := by
  simp [Cmd.finished, and_assoc]

/-- An earlier command x of its port holds c back no longer. -/
def Cmd.ClearOf (s : State) (c x : Cmd) : Prop :=
  (x.stage = .complete ∧ x.due < s.now c.die ∧ s.asking (cmdFocus x.id) = false) ∨
  (c.target = 2 ∧ (x.stage = .draining ∨ (x.touch (touchKt s x)).conflict (c.touch (touchKt s c)) = false))

/-- No earlier command of its port holds c back. -/
def Cmd.Free (s : State) (c : Cmd) : Prop :=
  c.decodedAt < s.now c.die ∧ ∀ x ∈ s.cmds, x.samePort c = true → x.id < c.id → c.ClearOf s x

theorem cmdReady_iff {s : State} {c : Cmd} : cmdReady s c (s.now c.die) = true ↔ c.stage = .decoded ∧ c.Free s := by
  have hone (x : Cmd) : (!(x.samePort c && x.id < c.id) || x.finished s (s.now c.die) ||
      (c.isMatrix && (x.stage == .draining || !((x.touch (touchKt s x)).conflict (c.touch (touchKt s c)))))) = true ↔
      (x.samePort c = true → x.id < c.id → c.ClearOf s x) := by
    simp [Cmd.finished_iff, Cmd.isMatrix, Cmd.ClearOf, imp_iff_not_or, or_assoc]
  simp only [cmdReady, Bool.and_eq_true, List.all_eq_true, hone, beq_iff_eq, decide_eq_true_eq, Cmd.Free, and_assoc]

/-- A multiplication has the array of its island. -/
def Cmd.HasArray (s : State) (c : Cmd) : Prop :=
  c.isMul = true → ∀ x ∈ s.cmds, x.sameIsland c = true → x.isMul = true → x.id ≠ c.id →
    x.stage ≠ .running ∧ ¬(cmdReady s x (s.now c.die) = true ∧ arrayFirst x c = true)

theorem hasArray_iff {s : State} {c : Cmd} : (!c.isMul || arrayFree s c (s.now c.die)) = true ↔ c.HasArray s := by
  have hone (x : Cmd) : (!(x.sameIsland c && x.isMul && x.id != c.id) ||
      (x.stage != .running && !(cmdReady s x (s.now c.die) && arrayFirst x c))) = true ↔
      (x.sameIsland c = true → x.isMul = true → x.id ≠ c.id →
        x.stage ≠ .running ∧ ¬(cmdReady s x (s.now c.die) = true ∧ arrayFirst x c = true)) := by
    simp [imp_iff_not_or, or_assoc]
  rw [Bool.or_eq_true, Bool.not_eq_true', arrayFree, List.all_eq_true]
  simp only [hone, Cmd.HasArray]
  cases c.isMul <;> simp

/-- No port of its island is frozen for its region, and no FREEZE stops the region of a matrix command (R247, R253). -/
def Cmd.Open (s : State) (c : Cmd) : Prop :=
  islandFrozen s c.die c.target c.isl c.rblk = false ∧
  (c.target = 2 → ∃ r, s.region c.die c.rblk = some r ∧ r.held = false)

theorem startHeld_eq_false_iff {s : State} {c : Cmd} :
    startHeld s c = false ↔ (c.target = 2 → ∃ r, s.region c.die c.rblk = some r ∧ r.held = false) := by
  rw [startHeld, Cmd.isMatrix]
  cases s.region c.die c.rblk <;> by_cases htarget : c.target = 2 <;> simp [htarget]

/-! Start (R234, R235, R249). -/

/-- The command c has started. -/
def started (s : State) (c : Cmd) : State :=
  (s.updCmd c.id fun x =>
    { x with stage := .running, ticket := s.module.nextCmd, due := if c.isMul && c.begun then s.now c.die + 63 else s.now c.die }).updMod
    fun m => { m with nextCmd := m.nextCmd + 1 }

section
variable {s : State} {c : Cmd} (h : s.cmd s.focus.id = some c)
include h

theorem exec_engineCommandStart_eq [Decidable (c.stage = .decoded ∧ c.Free s ∧ c.HasArray s ∧ c.Open s)] :
    exec .engineCommandStart s =
      .next (if c.stage = .decoded ∧ c.Free s ∧ c.HasArray s ∧ c.Open s then started s c else s) := by
  have hgo : (cmdReady s c (s.now c.die) && !startHeld s c && !islandFrozen s c.die c.target c.isl c.rblk &&
      (!c.isMul || arrayFree s c (s.now c.die))) = true ↔ c.stage = .decoded ∧ c.Free s ∧ c.HasArray s ∧ c.Open s := by
    rw [Bool.and_eq_true, Bool.and_eq_true, Bool.and_eq_true, cmdReady_iff, hasArray_iff, Bool.not_eq_true', Bool.not_eq_true',
      startHeld_eq_false_iff, Cmd.Open]
    tauto
  change execEngineCommandStart s = _
  simp only [execEngineCommandStart, h, hgo]
  split <;> rfl

/-- A command that starts is the one that runs. -/
theorem left_started : Claims.left s (started s c) = some { c with
    stage := .running, ticket := s.module.nextCmd, due := if c.isMul && c.begun then s.now c.die + 63 else s.now c.die } := by
  have hid : c.id = s.focus.id := State.cmd_id h
  rw [Claims.left, ← hid]
  exact State.cmd_updCmd (f := fun x => { x with
    stage := .running, ticket := s.module.nextCmd, due := if c.isMul && c.begun then s.now c.die + 63 else s.now c.die }) (hid ▸ h) rfl

end

/-! Completion (R232, R234, R252). -/

/-- The done token of c stands on its return link. -/
def doneSent (s : State) (c : Cmd) : State :=
  (s.updRegion c.die c.rblk fun r =>
    returnTok r c.dcell c.doneport (s.now c.die) (.doneTok (if c.isMatrix then 0 else 4))).dropCmd c.id

section
variable {s : State} {c : Cmd} (h : s.cmd s.focus.id = some c)
include h

theorem exec_engineCommandComplete_waits (hover : c.finished s (s.now c.die) = false) :
    exec .engineCommandComplete s = .next s := by
  change execEngineCommandComplete s = _
  simp [execEngineCommandComplete, h, hover]

theorem exec_engineCommandComplete_silent (hover : c.finished s (s.now c.die) = true) (hdone : c.done = false) :
    exec .engineCommandComplete s = .next (s.dropCmd c.id) := by
  change execEngineCommandComplete s = _
  simp [execEngineCommandComplete, h, hover, hdone]

theorem exec_engineCommandComplete_tells (hover : c.finished s (s.now c.die) = true) (hdone : c.done = true) {r : Region}
    (hr : s.region c.die c.rblk = some r) : exec .engineCommandComplete s =
      .next (if returnRoom r c.dcell c.doneport (s.now c.die) then doneSent s c else s) := by
  change execEngineCommandComplete s = _
  simp only [execEngineCommandComplete, h, hover, hdone, hr, Bool.not_true, Bool.false_eq_true, if_false]
  split <;> rfl

theorem left_doneSent : Claims.left s (doneSent s c) = none := by
  rw [Claims.left, ← State.cmd_id h]
  exact State.cmd_dropCmd _ _

end

/-- The token of a command that is done (R232, R252). -/
def Cmd.doneToken (c : Cmd) (t : Nat) : Token := { Token.plain .ctl 0 with born := t, home := !c.isMatrix }

theorem doneTok_eq (c : Cmd) (t : Nat) :
    ({ Token.doneTok (if c.isMatrix then 0 else 4) with born := t } : Token) = c.doneToken t := by
  unfold Cmd.doneToken
  cases c.isMatrix <;> rfl

theorem region_doneSent {s : State} {c : Cmd} {r : Region} (hr : s.region c.die c.rblk = some r) :
    (doneSent s c).region c.die c.rblk =
      some (returnTok r c.dcell c.doneport (s.now c.die) (.doneTok (if c.isMatrix then 0 else 4))) := by
  have hkeeps : KeepsPlace fun r => returnTok r c.dcell c.doneport (s.now c.die) (.doneTok (if c.isMatrix then 0 else 4)) :=
    fun _ => ⟨rfl, rfl⟩
  change (s.updRegion c.die c.rblk _).region c.die c.rblk = _
  rw [State.region_updRegion_same hkeeps, hr]
  rfl

/-- Settles O39: by the meaning of each condition that the two steps test. -/
theorem islandCommandsStartAndComplete : Obligations.IslandCommandsStartAndComplete := by
  unfold Obligations.IslandCommandsStartAndComplete
  classical
  intro s c h t free array open_
  refine ⟨fun hstage hfree harray hopen => ?_, fun hnot => ?_, ?_⟩
  · have hstart : c.stage = .decoded ∧ c.Free s ∧ c.HasArray s ∧ c.Open s := ⟨hstage, hfree, harray, hopen⟩
    refine ⟨started s c, _, by rw [exec_engineCommandStart_eq h, if_pos hstart], left_started h, rfl, ?_, rfl, rfl, rfl⟩
    dsimp only
    split <;> omega
  · have hstay : ¬(c.stage = .decoded ∧ c.Free s ∧ c.HasArray s ∧ c.Open s) := by
      rintro ⟨hstage, hfree, harray, hopen⟩
      rcases hnot with hn | hn | hn | hn
      exacts [hn hstage, hn hfree, hn harray, hn hopen]
    rw [exec_engineCommandStart_eq h, if_neg hstay]
  · intro over_
    refine ⟨fun hover hdone => ?_, fun r hover hdone hr hlost hport => ⟨fun hroom => ?_, fun hroom => ?_⟩, fun hover => ?_⟩
    · exact exec_engineCommandComplete_silent h (Cmd.finished_iff.2 hover) hdone
    · refine ⟨doneSent s c, _, ?_, left_doneSent h, region_doneSent hr, ?_, fun j hj => ?_⟩
      · rw [exec_engineCommandComplete_tells h (Cmd.finished_iff.2 hover) hdone hr, if_pos hroom]
      · rw [cell_returnTok, Region.cell_updRt_same, doneTok_eq]
        exact CellRt.port_arrive hport hlost _
      · rw [cell_returnTok, Region.cell_updRt_other _ _ _ _ hj]
    · rw [exec_engineCommandComplete_tells h (Cmd.finished_iff.2 hover) hdone hr, hroom]
      rfl
    · exact exec_engineCommandComplete_waits h (by rwa [← Bool.not_eq_true, Cmd.finished_iff])

end Sys2Proof.Machine
end

section
/-! SUPPORT. The record that a host access posts, and host accesses of registers and of memory, by the condition that decides each. -/

namespace Sys2Proof.Machine

/-! The record that is posted (R294). -/

theorem add_shiftLeft_mod (a b : Nat) {k n : Nat} (h : n ≤ k) : (a + b <<< k) % 2 ^ n = a % 2 ^ n := by
  rw [Nat.shiftLeft_eq, ← Nat.add_sub_of_le h, Nat.pow_add, Nat.mul_left_comm, Nat.add_mul_mod_self_left]

theorem fieldNat_ofNat_low {w k : Nat} (h : k ≤ w) (n : Nat) : fieldNat (BitVec.ofNat w n) 0 k = n % 2 ^ k := by
  rw [fieldNat_eq_div_mod, BitVec.toNat_ofNat, Nat.pow_zero, Nat.div_one, Nat.mod_mod_of_dvd n (Nat.pow_dvd_pow 2 h)]

theorem recHead_mod (p : Where) (code src : Nat) (vec lost : Bool) (cyc tseq : Nat) :
    recHead p code src vec lost cyc tseq % 2 ^ 8 = code % 256 := by
  unfold recHead
  simp (disch := decide) only [add_shiftLeft_mod]
  omega

/-- The code stands in the low byte of a record (Table 22.2). -/
theorem fieldNat_mkRec_code (p : Where) (code src : Nat) (vec lost : Bool) (cyc tseq : Nat) (ws : List Nat) :
    fieldNat (mkRec (recHead p code src vec lost cyc tseq) ws) 0 8 = code % 256 :=
  (fieldNat_ofNat_low (by decide) _).trans ((add_shiftLeft_mod _ _ (by decide)).trans (recHead_mod ..))

theorem faults_pokePhys (s : State) (a : Nat) (bs : List Byte) (q d : Nat) :
    ((pokePhys s a bs q).die d).faults = (s.die d).faults := by
  unfold pokePhys
  split
  · exact (pokeBytes_same s (paLocal a) bs).faults d
  · rw [State.die, addPut_dies]
    rfl

/-- With room in the queue a record of the code is added to it. -/
theorem recs_post {s : State} {p : Where} (hd : p.die < s.dies.length)
    (hroom : (s.die p.die).faults.recs.length < Config.faultQueueSize) (code src : Nat) (vec : Bool) (tseq : Nat) (ws : List Nat) :
    ∃ y, ((post s p code src vec tseq ws).die p.die).faults.recs = addRecord (s.die p.die).faults.recs y ∧
      fieldNat y 0 8 = code % 256 := by
  refine ⟨_, ?_, fieldNat_mkRec_code p code src vec (s.die p.die).faults.mark (s.now p.die) tseq ws⟩
  unfold post
  simp only [hroom, if_true]
  split
  · rw [faults_pokePhys, State.die_updDie_same hd]
  · rw [State.die_updDie_same hd]

/-- Where the doorbell is not armed, a record changes the fault queue of its die alone. -/
theorem post_silent {s : State} {p : Where} (h : Claims.silent s p.die) (code src : Nat) (vec : Bool) (tseq : Nat) (ws : List Nat) :
    ∃ f : Die → FaultQ, post s p code src vec tseq ws = s.updDie p.die fun x => { x with faults := f x } := by
  have hbell : (s.die p.die).faults.fqdb.getLsbD 0 = false := h
  unfold post
  simp only [hbell, Bool.false_eq_true, if_false]
  split
  · exact ⟨_, rfl⟩
  · exact ⟨_, rfl⟩

/-! What the retirement of pages leaves alone (R309). -/

theorem replies_retireEntry (s : State) (g : Nat) : (retireEntry s g).replies = s.replies := by
  obtain ⟨ws, hneed⟩ := needPhys_eq s g 16
  change (pokePhys (needPhys s g 16) g _ 0).replies = _
  rw [(pokePhys_same _ _ _ _).replies, hneed]

theorem replies_frameLost (s : State) (p : Where) (src a : Nat) : (frameLost s p src a).replies = s.replies := by
  have hfold (gs : List Nat) (t : State) : (gs.foldl retireEntry t).replies = t.replies := by
    induction gs generalizing t with
    | nil => rfl
    | cons g gs ih => exact (ih _).trans (replies_retireEntry t g)
  exact (hfold _ _).trans (post_same ..).replies

/-! Host accesses of registers (R311). -/

section
variable {s : State} (hfree : s.module.hostFrozen = false) (ofs len : Nat) (v : W64)
include hfree

theorem exec_hostBar0Access_unsupported (w : Bool) (h : len ≠ 8 ∨ ofs % 8 ≠ 0 ∨ 0x2000000 ≤ ofs) :
    exec (.hostBar0Access w ofs len v) s = .next (reply s .unsupported) := by
  have hbad : (len != 8 || ofs % 8 != 0 || decide (bar0Bytes ≤ ofs)) = true := by
    rw [Bool.or_eq_true, Bool.or_eq_true, bne_iff_ne, bne_iff_ne, decide_eq_true_eq, or_assoc]
    exact h
  change execHostBar0Access w ofs len v s = _
  simp [execHostBar0Access, hfree, hbad]

section
variable (halign : ofs % 8 = 0) (hin : ofs < 0x2000000) (hrun : s.module.phase = .running)
include halign hin hrun

theorem exec_hostBar0Access_reads : exec (.hostBar0Access false ofs 8 v) s =
    .next (reply s (.data (readRegister s (ofs / 0x200000) (ofs % 0x200000 / 8)))) := by
  change execHostBar0Access false ofs 8 v s = _
  simp [execHostBar0Access, hfree, halign, bar0Bytes, bar0Window, hin.not_ge, hostReaches, hrun]

theorem exec_hostBar0Access_writes
    (hfifo : ¬(ofs % 0x200000 / 8 = 0x203 ∧ 16 ≤ (s.die (ofs / 0x200000)).launch.kicks.length))
    (haper : ¬(0x400 ≤ ofs % 0x200000 / 8 ∧ ofs % 0x200000 / 8 < 0x440 ∧ s.writesOut = true)) :
    exec (.hostBar0Access true ofs 8 v) s =
      .next (writeRegister (reply s .done) (ofs / 0x200000) (ofs % 0x200000 / 8) v) := by
  have hheld : writeHeld s (ofs / 0x200000) (ofs % 0x200000 / 8) = false := by
    rw [writeHeld, kickHeld, aperRegister, Bool.or_eq_false_iff, ← Bool.not_eq_true, Bool.and_eq_true, beq_iff_eq, decide_eq_true_eq]
    exact ⟨hfifo, by simpa [and_assoc] using haper⟩
  change execHostBar0Access true ofs 8 v s = _
  simp [execHostBar0Access, hfree, halign, bar0Bytes, bar0Window, hin.not_ge, hostReaches, hrun, hheld]

end
end

/-! Host accesses of memory (R309, R311, R319). -/

section
variable {s : State} (hfree : s.module.hostFrozen = false) (adr len : Nat) (bs : List Byte)
include hfree

theorem exec_hostHdmAccess_unsupported (w : Bool) (h : s.module.phase ≠ .running) :
    exec (.hostHdmAccess w adr len bs) s = .next (reply s .unsupported) := by
  change execHostHdmAccess w adr len bs s = _
  simp [execHostHdmAccess, hfree, h]

section
variable (hrun : s.module.phase = .running)
include hrun

theorem exec_hostHdmAccess_leaves (w : Bool) (h : 0x6000000000 < adr + len) : exec (.hostHdmAccess w adr len bs) s =
    .next (freezeHost s w (max adr Config.bondedEnd) (.hostHdmAccess w adr len bs)) := by
  change execHostHdmAccess w adr len bs s = _
  simp [execHostHdmAccess, hfree, hrun, Config.bondedEnd, h]

theorem exec_hostHdmAccess_writes (h : adr + bs.length ≤ 0x6000000000) :
    exec (.hostHdmAccess true adr bs.length bs) s = .next (reply (pokeBytes s adr bs) .done) := by
  change execHostHdmAccess true adr bs.length bs s = _
  simp [execHostHdmAccess, hfree, hrun, Config.bondedEnd, h.not_gt]

theorem exec_hostHdmAccess_reads (h : adr + len ≤ 0x6000000000) (hsound : ∀ g ∈ granules adr len, g ∉ s.bad) :
    exec (.hostHdmAccess false adr len bs) s = .next (reply s (.bytes (memReadN s.mem adr len))) := by
  have hnone : (granules adr len).find? (fun g => decide (g ∈ s.bad)) = none := by simpa using hsound
  change execHostHdmAccess false adr len bs s = _
  simp [execHostHdmAccess, hfree, hrun, Config.bondedEnd, h.not_gt, hnone]

/-- The lasting error of the first granule that cannot be read aborts a read. -/
theorem exec_hostHdmAccess_aborts (h : adr + len ≤ 0x6000000000) (hbad : ∃ g ∈ granules adr len, g ∈ s.bad) :
    ∃ g, exec (.hostHdmAccess false adr len bs) s =
      .next (reply (frameLost s (Where.die' (homeDie (64 * g))) srcHost (max adr (64 * g))) .abort) := by
  obtain ⟨g, hg⟩ : ∃ g, (granules adr len).find? (fun g => decide (g ∈ s.bad)) = some g := by
    rw [← Option.isSome_iff_exists, List.find?_isSome]
    simpa using hbad
  refine ⟨g, ?_⟩
  change execHostHdmAccess false adr len bs s = _
  simp [execHostHdmAccess, hfree, hrun, Config.bondedEnd, h.not_gt, hg]

end
end

/-- A host access held at the frozen port, with its record (R296). -/
theorem freezeHost_spec (s : State) (w : Bool) (adr : Nat) (i : Instr) :
    (freezeHost s w adr i).module = { s.module with hostFrozen := true } ∧ (freezeHost s w adr i).replies = s.replies ∧
    (freezeHost s w adr i).inputs = .run s.focus i :: s.inputs ∧
    ((s.die 0).faults.recs.length < Config.faultQueueSize → 0 < s.dies.length → ∃ y,
      ((freezeHost s w adr i).die 0).faults.recs = addRecord (s.die 0).faults.recs y ∧ fieldNat y 0 8 = fcBounds) := by
  have hpost := post_same s (Where.die' 0) fcBounds srcHost false 0 (hostAccess w adr).words
  refine ⟨?_, hpost.replies, ?_, fun hroom hdie => recs_post (p := Where.die' 0) hdie hroom fcBounds srcHost false 0 _⟩
  · change ({ (post s (Where.die' 0) fcBounds srcHost false 0 _).module with hostFrozen := true } : Module) = _
    rw [hpost.module]
  · change Event.run (post s (Where.die' 0) fcBounds srcHost false 0 _).focus i :: (post s (Where.die' 0) fcBounds srcHost false 0 _).inputs = _
    rw [hpost.focus, hpost.inputs]

/-- Bytes written at a local address stand there, and memory elsewhere is as it was. -/
theorem pokeBytes_writes {s : State} (hmem : s.memOk) (a : Nat) (bs : List Byte) :
    memReadN (pokeBytes s a bs).mem a bs.length = bs ∧
    ∀ b, b < a ∨ a + bs.length ≤ b → memRead (pokeBytes s a bs).mem b = memRead s.mem b := by
  rw [pokeBytes_mem]
  exact ⟨memReadN_memWriteN hmem a bs, fun b => memRead_memWriteN_other s.mem a b bs⟩

theorem exec_rdmaInboundWrite {s : State} {adr : Nat} {bs : List Byte} (hbs : bs ≠ []) (hfirst : localBacked s.module adr = true)
    (hlast : localBacked s.module (adr + bs.length - 1) = true) : exec (.rdmaInboundWrite adr bs) s = .next (pokeBytes s adr bs) := by
  change execRdmaInboundWrite adr bs s = _
  simp [execRdmaInboundWrite, hbs, hfirst, hlast]

/-- Settles O48: each access by the condition that decides it. -/
theorem hostAccessesReachRegistersAndMemory : Obligations.HostAccessesReachRegistersAndMemory := by
  unfold Obligations.HostAccessesReachRegistersAndMemory
  intro s ofs len adr v bs hmem
  refine ⟨fun hfrozen i hi => ?_, fun hfree => ⟨fun hbad w => ?_, fun halign hin hrun => ⟨?_, fun hfifo haper => ?_⟩,
    fun hrun => ⟨fun hin => ?_, fun hin hsound => ?_, fun hin hbad => ?_⟩, fun hrun hout w => ?_, fun hrun w => ?_⟩,
    fun hbs hfirst hlast => ?_⟩
  · obtain ⟨w, rfl | rfl⟩ := hi
    · exact if_pos hfrozen
    · exact if_pos hfrozen
  · exact exec_hostBar0Access_unsupported hfree ofs len v w hbad
  · exact exec_hostBar0Access_reads hfree ofs v halign hin hrun
  · refine ⟨_, exec_hostBar0Access_writes hfree ofs v halign hin hrun hfifo haper, ?_⟩
    unfold writeRegister writeRegisterFor
    split
    · next i hi => exact ⟨rfl, rfl, rfl, fun j hj => by rw [Option.some.inj (hi.symm.trans hj)]; rfl⟩
    · next hi => exact ⟨rfl, rfl, rfl, fun j hj => by rw [hi] at hj; cases hj⟩
  · obtain ⟨hread, hother⟩ := pokeBytes_writes hmem adr bs
    refine ⟨_, exec_hostHdmAccess_writes hfree adr bs hrun hin, ?_, hread, hother⟩
    exact congrArg (· ++ [HostReply.done]) (pokeBytes_same s adr bs).replies
  · exact exec_hostHdmAccess_reads hfree adr len bs hrun hin hsound
  · obtain ⟨g, hexec⟩ := exec_hostHdmAccess_aborts hfree adr len bs hrun hin hbad
    exact ⟨_, hexec, congrArg (· ++ [HostReply.abort]) (replies_frameLost s _ _ _)⟩
  · exact ⟨_, exec_hostHdmAccess_leaves hfree adr len bs hrun w hout, freezeHost_spec s w _ _⟩
  · exact exec_hostHdmAccess_unsupported hfree adr len bs w hrun
  · exact ⟨_, exec_rdmaInboundWrite hbs hfirst hlast, pokeBytes_writes hmem adr bs⟩

end Sys2Proof.Machine
end

section
/-! SUPPORT. Ports of links: what putting one and sending on one leave alone, what is given out, and a port that fails. -/

namespace Sys2Proof.Machine

/-! A port after ports are put (R312). -/

theorem State.port_id (s : State) (n : Nat) : (s.port n).id = n := by
  rw [State.port]
  cases h : (s.die (Config.portDie n)).links.find? (·.id == n) with
  | none => rfl
  | some p => simpa using List.find?_some h

/-- The links of a die with port p put among them. -/
def putLink (l : List LinkPort) (p : LinkPort) : List LinkPort :=
  if l.any (·.id == p.id) then l.map fun q => if q.id == p.id then p else q else l ++ [p]

theorem find?_putLink_same (l : List LinkPort) (p : LinkPort) : (putLink l p).find? (·.id == p.id) = some p := by
  unfold putLink
  split
  · next h =>
    obtain ⟨q, hq⟩ : ∃ q, l.find? (·.id == p.id) = some q := by
      rw [← Option.isSome_iff_exists, List.find?_isSome]
      simpa using h
    exact find?_map_update (p := fun q : LinkPort => q.id == p.id) (f := fun _ => p) hq (beq_self_eq_true _)
  · next h =>
    have hnone : l.find? (·.id == p.id) = none := by simpa using h
    simp [List.find?_append, hnone]

theorem find?_map_of_keeps {α : Type} {p : α → Bool} {f : α → α} (hp : ∀ x, p (f x) = p x) (hf : ∀ x, p x = true → f x = x)
    (l : List α) : (l.map f).find? p = l.find? p := by
  rw [List.find?_map, show p ∘ f = p from funext hp]
  cases h : l.find? p with
  | none => rfl
  | some x => rw [Option.map_some, hf x (List.find?_some h)]

theorem find?_putLink_other (l : List LinkPort) {p : LinkPort} {n : Nat} (h : n ≠ p.id) :
    (putLink l p).find? (·.id == n) = l.find? (·.id == n) := by
  unfold putLink
  split
  · refine find?_map_of_keeps (fun q => ?_) (fun q hq => if_neg fun hp => h ?_) l
    · by_cases hq : q.id = p.id
      · simp [hq]
      · simp [hq]
    · exact (beq_iff_eq.1 hq).symm.trans (beq_iff_eq.1 hp)
  · simp [List.find?_append, Ne.symm h]

theorem putPort_eq {p : LinkPort} (h : p.id < Config.narebPorts) (s : State) :
    putPort s p = s.updDie (Config.portDie p.id) fun x => { x with links := putLink x.links p } :=
  if_neg (Nat.not_le.2 h)

theorem port_putPort_same {s : State} {p : LinkPort} (h : p.id < Config.narebPorts) (hd : Config.portDie p.id < s.dies.length) :
    (putPort s p).port p.id = p := by
  rw [putPort_eq h, State.port, State.die_updDie_same hd, find?_putLink_same]
  rfl

theorem port_putPort_at {s : State} {p : LinkPort} {n : Nat} (hid : p.id = n) (hn : n < Config.narebPorts)
    (hd : Config.portDie n < s.dies.length) : (putPort s p).port n = p := by
  subst hid
  exact port_putPort_same hn hd

theorem port_putPort_other (s : State) {p : LinkPort} {n : Nat} (h : n ≠ p.id) : (putPort s p).port n = s.port n := by
  by_cases hp : p.id < Config.narebPorts
  · have hlinks : ((s.updDie (Config.portDie p.id) fun x => { x with links := putLink x.links p }).die (Config.portDie n)).links.find? (·.id == n) =
        (s.die (Config.portDie n)).links.find? (·.id == n) :=
      getD_modNth_map (fun x : Die => x.links.find? (·.id == n)) _ (fun x => find?_putLink_other x.links h) _ _ _ _
    rw [putPort_eq hp, State.port, hlinks]
    rfl
  · rw [putPort, if_pos (Nat.not_lt.1 hp)]

theorem port_putPort (s : State) (p : LinkPort) (n : Nat) :
    (putPort s p).port n = s.port n ∨ n = p.id ∧ (putPort s p).port n = p := by
  by_cases hn : n = p.id
  · by_cases hp : p.id < Config.narebPorts
    · by_cases hd : Config.portDie p.id < s.dies.length
      · exact .inr ⟨hn, hn ▸ port_putPort_same hp hd⟩
      · rw [putPort_eq hp, State.updDie, modNth_of_length_le (Nat.not_lt.1 hd)]
        exact .inl rfl
    · rw [putPort, if_pos (Nat.not_lt.1 hp)]
      exact .inl rfl
  · exact .inl (port_putPort_other s hn)

theorem LinkPort.id_keep (p : LinkPort) (fs : List Flit) : (p.keep fs).id = p.id := by
  unfold LinkPort.keep
  dsimp only

theorem LinkPort.up_keep (p : LinkPort) (fs : List Flit) : (p.keep fs).up = p.up := by
  unfold LinkPort.keep
  dsimp only

theorem LinkPort.id_enter (p : LinkPort) (bs : List Byte) : (p.enter bs).id = p.id := by
  unfold LinkPort.enter
  dsimp only

/-! What is sent leaves the ports in service and the number of dies as they are (R312). -/

/-- The same ports are in service, and the same dies there. -/
structure SameService (s t : State) : Prop where
  up : ∀ n, (t.port n).up = (s.port n).up
  dies : t.dies.length = s.dies.length

namespace SameService

theorem refl (s : State) : SameService s s := ⟨fun _ => rfl, rfl⟩

theorem trans {s t u : State} (h : SameService s t) (k : SameService t u) : SameService s u :=
  ⟨fun n => (k.up n).trans (h.up n), k.dies.trans h.dies⟩

theorem foldl {α : Type} {f : State → α → State} (hf : ∀ s a, SameService s (f s a)) (l : List α) (s : State) :
    SameService s (l.foldl f s) := by
  induction l generalizing s with
  | nil => exact refl s
  | cons a l ih => exact (hf s a).trans (ih _)

theorem portsUp {s t : State} (h : SameService s t) : t.portsUp = s.portsUp := by
  simp only [State.portsUp, h.up]

end SameService

theorem dies_length_putPort (s : State) (p : LinkPort) : (putPort s p).dies.length = s.dies.length := by
  unfold putPort
  split
  · rfl
  · exact length_modNth _ _ _

theorem putPort_service {s : State} {p : LinkPort} (h : p.up = (s.port p.id).up) : SameService s (putPort s p) := by
  refine ⟨fun n => ?_, dies_length_putPort s p⟩
  rcases port_putPort s p n with hport | ⟨rfl, hport⟩
  · rw [hport]
  · rw [hport, h]

theorem sendOn_service (s : State) (n : Nat) (fs : List Flit) : SameService s (sendOn s n fs) := by
  have hput : SameService s (putPort s ((s.port n).keep fs)) := by
    refine putPort_service ?_
    rw [LinkPort.up_keep, LinkPort.id_keep, State.port_id]
  exact ⟨hput.up, hput.dies⟩

theorem sendFlits_service (s : State) (fs : List Flit) : SameService s (sendFlits s fs) := by
  unfold sendFlits
  split
  · exact .refl s
  · split
    · exact .refl s
    · exact sendOn_service _ _ _

theorem tellPeer_service (woke : Bool) (s : State) (m : Monitor) : SameService s (tellPeer woke s m) := by
  unfold tellPeer
  split
  · exact .refl s
  · exact sendFlits_service _ _

theorem wake_service (s : State) (g : Nat) : SameService s (wake s g) := by
  refine .trans ?_ (.foldl (tellPeer_service true) _ _)
  exact ⟨fun _ => rfl, rfl⟩

theorem pokeBytes_service (s : State) (a : Nat) (bs : List Byte) : SameService s (pokeBytes s a bs) := by
  refine .trans ?_ (.foldl wake_service _ _)
  exact ⟨fun _ => rfl, rfl⟩

theorem pokePhys_dies_length (s : State) (a : Nat) (bs : List Byte) (q : Nat) : (pokePhys s a bs q).dies.length = s.dies.length := by
  unfold pokePhys
  split
  · exact (pokeBytes_service s _ _).dies
  · rw [addPut_dies]

theorem post_dies_length (s : State) (p : Where) (code src : Nat) (vec : Bool) (tseq : Nat) (ws : List Nat) :
    (post s p code src vec tseq ws).dies.length = s.dies.length := by
  unfold post
  dsimp only
  split
  · split
    · exact (pokePhys_dies_length _ _ _ _).trans (length_modNth _ _ _)
    · exact length_modNth _ _ _
  · exact length_modNth _ _ _

/-! What is given out (R312). -/

theorem outbox_sendFlits {s : State} (h : s.portsUp ≠ []) (fs : List Flit) : (sendFlits s fs).outbox = s.outbox ++ fs := by
  cases fs with
  | nil => exact (List.append_nil _).symm
  | cons f fs =>
    have hup : s.portsUp.isEmpty = false := by simpa using h
    simp [sendFlits, hup, sendOn]

/-- What is told of monitors goes out behind what has gone before. -/
theorem outbox_tellPeer (woke : Bool) (s : State) (m : Monitor) : ∃ fs, (tellPeer woke s m).outbox = s.outbox ++ fs := by
  unfold tellPeer
  split
  · exact ⟨[], (List.append_nil _).symm⟩
  · by_cases h : s.portsUp = []
    · exact ⟨[], by simp [sendFlit, sendFlits, h]⟩
    · exact ⟨_, outbox_sendFlits h _⟩

theorem outbox_foldl {α : Type} {f : State → α → State} (hf : ∀ s a, ∃ fs, (f s a).outbox = s.outbox ++ fs) (l : List α) (s : State) :
    ∃ fs, (l.foldl f s).outbox = s.outbox ++ fs := by
  induction l generalizing s with
  | nil => exact ⟨[], (List.append_nil _).symm⟩
  | cons a l ih =>
    obtain ⟨fs, hfs⟩ := hf s a
    obtain ⟨gs, hgs⟩ := ih (f s a)
    exact ⟨fs ++ gs, by rw [List.foldl_cons, hgs, hfs, List.append_assoc]⟩

theorem outbox_wake (s : State) (g : Nat) : ∃ fs, (wake s g).outbox = s.outbox ++ fs := by
  unfold wake
  exact outbox_foldl (outbox_tellPeer true) _ _

theorem outbox_pokeBytes (s : State) (a : Nat) (bs : List Byte) : ∃ fs, (pokeBytes s a bs).outbox = s.outbox ++ fs := by
  unfold pokeBytes
  exact outbox_foldl outbox_wake _ _

/-- No monitor of another module is armed. -/
def State.NoPeers (s : State) : Prop := ∀ m ∈ s.monitors, m.peer = none

theorem wake_noPeers {s : State} (h : s.NoPeers) (g : Nat) : (wake s g).NoPeers ∧ (wake s g).outbox = s.outbox := by
  have hnone : (s.monitors.filter fun m => m.gran == g && m.peer.isSome) = [] := by
    rw [List.filter_eq_nil_iff]
    intro m hm
    simp [h m hm]
  unfold wake
  rw [hnone]
  refine ⟨fun m hm => ?_, rfl⟩
  obtain ⟨m', hm', rfl⟩ := List.mem_map.1 hm
  have hpeer := h m' (List.mem_filter.1 hm').1
  split <;> exact hpeer

theorem outbox_pokeBytes_noPeers {s : State} (h : s.NoPeers) (a : Nat) (bs : List Byte) : (pokeBytes s a bs).outbox = s.outbox := by
  have hwakes (gs : List Nat) (t : State) (ht : t.NoPeers) : (gs.foldl wake t).outbox = t.outbox := by
    induction gs generalizing t with
    | nil => rfl
    | cons g gs ih =>
      obtain ⟨hpeers, hout⟩ := wake_noPeers ht g
      exact (ih _ hpeers).trans hout
  exact hwakes _ (clearTags { s with mem := memWriteN s.mem a bs } a bs.length) h

/-! A port that fails (R312). -/

theorem sendOn_port_other (s : State) {m n : Nat} (h : n ≠ m) (fs : List Flit) : (sendOn s m fs).port n = s.port n :=
  port_putPort_other s (p := (s.port m).keep fs) (by rwa [LinkPort.id_keep, State.port_id])

/-- What is sent on one port leaves faults and every other port alone. -/
structure SameBut (m : Nat) (s t : State) : Prop where
  port : ∀ n, n ≠ m → t.port n = s.port n
  faults : ∀ d, (t.die d).faults = (s.die d).faults

theorem SameBut.trans {m : Nat} {s t u : State} (h : SameBut m s t) (k : SameBut m t u) : SameBut m s u :=
  ⟨fun n hn => (k.port n hn).trans (h.port n hn), fun d => (k.faults d).trans (h.faults d)⟩

theorem putPort_sameBut (s : State) {p : LinkPort} {m : Nat} (h : p.id = m) : SameBut m s (putPort s p) :=
  ⟨fun _ hn => port_putPort_other s (h ▸ hn), (putPort_same s p).faults⟩

theorem sendOn_sameBut (s : State) (m : Nat) (fs : List Flit) : SameBut m s (sendOn s m fs) :=
  ⟨fun _ hn => sendOn_port_other s hn fs, (sendOn_same s m fs).faults⟩

/-- A block that is coded afresh goes out on port m alone. -/
theorem resend_block_sameBut (s : State) (m raw : Nat) (bs : List Byte) (fs : List Flit) :
    SameBut m s (sendOn (putPort s { (s.port m).enter bs with raw := raw }) m fs) := by
  have hid : ({ (s.port m).enter bs with raw := raw } : LinkPort).id = m := (LinkPort.id_enter (s.port m) bs).trans (s.port_id m)
  exact (putPort_sameBut s hid).trans (sendOn_sameBut _ m fs)

theorem resendOn_sameBut (m : Nat) (win : List (Nat × List Byte)) (last : Option Flit) (fs : List Flit) (s : State) :
    SameBut m s (resendOn m win last fs s) := by
  induction fs generalizing last s with
  | nil => exact ⟨fun _ _ => rfl, fun _ => rfl⟩
  | cons f fs ih =>
    unfold resendOn
    dsimp only
    split_ifs
    · exact (resend_block_sameBut s m _ _ _).trans (ih _ _)
    · exact ih _ _
    · split
      · exact (resend_block_sameBut s m _ _ _).trans (ih _ _)
      · exact ih _ _
    · exact (sendOn_sameBut s m _).trans (ih _ _)

theorem portBeside_up {s : State} {n m : Nat} (h : s.portBeside n = some m) : (s.port m).up = true := by
  have hm : m ∈ s.portsUp := by
    unfold State.portBeside at h
    split at h
    · next k hk => exact Option.some.inj h ▸ List.mem_of_find?_eq_some hk
    · exact List.mem_of_mem_head? h
  exact (List.mem_filter.1 hm).2

/-- Port p out of service, with its record. -/
def portDown (s : State) (p : LinkPort) : State :=
  putPort (postLasting s (Where.die' (Config.portDie p.id)) srcLink p.id 6 0) { LinkPort.reset p.id with up := false, raw := p.raw }

/-- What a failed port had not acknowledged goes out beside it. -/
theorem failPort_sends (s : State) (p : LinkPort) : failPort s p = portDown s p ∨
    ∃ m, ((portDown s p).port m).up = true ∧ SameBut m (portDown s p) (failPort s p) := by
  unfold failPort
  dsimp only
  split
  · next m hm => exact .inr ⟨m, portBeside_up (s := portDown s p) hm, resendOn_sameBut m _ _ _ _⟩
  · exact .inl rfl

section
variable {s : State} {p : LinkPort} {n : Nat} (hid : p.id = n) (hn : n < Config.narebPorts) (hd : Config.portDie n < s.dies.length)

include hid hn hd in
theorem up_portDown : ((portDown s p).port n).up = false := by
  have hport : (portDown s p).port n = { LinkPort.reset p.id with up := false, raw := p.raw } :=
    port_putPort_at (p := { LinkPort.reset p.id with up := false, raw := p.raw }) hid hn ((post_dies_length ..).symm ▸ hd)
  rw [hport]

include hid hn hd in
/-- A port that fails is out of service. -/
theorem up_failPort : ((failPort s p).port n).up = false := by
  rcases failPort_sends s p with heq | ⟨m, hup, hsame⟩
  · rw [heq, up_portDown hid hn hd]
  · have hne : n ≠ m := fun hm => by rw [← hm, up_portDown hid hn hd] at hup; cases hup
    rw [hsame.port _ hne, up_portDown hid hn hd]

include hid hd in
/-- Its lasting error is recorded on its die. -/
theorem recs_failPort (hroom : (s.die (Config.portDie n)).faults.recs.length < Config.faultQueueSize) : ∃ y,
    ((failPort s p).die (Config.portDie n)).faults.recs = addRecord (s.die (Config.portDie n)).faults.recs y ∧
    fieldNat y 0 8 = fcLasting := by
  have hdown : ((failPort s p).die (Config.portDie n)).faults = ((portDown s p).die (Config.portDie n)).faults := by
    rcases failPort_sends s p with heq | ⟨m, -, hsame⟩
    · rw [heq]
    · exact hsame.faults _
  rw [hdown, portDown, (putPort_same _ _).faults, hid]
  exact recs_post (p := Where.die' (Config.portDie n)) hd hroom fcLasting srcLink false 0 _

end

end Sys2Proof.Machine
end

section
/-! SUPPORT. Flits and requests of other modules, by kind, and the held beats of a port. -/

namespace Sys2Proof.Machine

/-! Answers to other modules (R314, R315). -/

/-- Bytes that run on into flits of 56 stand in the payloads of the flits, in order. -/
theorem prefix_chunks (dst src kind tag : Nat) (body : List Byte) :
    body <+: ((List.range ((body.length + 55) / 56)).map fun i =>
      mkFlit dst src kind tag ((body.drop (56 * i)).take 56)).flatMap (·.payload) := by
  induction hn : body.length using Nat.strong_induction_on generalizing body with
  | _ n ih =>
    subst hn
    rcases Nat.lt_or_ge 56 body.length with hlong | hshort
    · have hcount : (body.length + 55) / 56 = ((body.drop 56).length + 55) / 56 + 1 := by
        rw [List.length_drop]
        omega
      have hfirst : (body.take 56).length = 56 := by rw [List.length_take]; omega
      have hrest := ih _ (by rw [List.length_drop]; omega) (body.drop 56) rfl
      rw [hcount, List.range_succ_eq_map, List.map_cons, List.flatMap_cons, List.map_map]
      have hpay : (mkFlit dst src kind tag ((body.drop (56 * 0)).take 56)).payload = body.take 56 := by
        simp [mkFlit, hfirst]
      rw [hpay]
      conv_lhs => rw [← List.take_append_drop 56 body]
      rw [List.prefix_append_right_inj]
      simpa [Function.comp_def, List.drop_drop, Nat.mul_add, Nat.add_comm] using hrest
    · rcases Nat.eq_zero_or_pos body.length with h0 | hpos
      · rw [List.length_eq_zero_iff.1 h0]
        exact List.nil_prefix
      · rw [show (body.length + 55) / 56 = 1 by omega]
        simp [mkFlit, List.take_of_length_le hshort]

theorem payload_answerFlits (s : State) (f : Flit) (kind : Nat) (bs : List Byte) :
    f.payload.take 8 ++ bs <+: (answerFlits s f kind bs).flatMap (·.payload) :=
  prefix_chunks f.src.toNat s.module.nrid.toNat kind f.tag.toNat (f.payload.take 8 ++ bs)

theorem mem_answerFlits {s : State} {f x : Flit} {kind : Nat} {bs : List Byte} (h : x ∈ answerFlits s f kind bs) :
    x.kind = BitVec.ofNat 4 kind ∧ x.tag = f.tag ∧ x.dst = f.src := by
  obtain ⟨i, -, rfl⟩ := List.mem_map.1 h
  exact ⟨rfl, BitVec.ofNat_toNat .., BitVec.ofNat_toNat ..⟩

/-! Requests of other modules (R309, R315). -/

theorem length_memReadN (m : List Host.Cell) (a n : Nat) : (memReadN m a n).length = n := by
  rw [memReadN_eq_map, List.length_map, List.length_range]

theorem homeLost_silent {s : State} {a : Nat} (hbell : Claims.silent s (homeDie a))
    (hpage : pageOwners s (s.module.nrid.toNat * 2 ^ 44 + a) = []) :
    (homeLost s a).outbox = s.outbox ∧ (homeLost s a).mem = s.mem := by
  obtain ⟨g, hpost⟩ : ∃ g : Die → FaultQ, post s (Where.die' (homeDie a)) fcLasting srcTile false 0 (unitAccess false 0 a).words =
      s.updDie (homeDie a) fun x => { x with faults := g x } := post_silent (p := Where.die' (homeDie a)) hbell ..
  have hfree : pageOwners (s.updDie (homeDie a) fun x => { x with faults := g x }) (s.module.nrid.toNat * 2 ^ 44 + a) = [] := hpage
  have hlost : homeLost s a = s.updDie (homeDie a) fun x => { x with faults := g x } := by
    rw [homeLost, frameLost, hpost, retireFrame, hfree, List.foldl_nil]
  rw [hlost]
  exact ⟨rfl, rfl⟩

/-- Memory outside n bytes from a is as it was. -/
def KeepsOutside (a n : Nat) (s t : State) : Prop := ∀ b, b < a ∨ a + n ≤ b → memRead t.mem b = memRead s.mem b

theorem pokeSync_mem (s : State) (a : Nat) (bs : List Byte) : (pokeSync s a bs).mem = memWriteN s.mem a bs := by
  rw [pokeSync, applyTags_mem, pokeBytes_mem]

/-- An ATOM form of another module writes its own bytes alone. -/
theorem homeAtomic_keepsOutside {f : Flit} (hcode : (f.payload.getD 8 0).toNat < 8) (s : State) (a n : Nat) :
    KeepsOutside a n s (homeAtomic s f a n) := by
  intro b hb
  have hb8 : ((flitBody f).getD 0 0).toNat < 8 := by simpa [flitBody] using hcode
  unfold homeAtomic
  simp only [hb8, if_true]
  split
  · next v _ =>
    change memRead (pokeSync s a (natLe n v)).mem b = _
    rw [pokeSync_mem, memRead_memWriteN_other _ _ _ _ (by rwa [natLe_length])]
  · rfl

/-- A write of another module at home, with the capability tag of a whole unit (R159). -/
def homeWrite (s : State) (f : Flit) : State :=
  let t := pokeBytes s (paLocal (flitPa f)) ((flitBody f).take (flitCount f))
  if flitCount f == 16 && paLocal (flitPa f) % 16 == 0 && (flitBody f).getD 16 0 == 1 then
    { t with capTags := insNat (paLocal (flitPa f) / 16) t.capTags } else t

/-- A write of another module with its acknowledgement on the way. -/
def answeredWrite (s : State) (f : Flit) : State := sendFlits (homeWrite s f) (answerFlits (homeWrite s f) f 3 [])

section
variable {s : State} {f : Flit} (h1 : 1 ≤ flitCount f) (h64 : flitCount f ≤ 64)
  (hback : physBacked s (flitPa f) (flitCount f) = true)
include h1 h64 hback

theorem narebRequest_passes : (flitCount f == 0 || decide (64 < flitCount f) || !physBacked s (flitPa f) (flitCount f)) = false := by
  simp [hback, h64.not_gt, Nat.ne_of_gt h1]

theorem exec_narebRequest_lost (hkind : f.kind = 0) (hbad : s.failing (flitPa f) (flitCount f) = true) :
    exec (.narebRequest f) s = .next (homeLost s (paLocal (flitPa f))) := by
  have hcode : f.kind.toNat = 0 := by rw [hkind]; rfl
  change execNarebRequest f s = _
  simp only [execNarebRequest, narebRequest_passes h1 h64 hback, hcode, hbad, Bool.false_eq_true, if_false, if_true]

theorem exec_narebRequest_reads (hkind : f.kind = 0) (hsound : s.failing (flitPa f) (flitCount f) = false) :
    exec (.narebRequest f) s = .next (sendFlits s (answerFlits s f 1
      (memReadN s.mem (paLocal (flitPa f)) (flitCount f) ++ tagByte s (paLocal (flitPa f)) (flitCount f)))) := by
  have hcode : f.kind.toNat = 0 := by rw [hkind]; rfl
  change execNarebRequest f s = _
  simp only [execNarebRequest, narebRequest_passes h1 h64 hback, hcode, hsound, Bool.false_eq_true, if_false]

theorem exec_narebRequest_writes (hkind : f.kind = 2) : exec (.narebRequest f) s = .next (answeredWrite s f) := by
  have hcode : f.kind.toNat = 2 := by rw [hkind]; rfl
  change execNarebRequest f s = _
  simp only [execNarebRequest, narebRequest_passes h1 h64 hback, hcode, Bool.false_eq_true, if_false]
  rfl

theorem exec_narebRequest_atomic (hkind : f.kind = 4) (hsound : s.failing (flitPa f) (flitCount f) = false)
    (hform : (f.payload.getD 8 0).toNat < 8) : exec (.narebRequest f) s =
    .next (sendFlits ((homeAtomic s f (paLocal (flitPa f)) (flitCount f)).flush s.focus)
      (answerFlits s f 1 (memReadN s.mem (paLocal (flitPa f)) (flitCount f)))) := by
  have hcode : f.kind.toNat = 4 := by rw [hkind]; rfl
  have hop : ((flitBody f).getD 0 0).toNat < 8 := by simpa [flitBody] using hform
  have hblock : (((flitBody f).getD 0 0).toNat == codeBlock) = false := beq_eq_false_iff_ne.2 (by unfold codeBlock; omega)
  have hdisarm : (((flitBody f).getD 0 0).toNat == codeDisarm) = false := beq_eq_false_iff_ne.2 (by unfold codeDisarm; omega)
  change execNarebRequest f s = _
  simp only [execNarebRequest, narebRequest_passes h1 h64 hback, hcode, hblock, hdisarm, hsound, Bool.false_eq_true, if_false]

end

theorem length_request {f : Flit} (h : 1 ≤ flitCount f) : (f.payload.take 8).length = 8 := by
  rw [List.length_take, Nat.min_eq_left]
  by_contra hshort
  rw [flitCount, List.getD_eq_default _ _ (by omega)] at h
  exact absurd h (by decide)

theorem homeWrite_spec (s : State) (f : Flit) :
    (homeWrite s f).mem = memWriteN s.mem (paLocal (flitPa f)) ((flitBody f).take (flitCount f)) ∧
    (homeWrite s f).portsUp = s.portsUp ∧ (∃ wakes, (homeWrite s f).outbox = s.outbox ++ wakes) ∧
    (s.NoPeers → (homeWrite s f).outbox = s.outbox) := by
  have hup := (pokeBytes_service s (paLocal (flitPa f)) ((flitBody f).take (flitCount f))).portsUp
  have hout := outbox_pokeBytes s (paLocal (flitPa f)) ((flitBody f).take (flitCount f))
  have hpeers (h : s.NoPeers) := outbox_pokeBytes_noPeers h (paLocal (flitPa f)) ((flitBody f).take (flitCount f))
  unfold homeWrite
  split
  · exact ⟨pokeBytes_mem .., hup, hout, hpeers⟩
  · exact ⟨pokeBytes_mem .., hup, hout, hpeers⟩

/-- The acknowledgement of a request is one flit. -/
theorem answerFlits_nil (s : State) {f : Flit} (h : 1 ≤ flitCount f) (kind : Nat) : ∃ x, answerFlits s f kind [] = [x] := by
  have hlen : ((f.payload.take 8 ++ []).length + 55) / 56 = 1 := by rw [List.append_nil, length_request h]
  exact ⟨_, by rw [answerFlits, hlen]; rfl⟩

/-- The answer to a read carries its address and count, and then the bytes. -/
theorem payload_readAnswer (s : State) {f : Flit} (h : 1 ≤ flitCount f) (m : List Host.Cell) (a : Nat) (tags : List Byte) :
    ((answerFlits s f 1 (memReadN m a (flitCount f) ++ tags)).flatMap (·.payload)).take (8 + flitCount f) =
      f.payload.take 8 ++ memReadN m a (flitCount f) := by
  have hbody : f.payload.take 8 ++ memReadN m a (flitCount f) <+: f.payload.take 8 ++ (memReadN m a (flitCount f) ++ tags) := by
    rw [← List.append_assoc]
    exact List.prefix_append _ _
  have hprefix := List.prefix_iff_eq_take.1 (hbody.trans (payload_answerFlits s f 1 _))
  rw [List.length_append, length_request h, length_memReadN] at hprefix
  exact hprefix.symm

/-- A write of another module leaves its bytes in memory, and no others. -/
theorem answeredWrite_bytes {s : State} {f : Flit} (hmem : s.memOk) (hlen : flitCount f ≤ (f.payload.drop 8).length) :
    memReadN (answeredWrite s f).mem (paLocal (flitPa f)) (flitCount f) = (f.payload.drop 8).take (flitCount f) ∧
    KeepsOutside (paLocal (flitPa f)) (flitCount f) s (answeredWrite s f) := by
  have hbytes : ((f.payload.drop 8).take (flitCount f)).length = flitCount f := by rw [List.length_take, Nat.min_eq_left hlen]
  have hstore : (answeredWrite s f).mem = memWriteN s.mem (paLocal (flitPa f)) ((f.payload.drop 8).take (flitCount f)) :=
    (sendFlits_same _ _).mem.trans (homeWrite_spec s f).1
  refine ⟨?_, fun b hb => ?_⟩
  · have hread := memReadN_memWriteN hmem (paLocal (flitPa f)) ((f.payload.drop 8).take (flitCount f))
    rwa [hbytes, ← hstore] at hread
  · rw [hstore, memRead_memWriteN_other _ _ _ _ (by rwa [hbytes])]

/-- Its acknowledgement goes out behind what wakes the monitors of other modules. -/
theorem answeredWrite_outbox {s : State} {f : Flit} (h1 : 1 ≤ flitCount f) (hports : s.portsUp ≠ []) :
    ∃ wakes x, (answeredWrite s f).outbox = s.outbox ++ wakes ++ [x] ∧ x.kind = 3 ∧ x.tag = f.tag ∧ x.dst = f.src ∧
      (s.NoPeers → wakes = []) := by
  obtain ⟨-, hup, ⟨wakes, hwakes⟩, hquiet⟩ := homeWrite_spec s f
  obtain ⟨x, hx⟩ := answerFlits_nil (homeWrite s f) h1 3
  obtain ⟨hkind, htag, hdst⟩ := mem_answerFlits (hx ▸ List.mem_singleton_self x)
  refine ⟨wakes, x, ?_, hkind, htag, hdst, fun hpeers => List.self_eq_append_right.1 ((hquiet hpeers).symm.trans hwakes)⟩
  rw [answeredWrite, outbox_sendFlits (by rwa [hup]), hwakes, hx]

/-! The receipt of a flit (R309, R312). -/

section
variable {s : State} (f : Flit)

theorem exec_flitReceive_nothing (ok : Bool) (h : (s.port s.focus.port).up = false ∨ Config.narebPorts ≤ s.focus.port) :
    exec (.flitReceive f ok) s = .next s := by
  change execFlitReceive f ok s = _
  simp only [execFlitReceive, State.port_id]
  exact if_pos (by simpa using h)

variable (hup : (s.port s.focus.port).up = true) (hn : s.focus.port < Config.narebPorts)
include hup hn

theorem flitReceive_serves : (!(s.port s.focus.port).up || decide (Config.narebPorts ≤ s.focus.port)) = false := by
  simp [hup, hn]

theorem exec_flitReceive_holds (ok : Bool) (hhold : (s.port s.focus.port).hold ≠ []) :
    exec (.flitReceive f ok) s = .next (holdInput s (.flitReceive f ok)) := by
  change execFlitReceive f ok s = _
  simp [execFlitReceive, State.port_id, flitReceive_serves hup hn, hhold]

section
variable (hhold : (s.port s.focus.port).hold = [])
include hhold

theorem exec_flitReceive_bad : exec (.flitReceive f false) s = .next
    (if (s.port s.focus.port).retry then failPort s (s.port s.focus.port)
     else putPort s { s.port s.focus.port with retry := true }) := by
  have hopen : (!(s.port s.focus.port).hold.isEmpty) = false := by rw [hhold]; rfl
  change execFlitReceive f false s = _
  simp only [execFlitReceive, State.port_id, flitReceive_serves hup hn, hopen, Bool.not_false, Bool.true_or, Bool.false_eq_true,
    if_false, if_true]
  split <;> rfl

/-- A request that passes is performed by a step of its own. -/
theorem exec_flitReceive_request (hretry : (s.port s.focus.port).retry = false)
    (hreq : f.kind = 0 ∨ f.kind = 4 ∧ (f.payload.getD 8 0).toNat ≠ codeBeat) : exec (.flitReceive f true) s =
    .next (s.soon [.run { Focus.none with die := Config.portDie s.focus.port } (.narebRequest f)]) := by
  have haccept : acceptFlit s (s.port s.focus.port) f =
      s.soon [.run { Focus.none with die := Config.portDie s.focus.port } (.narebRequest f)] := by
    rcases hreq with hkind | ⟨hkind, hcode⟩
    · simp [acceptFlit, hkind, State.port_id]
    · have hbeat : (((flitBody f).getD 0 0).toNat == codeBeat) = false := by
        simpa [flitBody] using hcode
      simp only [acceptFlit, hkind, hbeat, State.port_id]
      rfl
  have hkind : (decide (8 ≤ f.kind.toNat)) = false := by
    rcases hreq with hkind | ⟨hkind, -⟩ <;> rw [hkind] <;> rfl
  change execFlitReceive f true s = _
  simp only [execFlitReceive, State.port_id, flitReceive_serves hup hn, hhold, hkind, hretry, haccept, Bool.false_eq_true, if_false]
  rfl

end
end

theorem flitsAndRequestsOfOtherModules : Claims.FlitsAndRequestsOfOtherModules := by
  unfold Claims.FlitsAndRequestsOfOtherModules
  intro s f n d p
  have hid : p.id = n := s.port_id n
  refine ⟨fun hout ok => exec_flitReceive_nothing f ok hout, fun hup hn hhold ok => exec_flitReceive_holds f hup hn ok hhold,
    fun hup hn hhold hd => ⟨fun hretry => ?_, fun hretry => ?_, fun hretry hreq => ?_⟩, ?_⟩
  · refine ⟨putPort s { p with retry := true }, ?_, (putPort_same s _).mem, ?_⟩
    · rw [exec_flitReceive_bad f hup hn hhold, if_neg (by rw [Bool.not_eq_true]; exact hretry)]
    · exact port_putPort_at (p := { p with retry := true }) hid hn hd
  · refine ⟨failPort s p, ?_, up_failPort hid hn hd, recs_failPort hid hd⟩
    rw [exec_flitReceive_bad f hup hn hhold, if_pos hretry]
  · exact ⟨_, exec_flitReceive_request f hup hn hhold hretry hreq, rfl, rfl, rfl⟩
  · intro a n hmem h1 h64 hback hports _
    refine ⟨fun hkind hsound => ?_, fun hkind hbad => ?_, fun hkind hlen => ?_, fun hkind hsound hform => ?_⟩
    · exact ⟨_, exec_narebRequest_reads h1 h64 hback hkind hsound, (sendFlits_same s _).mem, _, outbox_sendFlits hports _,
        payload_readAnswer s h1 s.mem (paLocal a) _, fun x hx => mem_answerFlits hx⟩
    · exact ⟨exec_narebRequest_lost h1 h64 hback hkind hbad, homeLost_silent⟩
    · obtain ⟨hread, hother⟩ := answeredWrite_bytes hmem hlen
      exact ⟨_, exec_narebRequest_writes h1 h64 hback hkind, hread, hother, answeredWrite_outbox h1 hports⟩
    · refine ⟨_, exec_narebRequest_atomic h1 h64 hback hkind hsound hform, fun b hb => ?_⟩
      rw [(sendFlits_same _ _).mem, (flush_sameButTraffic _ _).mem]
      exact homeAtomic_keepsOutside hform s (paLocal a) n b hb

/-! Held beats (R316). -/

theorem now_postHeld (s : State) (n : Nat) (b : Beat) (x d : Nat) : (postHeld s n b x).now d = s.now d := by
  unfold postHeld
  split
  · rfl
  · exact now_post ..

theorem postHeld_dies_length (s : State) (n : Nat) (b : Beat) (x : Nat) : (postHeld s n b x).dies.length = s.dies.length := by
  unfold postHeld
  split
  · rfl
  · exact post_dies_length ..

theorem postHeld_posted {b : Beat} (h : b.posted = true) (s : State) (n x : Nat) : postHeld s n b x = s := if_pos h

/-- A beat of this module's own needs no acknowledgement. -/
theorem ackBeat_own {s : State} {b : Beat} (h : b.src = s.module.nrid.toNat) : ackBeat s b = s :=
  if_pos (beq_iff_eq.2 h)

/-- Port n with what it still holds, and the cycle of its next re-translation. -/
def reheld (s : State) (n : Nat) (left : List Beat) : State :=
  putPort s { s.port n with hold := left, holdAt := s.now (Config.portDie n) + 4096 }

theorem reheld_spec {s : State} {n : Nat} (hn : n < Config.narebPorts) (hd : Config.portDie n < s.dies.length) (left : List Beat) :
    (reheld s n left).mem = s.mem ∧ ((reheld s n left).port n).hold = left ∧
    ((reheld s n left).port n).holdAt = s.now (Config.portDie n) + 4096 := by
  have hport : (reheld s n left).port n = { s.port n with hold := left, holdAt := s.now (Config.portDie n) + 4096 } :=
    port_putPort_at (p := { s.port n with hold := left, holdAt := s.now (Config.portDie n) + 4096 }) (s.port_id n) hn hd
  rw [hport]
  exact ⟨(putPort_same s _).mem, rfl, rfl⟩

section
variable {s : State}

theorem exec_xferHoldRetranslate_waits
    (h : (s.port s.focus.port).hold = [] ∨ s.now (Config.portDie s.focus.port) < (s.port s.focus.port).holdAt) :
    exec .xferHoldRetranslate s = .next s := by
  change execXferHoldRetranslate s = _
  simp only [execXferHoldRetranslate, State.port_id]
  exact if_pos (by simpa using h)

variable {b : Beat} (hhold : (s.port s.focus.port).hold = [b])
  (hdue : (s.port s.focus.port).holdAt ≤ s.now (Config.portDie s.focus.port))
include hhold hdue

theorem exec_xferHoldRetranslate_due : exec .xferHoldRetranslate s = .next
    (reheld (flushHold s s.focus.port [b]).2 s.focus.port (flushHold s s.focus.port [b]).1) := by
  have hgo : ([b].isEmpty ||
      decide (s.now (Config.portDie s.focus.port) < (s.port s.focus.port).holdAt)) = false := by
    simp [hdue]
  change execXferHoldRetranslate s = _
  simp only [execXferHoldRetranslate, State.port_id, hgo, hhold, reheld, Bool.false_eq_true, if_false]

/-- A held beat that can be written leaves. -/
theorem exec_xferHoldRetranslate_written {u : State} (hland : landBeat s (Config.portDie s.focus.port) b = .written u)
    (hown : b.src = u.module.nrid.toNat) : exec .xferHoldRetranslate s = .next (reheld u s.focus.port []) := by
  rw [exec_xferHoldRetranslate_due hhold hdue]
  simp only [flushHold, hland, ackBeat_own hown]

/-- A held beat whose page is absent stays, with its one record. -/
theorem exec_xferHoldRetranslate_stays {x : Nat} {u : State} (hland : landBeat s (Config.portDie s.focus.port) b = .held x u) :
    exec .xferHoldRetranslate s = .next (reheld (postHeld u s.focus.port b x) s.focus.port [{ b with posted := true }]) := by
  rw [exec_xferHoldRetranslate_due hhold hdue]
  simp only [flushHold, hland]

end

theorem heldBeatsAreRetried : Claims.HeldBeatsAreRetried := by
  unfold Claims.HeldBeatsAreRetried
  intro s n d p
  refine ⟨fun h => exec_xferHoldRetranslate_waits h, fun b u hhold hdue hn hd hland hown => ?_,
    fun b x u hhold hdue hn hd hland => ?_⟩
  · obtain ⟨hmem, hleft, -⟩ := reheld_spec hn hd []
    exact ⟨_, exec_xferHoldRetranslate_written hhold hdue hland hown, hmem, hleft⟩
  · obtain ⟨hmem, hleft, hat⟩ := reheld_spec (s := postHeld u n b x) hn (by rwa [postHeld_dies_length]) [{ b with posted := true }]
    refine ⟨_, exec_xferHoldRetranslate_stays hhold hdue hland, hmem, fun hposted => ?_, hleft, ?_⟩
    · rw [hmem, postHeld_posted hposted]
    · rw [hat, now_postHeld]

/-- Settles O49: flits and requests by kind, and a held beat by what becomes of it. -/
theorem linksCarryFlitsAndBeats : Obligations.LinksCarryFlitsAndBeats :=
  ⟨flitsAndRequestsOfOtherModules, heldBeatsAreRetried⟩

end Sys2Proof.Machine
end

section
/-! SUPPORT. The steps of a start, of the firmware registers and of attestation where they complete, and what each leaves. -/

namespace Sys2Proof.Machine

/-! Starts (R324, R325, R330). -/

theorem exec_moduleStart_begins {s : State} (v : W64) (h : s.module.phase ≠ .starting) : exec (.moduleStart v) s =
    .next (beginStart ((resetModule s).updMod fun m => { m with clr := v.getLsbD 2, nextSeq := s.module.nextSeq }) (v.getLsbD 1)) := by
  change execModuleStart v s = _
  simp [execModuleStart, h]

theorem diesUsable_iff {s : State} : diesUsable s = true ↔ ∀ x ∈ s.dies, x.usable ≠ [] := by
  simp [diesUsable]

section
variable {s : State} (hphase : s.module.phase = .starting) (hpower : s.module.off = false)
include hphase hpower

/-- A step of a start whose work succeeds is followed by the next one, and the last one opens the module. -/
theorem exec_startStepDone_works {t : State} (h0 : s.module.step ≠ 0) (hwork : startWork s s.module.step = some t) :
    exec .startStepDone s = .next (if s.module.step < 7 then t.updMod fun m => { m with step := s.module.step + 1 }
      else t.updMod fun m => { m with phase := .running, step := 0, attempts := m.attempts + 1 }) := by
  have hgo : (s.module.phase != .starting || s.module.off || s.module.step == 0) = false := by simp [hphase, hpower, h0]
  change execStartStepDone s = _
  simp only [execStartStepDone, hgo, hwork, Bool.false_eq_true, if_false]
  split <;> rfl

end

/-- What a step of a start keeps of where the start stands. -/
structure KeepsStart (m m' : Module) : Prop where
  phase : m'.phase = m.phase
  attempts : m'.attempts = m.attempts

theorem trainPorts_keepsStart (s : State) : KeepsStart s.module (trainPorts s).module := by
  have hfold (ns : List Nat) (t : State) : (ns.foldl (fun s n => putPort s { LinkPort.reset n with up := false }) t).module = t.module := by
    induction ns generalizing t with
    | nil => rfl
    | cons n ns ih => exact (ih _).trans (putPort_same t _).module
  simp only [trainPorts, hfold]
  exact ⟨rfl, rfl⟩

/-- Without a fault a step does its table's work. -/
theorem startWork_eq {s : State} (hfaults : s.module.parts.faults = []) (k : Nat) : startWork s k = stepWork s k := by
  simp [startWork, hfaults]

/-- Each of the first six steps does its work, given usable blocks and a sound image. -/
theorem stepWork_succeeds {s : State} {k : Nat} (h1 : 1 ≤ k) (h6 : k ≤ 6)
    (hfuses : k = 1 → ∀ x ∈ (readFuses s).dies, x.usable ≠ []) (htest : k = 3 → ∀ x ∈ (selfTest s).dies, x.usable ≠ [])
    (himage : k = 6 → imageOk s.module s.module.fwAct = true) :
    ∃ t, stepWork s k = some t ∧ KeepsStart s.module t.module := by
  obtain rfl | rfl | rfl | rfl | rfl | rfl : k = 1 ∨ k = 2 ∨ k = 3 ∨ k = 4 ∨ k = 5 ∨ k = 6 := by omega
  · exact ⟨readFuses s, if_pos (diesUsable_iff.2 (hfuses rfl)), ⟨rfl, rfl⟩⟩
  · exact ⟨s, rfl, ⟨rfl, rfl⟩⟩
  · exact ⟨selfTest s, if_pos (diesUsable_iff.2 (htest rfl)), ⟨rfl, rfl⟩⟩
  · exact ⟨trainPorts s, rfl, trainPorts_keepsStart s⟩
  · by_cases hclear : (coldNow s.module || s.module.clr) = true
    · exact ⟨_, if_pos hclear, ⟨rfl, rfl⟩⟩
    · exact ⟨s, if_neg hclear, ⟨rfl, rfl⟩⟩
  · have hdone : stepWork s 6 = some s := by simp only [stepWork, himage rfl, if_true]
    exact ⟨s, hdone, ⟨rfl, rfl⟩⟩

/-- The last step ends the start once every die has a region for its system software. -/
theorem stepWork_last {s : State} (husable : ∀ x ∈ s.dies, x.usable ≠ []) : stepWork s 7 = some (lastStep s) :=
  if_pos (diesUsable_iff.2 husable)

/-! Firmware and attestation (R328, R329). -/

theorem fwOpen_iff {m : Module} : fwOpen m = true ↔ m.phase ≠ .starting ∧ m.fwBusy = 0 := by
  simp [fwOpen]

section
variable {s : State} (v : W64) (hopen : fwOpen s.module = true)
include hopen

theorem exec_fwdata_writes (hofs : s.module.fwOfs < 2 ^ 22) :
    ∃ l, exec (.fwdata v) s = .next (s.updMod fun m => { m with fwOfs := m.fwOfs + 1, fwVok := false, fwBytes := l }) := by
  have hroom : (!fwOpen s.module || decide (2 ^ 22 ≤ s.module.fwOfs)) = false := by
    rw [hopen, decide_eq_false (Nat.not_le.2 hofs)]; rfl
  exact ⟨_, if_neg (Bool.not_eq_true _ ▸ hroom)⟩

theorem exec_fwErase_begins : ∃ t, exec (.fwErase v) s = .next t ∧ t.module.fwBusy = 1 ∧ t.module.fwOfs = 0 ∧ t.module.fwVok = false :=
  ⟨_, if_neg (by simp [hopen]), rfl, rfl, rfl⟩

theorem exec_fwVerify_begins : exec (.fwVerify v) s = .next (s.updMod fun m => { m with fwBusy := 2 }) :=
  if_neg (by simp [hopen])

theorem exec_fwActivate_switches (hvok : s.module.fwVok = true) :
    exec (.fwActivate v) s = .next (s.updMod fun m => { m with fwAct := !m.fwAct }) :=
  if_pos (by simp [hopen, hvok])

end

theorem exec_fwEraseDone_ends {s : State} (h : s.module.fwBusy = 1) :
    exec .fwEraseDone s = .next (s.updMod fun m => { m with fwBusy := 0 }) :=
  if_pos (beq_iff_eq.2 h)

theorem exec_fwVerifyDone_ends {s : State} (h : s.module.fwBusy = 2) :
    exec .fwVerifyDone s = .next (s.updMod fun m => { m with fwBusy := 0, fwVok := imageOk m !m.fwAct }) :=
  if_pos (beq_iff_eq.2 h)

/-- A report that the module's memory has room for is written there. -/
theorem exec_attest_writes {s : State} (v : W64) (hphase : s.module.phase = .running) (hidle : s.module.attState ≠ 1)
    {dg : BitVec 256} (hdigest : s.module.digest = some dg) (hlocal : s.isLocal s.module.attDst.toNat = true)
    (hroom : paLocal s.module.attDst.toNat + 7568 ≤ 0x6000000000) : exec (.attest v) s =
      .next ((pokeBytes s (paLocal s.module.attDst.toNat) (report s dg)).updMod fun m => { m with attState := 2 }) := by
  have hgo : (s.module.phase == .starting || s.module.attState == 1) = false := by rw [hphase, beq_eq_false_iff_ne.2 hidle]; rfl
  have hbuffer : (s.module.phase == .recovery || !s.isLocal s.module.attDst.toNat ||
      decide (Config.bondedEnd < paLocal s.module.attDst.toNat + reportBytes)) = false := by
    have hend : ¬ Config.bondedEnd < paLocal s.module.attDst.toNat + reportBytes := Nat.not_lt.2 hroom
    simp [hphase, hlocal, hend]
  change execAttest v s = _
  simp only [execAttest, hgo, hdigest, hbuffer, Bool.false_eq_true, if_false]

/-- Settles O54: each step completes by its own equation, and the first six steps of a start do their work by cases on the step. -/
theorem linkAndStartStepsComplete : Obligations.LinkAndStartStepsComplete := by
  intro s f v m p mod a n open_
  have hfw (h : open_) : fwOpen s.module = true := fwOpen_iff.2 h
  refine ⟨fun hup hn hhold hretry hkind => ⟨_, exec_flitReceive_request f hup hn hhold hretry (.inl hkind), rfl⟩,
    fun hmem h1 h64 hback hkind hlen => ⟨_, exec_narebRequest_writes h1 h64 hback hkind, (answeredWrite_bytes hmem hlen).1⟩,
    fun b u hhold hdue hn hd hland hown => ?_, ⟨_, rfl, rfl, rfl, rfl, rfl⟩,
    fun hphase => ⟨_, exec_moduleStart_begins v hphase, rfl, rfl, rfl⟩,
    fun hphase hpower hfaults h1 h6 himage hfuses htest => ?_, fun hphase hpower hfaults hlast husable => ?_,
    fun hopen hofs => ?_, fun hopen => exec_fwErase_begins v (hfw hopen),
    fun hopen => ⟨_, exec_fwVerify_begins v (hfw hopen), rfl⟩,
    fun hopen hvok => ⟨_, exec_fwActivate_switches v (hfw hopen) hvok, rfl⟩,
    fun hbusy => ⟨_, exec_fwEraseDone_ends hbusy, rfl⟩, fun hbusy => ⟨_, exec_fwVerifyDone_ends hbusy, by simp [m]⟩,
    fun hphase hidle hdigest hlocal hroom => ?_⟩
  · obtain ⟨hmem, hhold', -⟩ := reheld_spec hn hd []
    exact ⟨_, exec_xferHoldRetranslate_written hhold hdue hland hown, hmem, hhold'⟩
  · obtain ⟨t, hwork, hkeep⟩ := stepWork_succeeds h1 h6 hfuses htest himage
    have hexec := exec_startStepDone_works hphase hpower (Nat.ne_of_gt h1) ((startWork_eq hfaults _).trans hwork)
    rw [if_pos (Nat.lt_succ_of_le h6)] at hexec
    exact ⟨_, hexec, hkeep.phase.trans hphase, rfl, hkeep.attempts⟩
  · have hseven : s.module.step = 7 := hlast
    have hwork : startWork s s.module.step = some (lastStep s) := by rw [hseven, startWork_eq hfaults, stepWork_last husable]
    have hexec := exec_startStepDone_works hphase hpower (by omega) hwork
    rw [if_neg (by omega)] at hexec
    exact ⟨_, hexec, rfl, rfl, rfl⟩
  · obtain ⟨l, hexec⟩ := exec_fwdata_writes v (hfw hopen) hofs
    exact ⟨_, hexec, rfl, rfl⟩
  · obtain ⟨dg, hdg⟩ := Option.ne_none_iff_exists'.1 hdigest
    exact ⟨_, exec_attest_writes v hphase hidle hdg hlocal hroom, rfl⟩

end Sys2Proof.Machine
end
